-- ==== Sys2Proof/Word.lean ====
section
/-! DEFINITION. Words and the plain records that instructions and events carry. -/

namespace Sys2Proof

/-- A byte of memory. -/
abbrev Byte := BitVec 8

/-- A scalar register (R65). -/
abbrev Word := BitVec 64

/-- A core of the module: its SG number and its index within the SG (R9). Index 256 is the translation
service core of the SG (R10). -/
structure CoreId where
  sgn : Nat
  idx : Nat
  deriving DecidableEq, Repr, Inhabited

/-- A page of a VIF's translation context (R306): the space it serves, its first virtual address, its size in bytes
and the first physical address. -/
structure PageMap where
  space : Nat
  va    : Nat
  size  : Nat
  pa    : Nat
  deriving DecidableEq, Repr, Inhabited

/-- A link or memory whose failure makes accesses fail as dead links (R181, R344). -/
inductive Link where
  /-- the network of one reach, which carries its HBM stacks -/
  | reach (n : Nat)
  /-- the butterflies of one SG -/
  | sg (n : Nat)
  /-- one capacity-tier chip -/
  | mule (n : Nat)
  /-- the Ethernet ports, which reach host memory and other devices -/
  | fabric
  deriving DecidableEq, Repr, Inhabited

/-- A partition that a router failure resets (R344): one SG or one reach. -/
inductive Partition where
  | sg (n : Nat)
  | reach (n : Nat)
  deriving DecidableEq, Repr, Inhabited

/-- A firmware image as VERIFY finds it (R318): its SHA-256, whether its signature holds, its security version. -/
structure FirmwareImage where
  digest    : BitVec 256
  signed    : Bool
  version   : Nat
  deriving DecidableEq, Repr, Inhabited

/-- What Primin fixes when it creates a VIF (R290, R294, R332, R341). Budgets are in the order CORE, HBM, CAPT,
FAB, MATCH; 2^40 stands for unlimited (R293). -/
structure VifParams where
  id        : Nat
  per       : Nat
  budgets   : List Nat
  /-- for each SGN in order, one bit for each tile of the SG -/
  mask      : List Nat
  saveBase  : Nat
  recBase   : Nat
  window    : Nat
  bwCap     : Nat
  ringCap   : Nat
  /-- the steward's code, at most 4,096 bytes -/
  steward   : List (BitVec 8)
  deriving DecidableEq, Repr, Inhabited

/-- An access of another device to a VIF's memory (R311, R228). -/
inductive RemoteAccess where
  | read (len : Nat)
  | write (data : List (BitVec 8))
  | add (operand : BitVec 64)
  | swap (operand : BitVec 64)
  | cas (expected new : BitVec 64)
  deriving DecidableEq, Repr, Inhabited

end Sys2Proof
end

