-- ==== Sys2Proof/Syntax.lean ====
section
/-! DEFINITION. The instructions of Larco and the events of the K4: one constructor for each row of the opcode table.
The arguments of an instruction are the fields of its word, in the order of the table, as wide as the format makes
them (R72); which values a field may hold is WellFormed. The arguments of an event say which of the things that the
state holds the step is about, or carry what comes from outside the module (log 27). -/

namespace Sys2Proof

/-- An instruction word or an event of the opcode table. -/
inductive Instr where
  /-- R115. Writes a + b modulo 2^64 to XD. -/
  | add (d : BitVec 5) (a : BitVec 5) (b : BitVec 5)
  /-- R115. Writes a − b modulo 2^64 to XD. -/
  | sub (d : BitVec 5) (a : BitVec 5) (b : BitVec 5)
  /-- R115. Writes the bitwise AND of two registers. -/
  | and (d : BitVec 5) (a : BitVec 5) (b : BitVec 5)
  /-- R115. Writes the bitwise OR of two registers. -/
  | or (d : BitVec 5) (a : BitVec 5) (b : BitVec 5)
  /-- R115. Writes the bitwise XOR of two registers. -/
  | xor (d : BitVec 5) (a : BitVec 5) (b : BitVec 5)
  /-- R115. Shifts a left by b[5:0]. -/
  | sll (d : BitVec 5) (a : BitVec 5) (b : BitVec 5)
  /-- R115. Shifts a logically right by b[5:0]. -/
  | srl (d : BitVec 5) (a : BitVec 5) (b : BitVec 5)
  /-- R115. Shifts a arithmetically right by b[5:0]. -/
  | sra (d : BitVec 5) (a : BitVec 5) (b : BitVec 5)
  /-- R115. Shifts a left by the immediate SH. -/
  | sllImm (d : BitVec 5) (a : BitVec 5) (s : BitVec 6)
  /-- R115. Shifts a logically right by the immediate SH. -/
  | srlImm (d : BitVec 5) (a : BitVec 5) (s : BitVec 6)
  /-- R115. Shifts a arithmetically right by the immediate SH. -/
  | sraImm (d : BitVec 5) (a : BitVec 5) (s : BitVec 6)
  /-- R115. Writes the low 64 bits of a · b. -/
  | mul (d : BitVec 5) (a : BitVec 5) (b : BitVec 5)
  /-- R115. Writes the high 64 bits of the signed 128-bit product. -/
  | mulh (d : BitVec 5) (a : BitVec 5) (b : BitVec 5)
  /-- R115. Writes the high 64 bits of the unsigned 128-bit product. -/
  | mulhn (d : BitVec 5) (a : BitVec 5) (b : BitVec 5)
  /-- R116. Writes the signed quotient truncated toward zero, with the boundary cases of Table 6.2. -/
  | div (d : BitVec 5) (a : BitVec 5) (b : BitVec 5)
  /-- R116. Writes the unsigned quotient, all ones for a zero divisor. -/
  | divn (d : BitVec 5) (a : BitVec 5) (b : BitVec 5)
  /-- R116. Writes the signed remainder taking the dividend's sign. -/
  | rem (d : BitVec 5) (a : BitVec 5) (b : BitVec 5)
  /-- R116. Writes the unsigned remainder. -/
  | remn (d : BitVec 5) (a : BitVec 5) (b : BitVec 5)
  /-- R115. Writes 1 if a < b signed, else 0. -/
  | slt (d : BitVec 5) (a : BitVec 5) (b : BitVec 5)
  /-- R115. Writes 1 if a < b unsigned, else 0. -/
  | sltn (d : BitVec 5) (a : BitVec 5) (b : BitVec 5)
  /-- R115. Writes the signed minimum. -/
  | min (d : BitVec 5) (a : BitVec 5) (b : BitVec 5)
  /-- R115. Writes the signed maximum. -/
  | max (d : BitVec 5) (a : BitVec 5) (b : BitVec 5)
  /-- R115. Writes the unsigned minimum. -/
  | minn (d : BitVec 5) (a : BitVec 5) (b : BitVec 5)
  /-- R115. Writes the unsigned maximum. -/
  | maxn (d : BitVec 5) (a : BitVec 5) (b : BitVec 5)
  /-- R115. Adds a sign-extended 16-bit immediate. -/
  | addi (d : BitVec 5) (a : BitVec 5) (i : BitVec 16)
  /-- R78. Writes xa plus the sign-extended immediate times 65,536. -/
  | lih (d : BitVec 5) (a : BitVec 5) (i : BitVec 16)
  /-- R115. ANDs with a zero-extended immediate. -/
  | andi (d : BitVec 5) (a : BitVec 5) (i : BitVec 16)
  /-- R115. ORs with a zero-extended immediate. -/
  | ori (d : BitVec 5) (a : BitVec 5) (i : BitVec 16)
  /-- R115. XORs with a zero-extended immediate. -/
  | xori (d : BitVec 5) (a : BitVec 5) (i : BitVec 16)
  /-- R117. Branches when the two registers are equal. -/
  | beq (a : BitVec 5) (b : BitVec 5) (o : BitVec 16)
  /-- R117. Branches when the two registers differ. -/
  | bne (a : BitVec 5) (b : BitVec 5) (o : BitVec 16)
  /-- R117. Branches when a < b signed. -/
  | blt (a : BitVec 5) (b : BitVec 5) (o : BitVec 16)
  /-- R117. Branches when a ≥ b signed. -/
  | bge (a : BitVec 5) (b : BitVec 5) (o : BitVec 16)
  /-- R117. Branches when a < b unsigned. -/
  | bltn (a : BitVec 5) (b : BitVec 5) (o : BitVec 16)
  /-- R117. Branches when a ≥ b unsigned. -/
  | bgen (a : BitVec 5) (b : BitVec 5) (o : BitVec 16)
  /-- R118. Writes PC + 4 to XD and jumps PC-relative. -/
  | jal (d : BitVec 5) (o : BitVec 21)
  /-- R118. Writes PC + 4 to XD and jumps to xa + imm with bits [1:0] cleared. -/
  | jalr (d : BitVec 5) (a : BitVec 5) (i : BitVec 16)
  /-- R200. Loads one byte, sign-extended. -/
  | ldb (d : BitVec 5) (k : BitVec 4) (i : BitVec 5) (s : BitVec 2) (o : BitVec 9)
  /-- R200. Loads one byte, zero-extended. -/
  | ldbn (d : BitVec 5) (k : BitVec 4) (i : BitVec 5) (s : BitVec 2) (o : BitVec 9)
  /-- R200. Loads two bytes, sign-extended. -/
  | ldh (d : BitVec 5) (k : BitVec 4) (i : BitVec 5) (s : BitVec 2) (o : BitVec 9)
  /-- R200. Loads two bytes, zero-extended. -/
  | ldhn (d : BitVec 5) (k : BitVec 4) (i : BitVec 5) (s : BitVec 2) (o : BitVec 9)
  /-- R200. Loads four bytes, sign-extended. -/
  | ldw (d : BitVec 5) (k : BitVec 4) (i : BitVec 5) (s : BitVec 2) (o : BitVec 9)
  /-- R200. Loads four bytes, zero-extended. -/
  | ldwn (d : BitVec 5) (k : BitVec 4) (i : BitVec 5) (s : BitVec 2) (o : BitVec 9)
  /-- R200. Loads eight bytes. -/
  | ldd (d : BitVec 5) (k : BitVec 4) (i : BitVec 5) (s : BitVec 2) (o : BitVec 9)
  /-- R203. Loads a 16-byte capability, keeping the tag only with LOADK in spaces 0–3. -/
  | ldk (d : BitVec 4) (k : BitVec 4) (i : BitVec 5) (s : BitVec 2) (o : BitVec 9)
  /-- R200. Stores the low byte of a register. -/
  | stb (d : BitVec 5) (k : BitVec 4) (i : BitVec 5) (s : BitVec 2) (o : BitVec 9)
  /-- R200. Stores the low two bytes of a register. -/
  | sth (d : BitVec 5) (k : BitVec 4) (i : BitVec 5) (s : BitVec 2) (o : BitVec 9)
  /-- R200. Stores the low four bytes of a register. -/
  | stw (d : BitVec 5) (k : BitVec 4) (i : BitVec 5) (s : BitVec 2) (o : BitVec 9)
  /-- R200. Stores eight bytes of a register. -/
  | std (d : BitVec 5) (k : BitVec 4) (i : BitVec 5) (s : BitVec 2) (o : BitVec 9)
  /-- R203. Stores a capability, keeping the tag only with STOREK in spaces 0–3. -/
  | stk (d : BitVec 4) (k : BitVec 4) (i : BitVec 5) (s : BitVec 2) (o : BitVec 9)
  /-- R207. Atomically adds xs to the word at kb and returns the old value. -/
  | amoAdd (d : BitVec 5) (k : BitVec 4) (x : BitVec 5) (s : BitVec 2) (c : BitVec 3) (w : BitVec 1)
  /-- R207. Atomically swaps xs into the word at kb and returns the old value. -/
  | amoSwap (d : BitVec 5) (k : BitVec 4) (x : BitVec 5) (s : BitVec 2) (c : BitVec 3) (w : BitVec 1)
  /-- R207. Atomically writes xs if the word equals xd, returning the old value. -/
  | amoCas (d : BitVec 5) (k : BitVec 4) (x : BitVec 5) (s : BitVec 2) (c : BitVec 3) (w : BitVec 1)
  /-- R207. Atomically keeps the larger of the word and xs, signed or natural. -/
  | amoMax (d : BitVec 5) (k : BitVec 4) (x : BitVec 5) (s : BitVec 2) (c : BitVec 3) (w : BitVec 1) (n : BitVec 1)
  /-- R207. Atomically keeps the smaller of the word and xs, signed or natural. -/
  | amoMin (d : BitVec 5) (k : BitVec 4) (x : BitVec 5) (s : BitVec 2) (c : BitVec 3) (w : BitVec 1) (n : BitVec 1)
  /-- R207. Atomically ANDs xs into the word. -/
  | amoAnd (d : BitVec 5) (k : BitVec 4) (x : BitVec 5) (s : BitVec 2) (c : BitVec 3) (w : BitVec 1)
  /-- R207. Atomically ORs xs into the word. -/
  | amoOr (d : BitVec 5) (k : BitVec 4) (x : BitVec 5) (s : BitVec 2) (c : BitVec 3) (w : BitVec 1)
  /-- R204. Loads a vector register, converting from the pointer's format. -/
  | vld (d : BitVec 6) (k : BitVec 4) (i : BitVec 5) (s : BitVec 2) (t : BitVec 4) (o : BitVec 5)
  /-- R204. Stores a vector register, converting to the pointer's format. -/
  | vst (d : BitVec 6) (k : BitVec 4) (i : BitVec 5) (s : BitVec 2) (t : BitVec 4) (o : BitVec 5)
  /-- R124. Adds lanes, rounding once. -/
  | vadd (d : BitVec 6) (a : BitVec 6) (b : BitVec 6) (t : BitVec 4) (r : BitVec 3) (q : BitVec 1)
  /-- R124. Subtracts lanes, rounding once. -/
  | vsub (d : BitVec 6) (a : BitVec 6) (b : BitVec 6) (t : BitVec 4) (r : BitVec 3) (q : BitVec 1)
  /-- R124. Multiplies lanes, rounding once. -/
  | vmul (d : BitVec 6) (a : BitVec 6) (b : BitVec 6) (t : BitVec 4) (r : BitVec 3) (q : BitVec 1)
  /-- R124. Divides lanes, rounding once. -/
  | vdiv (d : BitVec 6) (a : BitVec 6) (b : BitVec 6) (t : BitVec 4) (r : BitVec 3) (q : BitVec 1)
  /-- R124. Takes the lane-wise IEEE minimum. -/
  | vmin (d : BitVec 6) (a : BitVec 6) (b : BitVec 6) (t : BitVec 4) (q : BitVec 1)
  /-- R124. Takes the lane-wise IEEE maximum. -/
  | vmax (d : BitVec 6) (a : BitVec 6) (b : BitVec 6) (t : BitVec 4) (q : BitVec 1)
  /-- R124. Computes a·b + d with one rounding. -/
  | vfma (d : BitVec 6) (a : BitVec 6) (b : BitVec 6) (t : BitVec 4) (r : BitVec 3) (q : BitVec 1)
  /-- R124. Computes d − a·b with one rounding. -/
  | vfms (d : BitVec 6) (a : BitVec 6) (b : BitVec 6) (t : BitVec 4) (r : BitVec 3) (q : BitVec 1)
  /-- R126. Correctly rounded square root of each lane. -/
  | vsqrt (d : BitVec 6) (a : BitVec 6) (t : BitVec 4) (r : BitVec 3) (q : BitVec 1)
  /-- R127. Reciprocal of each lane through the fixed approximation. -/
  | vrcp (d : BitVec 6) (a : BitVec 6) (t : BitVec 4) (r : BitVec 3) (q : BitVec 1)
  /-- R127. Reciprocal square root of each lane. -/
  | vrsqrt (d : BitVec 6) (a : BitVec 6) (t : BitVec 4) (r : BitVec 3) (q : BitVec 1)
  /-- R127. Exponential of each lane. -/
  | vexp (d : BitVec 6) (a : BitVec 6) (t : BitVec 4) (r : BitVec 3) (q : BitVec 1)
  /-- R127. Natural logarithm of each lane. -/
  | vlog (d : BitVec 6) (a : BitVec 6) (t : BitVec 4) (r : BitVec 3) (q : BitVec 1)
  /-- R127. Sine of each lane. -/
  | vsin (d : BitVec 6) (a : BitVec 6) (t : BitVec 4) (r : BitVec 3) (q : BitVec 1)
  /-- R127. Cosine of each lane. -/
  | vcos (d : BitVec 6) (a : BitVec 6) (t : BitVec 4) (r : BitVec 3) (q : BitVec 1)
  /-- R127. Hyperbolic tangent of each lane. -/
  | vtanh (d : BitVec 6) (a : BitVec 6) (t : BitVec 4) (r : BitVec 3) (q : BitVec 1)
  /-- R126. Negates each lane. -/
  | vneg (d : BitVec 6) (a : BitVec 6) (t : BitVec 4) (q : BitVec 1)
  /-- R126. Takes the absolute value of each lane. -/
  | vabs (d : BitVec 6) (a : BitVec 6) (t : BitVec 4) (q : BitVec 1)
  /-- R126. Copies a register with its poison bits. -/
  | vmov (d : BitVec 6) (a : BitVec 6) (t : BitVec 4) (q : BitVec 1)
  /-- R128. Sets each lane to all ones where the relation holds. -/
  | vcmp (d : BitVec 6) (a : BitVec 6) (b : BitVec 6) (t : BitVec 4) (r : BitVec 3) (q : BitVec 1)
  /-- R129. Selects VA or VB lanes by the mask in VD. -/
  | vsel (d : BitVec 6) (a : BitVec 6) (b : BitVec 6) (t : BitVec 4) (q : BitVec 1)
  /-- R130. Permutes VA lanes by indices in VB. -/
  | vperm (d : BitVec 6) (a : BitVec 6) (b : BitVec 6) (t : BitVec 4) (q : BitVec 1)
  /-- R132. Sums the lanes by the fixed pairwise tree into lane 0. -/
  | vredAdd (d : BitVec 6) (a : BitVec 6) (t : BitVec 4) (r : BitVec 3) (q : BitVec 1)
  /-- R132. Reduces the lanes to their minimum in lane 0. -/
  | vredMin (d : BitVec 6) (a : BitVec 6) (t : BitVec 4) (q : BitVec 1)
  /-- R132. Reduces the lanes to their maximum in lane 0. -/
  | vredMax (d : BitVec 6) (a : BitVec 6) (t : BitVec 4) (q : BitVec 1)
  /-- R133. Converts lanes between types, optionally saturating. -/
  | vcvt (d : BitVec 6) (a : BitVec 6) (x : BitVec 1) (s : BitVec 4) (t : BitVec 4) (r : BitVec 3) (q : BitVec 1)
  /-- R134. Converts with saturation and updates an amax register. -/
  | vcvtAmax (d : BitVec 6) (a : BitVec 6) (m : BitVec 2) (s : BitVec 4) (t : BitVec 4) (r : BitVec 3) (q : BitVec 1)
  /-- R131. Bitwise AND of 1,024 bits. -/
  | vand (d : BitVec 6) (a : BitVec 6) (b : BitVec 6) (t : BitVec 4) (q : BitVec 1)
  /-- R131. Bitwise OR of 1,024 bits. -/
  | vor (d : BitVec 6) (a : BitVec 6) (b : BitVec 6) (t : BitVec 4) (q : BitVec 1)
  /-- R131. Bitwise XOR of 1,024 bits. -/
  | vxor (d : BitVec 6) (a : BitVec 6) (b : BitVec 6) (t : BitVec 4) (q : BitVec 1)
  /-- R131. Shifts each lane left. -/
  | vsll (d : BitVec 6) (a : BitVec 6) (b : BitVec 6) (t : BitVec 4) (q : BitVec 1)
  /-- R131. Shifts each lane logically right. -/
  | vsrl (d : BitVec 6) (a : BitVec 6) (b : BitVec 6) (t : BitVec 4) (q : BitVec 1)
  /-- R131. Shifts each lane arithmetically right. -/
  | vsra (d : BitVec 6) (a : BitVec 6) (b : BitVec 6) (t : BitVec 4) (q : BitVec 1)
  /-- R131. Takes VA's magnitude with VB's sign. -/
  | vcopysign (d : BitVec 6) (a : BitVec 6) (b : BitVec 6) (t : BitVec 4) (q : BitVec 1)
  /-- R148. Makes a jet variable (x, 1, 0, …) from a physical register. -/
  | jseed (d : BitVec 6) (a : BitVec 6) (t : BitVec 4)
  /-- R149. Writes coefficient K times K!, rounded once. -/
  | jext (d : BitVec 6) (a : BitVec 6) (k : BitVec 3) (t : BitVec 4) (r : BitVec 3)
  /-- R150. Copies coefficient K of a jet to a physical register. -/
  | jcoef (d : BitVec 6) (a : BitVec 6) (k : BitVec 3) (t : BitVec 4)
  /-- R150. Copies a physical register into coefficient K of a jet. -/
  | jset (d : BitVec 6) (a : BitVec 6) (k : BitVec 3) (t : BitVec 4)
  /-- R151. Differentiates a jet. -/
  | jshift (d : BitVec 6) (a : BitVec 6) (t : BitVec 4) (r : BitVec 3)
  /-- R151. Integrates a jet with a zero constant. -/
  | jint (d : BitVec 6) (a : BitVec 6) (t : BitVec 4) (r : BitVec 3)
  /-- R169. Starts or resumes a run of matrix steps into an accumulator tile. -/
  | mma (a : BitVec 5) (b : BitVec 5) (c : BitVec 4) (x : BitVec 1) (y : BitVec 2) (h : BitVec 1) (m : BitVec 3)
  /-- R168. Zeroes an accumulator slot or half and clears its poison. -/
  | mzero (c : BitVec 4) (h : BitVec 2)
  /-- R166. Reads an accumulator row into a vector register with conversion. -/
  | mrd (a : BitVec 5) (c : BitVec 4) (v : BitVec 2) (d : BitVec 6)
  /-- R166. Writes a vector register into an accumulator row with conversion. -/
  | mwr (a : BitVec 5) (c : BitVec 4) (v : BitVec 2) (d : BitVec 6)
  /-- R167. Loads an accumulator tile from memory. -/
  | mld (a : BitVec 5) (b : BitVec 5) (c : BitVec 4) (h : BitVec 2) (f : BitVec 2) (k : BitVec 4)
  /-- R167. Stores an accumulator tile to memory. -/
  | mst (a : BitVec 5) (b : BitVec 5) (c : BitVec 4) (h : BitVec 2) (f : BitVec 2) (k : BitVec 4)
  /-- R173. Sends an A panel as a remote matrix step command to another core. -/
  | mxsend (a : BitVec 5) (b : BitVec 5) (k : BitVec 4)
  /-- R168. Reads the matrix status word, optionally clearing run state. -/
  | mstat (a : BitVec 5) (c : BitVec 1)
  /-- R221. Issues a plain or shaped copy to the tile's copy engine. -/
  | ecopy (a : BitVec 5) (b : BitVec 5)
  /-- R221. Issues a get into the local pool through the get/put port. -/
  | eget (a : BitVec 5) (b : BitVec 5)
  /-- R221. Issues a put from the local pool through the get/put port. -/
  | eput (a : BitVec 5) (b : BitVec 5)
  /-- R222. Issues a row gather, optionally through the remap stage. -/
  | egather (a : BitVec 5) (b : BitVec 5)
  /-- R222. Issues a row scatter, optionally through the remap stage. -/
  | escatter (a : BitVec 5) (b : BitVec 5)
  /-- R223. Sets the reaction's remap configuration. -/
  | eremap (a : BitVec 5) (b : BitVec 5)
  /-- R224. Issues an embedding pooling operation in the capacity tier. -/
  | epool (a : BitVec 5) (b : BitVec 5)
  /-- R226. Queues a top-K merge at the SG's merge tree. -/
  | emerge (a : BitVec 5) (b : BitVec 5)
  /-- R228. Issues a remote put, get or atomic over Ultra Ethernet. -/
  | esend (a : BitVec 5) (b : BitVec 5)
  /-- R217. Reads a timeline completion value and clears its FAULT bit. -/
  | tread (d : BitVec 5) (l : BitVec 3)
  /-- R217. Holds issue until a timeline counter reaches a value. -/
  | twait (l : BitVec 3) (a : BitVec 5)
  /-- R231. Returns from a user-level event handler. -/
  | evret
  /-- R217. Reads a timeline issue count. -/
  | tissue (d : BitVec 5) (l : BitVec 3)
  /-- R210. Opens a stream register on a base and shape record. -/
  | qopen (q : BitVec 3) (k : BitVec 4) (m : BitVec 4)
  /-- R212. Advances a stream without access. -/
  | qadv (q : BitVec 3)
  /-- R212. Writes 1 when the stream is exhausted. -/
  | qend (d : BitVec 5) (q : BitVec 3)
  /-- R212. Waits for write-stream stores and closes the stream. -/
  | qclose (q : BitVec 3)
  /-- R208. Loads one element of a sharded tensor. -/
  | ldt (d : BitVec 5) (k : BitVec 4) (i : BitVec 5) (t : BitVec 4)
  /-- R208. Loads a vector of sharded-tensor elements along i0. -/
  | vldt (d : BitVec 6) (k : BitVec 4) (i : BitVec 5) (t : BitVec 4)
  /-- R267. Writes a read-only capability to a reactant header. -/
  | rget (k : BitVec 4) (n : BitVec 2)
  /-- R268. Reads a key or coordinate field of a reactant. -/
  | rkey (d : BitVec 5) (f : BitVec 3) (n : BitVec 2)
  /-- R269. Takes a header slot and writes a capability to a new product header. -/
  | talloc (k : BitVec 4) (i : BitVec 10)
  /-- R270. Makes a header slot a pending product of the reaction. -/
  | emit (k : BitVec 4)
  /-- R271. Begins the collective commit, waiting for stores, operations and crew members. -/
  | commit
  /-- R272. Begins the abort of the reaction, stopping other members. -/
  | abort
  /-- R274. Suspends the reaction until a timeline counter reaches a target. -/
  | susp (l : BitVec 3) (a : BitVec 5)
  /-- R252. Suspends the reaction with KIND 0, resumable at once. -/
  | yield
  /-- R277. Computes the member's share of an extent along an axis. -/
  | part (d : BitVec 5) (a : BitVec 5) (n : BitVec 2)
  /-- R278. Writes the reaction's identity. -/
  | crewid (d : BitVec 5)
  /-- R50. Releases the member from its crew. -/
  | crewrel
  /-- R275. Waits on a memory word relation, suspending or waiting in place. -/
  | wmem (d : BitVec 5) (a : BitVec 5) (k : BitVec 4) (n : BitVec 2)
  /-- R254. Holds issue for 64 cycles, possibly pre-empting for other work. -/
  | pause
  /-- R280. Arrives at the mesh-row barrier. -/
  | barRow
  /-- R280. Arrives at the mesh-column barrier. -/
  | barCol
  /-- R280. Arrives at the SG barrier or the channelled launch barrier. -/
  | barSg
  /-- R282. Sends pool bytes to another stage core's channel at a slot. -/
  | xmit (a : BitVec 5) (k : BitVec 4)
  /-- R283. Waits for a channel's transfer of the phase and returns its length. -/
  | xsel (d : BitVec 5) (a : BitVec 5)
  /-- R286. Prefetches code lines or an overlay. -/
  | ipf (a : BitVec 5) (n : BitVec 2)
  /-- R286. Prefetches and pins code lines. -/
  | ipin (a : BitVec 5) (n : BitVec 2)
  /-- R286. Clears pin bits of code lines. -/
  | iunpin (a : BitVec 5) (n : BitVec 2)
  /-- R287. Replaces the pool split of the running reaction. -/
  | psplit (a : BitVec 5)
  /-- R299. Narrows a capability's bounds to a base and length. -/
  | kbound (d : BitVec 4) (a : BitVec 5) (k : BitVec 4)
  /-- R298. Masks a capability's permissions. -/
  | kperm (d : BitVec 4) (a : BitVec 5) (k : BitVec 4)
  /-- R297. Sets a capability's address, clearing the tag outside the window. -/
  | kaddr (d : BitVec 4) (a : BitVec 5) (k : BitVec 4)
  /-- R298. Sets a capability's FORMAT and BLOG. -/
  | kformat (d : BitVec 4) (a : BitVec 5) (k : BitVec 4)
  /-- R298. Moves a capability's address to its base. -/
  | kbase (d : BitVec 4) (k : BitVec 4)
  /-- R300. Seals a capability with an authority's object type. -/
  | kseal (d : BitVec 4) (k : BitVec 4) (m : BitVec 4)
  /-- R300. Unseals a capability with a matching authority. -/
  | kunseal (d : BitVec 4) (k : BitVec 4) (m : BitVec 4)
  /-- R301. Narrows a capability to a lease of the running launch. -/
  | klease (d : BitVec 4) (a : BitVec 5) (k : BitVec 4)
  /-- R298. Reads a capability's low 64 bits. -/
  | kgaddr (d : BitVec 5) (k : BitVec 4)
  /-- R298. Reads a capability's length. -/
  | kglen (d : BitVec 5) (k : BitVec 4)
  /-- R298. Reads a capability's base. -/
  | kgbase (d : BitVec 5) (k : BitVec 4)
  /-- R298. Reads a capability's permissions. -/
  | kgperm (d : BitVec 5) (k : BitVec 4)
  /-- R298. Reads a capability's object type, seal bit and space. -/
  | kgspace (d : BitVec 5) (k : BitVec 4)
  /-- R298. Reads a capability's tag. -/
  | kgtag (d : BitVec 5) (k : BitVec 4)
  /-- R326. Raises ECALL into the steward or the resident handler. -/
  | ecall (i : BitVec 10)
  /-- R325. Returns from a trap entry, or ends the reaction when END is set. -/
  | tret
  /-- R327. Reads a system register. -/
  | srr (d : BitVec 5) (i : BitVec 10)
  /-- R327. Writes a system register, with its value checks. -/
  | srw (a : BitVec 5) (i : BitVec 10)
  /-- R196. Waits for covered accesses and reports and clears failure records. -/
  | fence (d : BitVec 5) (c : BitVec 3) (p : BitVec 3) (u : BitVec 3)
  /-- R307. Sends one translation entry to a core's TLB. -/
  | tlbw (d : BitVec 5) (a : BitVec 5)
  /-- R345. Invalidates the issuing core's TLB entries of a VIF or all. -/
  | tlbflush (a : BitVec 5)
  /-- R337. Sends an 8-byte payload to a mailbox slot of a core. -/
  | mboxSend (d : BitVec 5) (a : BitVec 5)
  /-- R337. Binds a mailbox slot to the running reaction with a receive queue. -/
  | mboxBind (d : BitVec 5) (a : BitVec 5)
  /-- R337. Drops a mailbox slot binding. -/
  | mboxUnbind (d : BitVec 5) (a : BitVec 5)
  /-- R345. Issues a TLB shoot-down and waits for it to complete. -/
  | sdown (a : BitVec 5)
  /-- R345. Holds issue until an event, mailbox entry, interrupt or timeout. -/
  | wfe
  /-- R345. Parks the core until WAKE. -/
  | halt
  /-- R152. Reads, and optionally clears, the flags of one jet coefficient. -/
  | jfl (d : BitVec 5) (x : BitVec 1) (c : BitVec 3)
  /-- R206. Gathers vector elements by an index vector. -/
  | vldx (d : BitVec 6) (a : BitVec 6) (k : BitVec 4) (s : BitVec 2) (t : BitVec 4)
  /-- R206. Scatters vector elements by an index vector in lane order. -/
  | vstx (d : BitVec 6) (a : BitVec 6) (k : BitVec 4) (s : BitVec 2) (t : BitVec 4)
  /-- R85. Retires as a no-operation. -/
  | hint (h : BitVec 26)
  /-- R58. Accepts a LAUNCH, snapshots parameters and enters ADMITTING. -/
  | launch (vif : Nat) (msg : List Byte)
  /-- R59. Accepts tile headers into a launch, arming slack on LAST. -/
  | inject (vif : Nat) (msg : List Byte)
  /-- R315. Adds a host buffer for drained tiles. -/
  | drain (vif : Nat) (msg : List Byte)
  /-- R302. Grants a lease range and begins making it resident and pinned. -/
  | leaseGrant (vif : Nat) (msg : List Byte)
  /-- R304. Revokes a lease, effective when the last launch naming it ends. -/
  | leaseRevoke (vif : Nat) (msg : List Byte)
  /-- R310. Writes a sharding table entry, creating a new table version. -/
  | leaseShardingEntry (vif : Nat) (msg : List Byte)
  /-- R310. Sets a peer table endpoint for a device id. -/
  | leasePeer (vif : Nat) (msg : List Byte)
  /-- R61. Cancels a launch as its state dictates. -/
  | cancel (vif : Nat) (msg : List Byte)
  /-- R314. Answers with the state of a launch. -/
  | queryLaunchState (vif : Nat) (msg : List Byte)
  /-- R314. Answers with the VIF's period, backwater capacity and weirs. -/
  | queryVifWeirs (vif : Nat) (msg : List Byte)
  /-- R319. Answers with the signed measurement list. -/
  | queryAttestation (msg : List Byte)
  /-- R302. All pages of a granted lease are resident and pinned, and its ACK is sent. -/
  | leaseResident (vif lease : Nat) (pages : List PageMap)
  /-- R247. A held INJECT is accepted once room frees for all its headers. -/
  | injectRoomAccept (vif : Nat)
  /-- R288. With every named lease granted, the delta die reads and checks the image and enters RUNNING or ends ABORTED. -/
  | admission (vif lid : Nat)
  /-- R240. A confluence unit takes one decision for a launch and performs a match. -/
  | matchDecision (sgn vif lid : Nat)
  /-- R244. A tile arrives at its home unit and becomes resident or spills to the backwater. -/
  | tileArrival (n : Nat)
  /-- R245. A backwater tile is brought back to the resident store. -/
  | backwaterReturn (sgn vif lid : Nat)
  /-- R246. A product held in the transit buffer enters its unit when room frees. -/
  | transitEntry (n : Nat)
  /-- R234. An idle core chooses and starts or resumes its next work. -/
  | reactionPickup (c : CoreId)
  /-- R63. The copy engine finishes loading an overlay into a slot. -/
  | overlayLoadComplete (sgn tile slot : Nat)
  /-- R52. The single atomic commit step of a reaction is performed. -/
  | reactionCommit (sgn x : Nat)
  /-- R53. The atomic abort step of a reaction is performed. -/
  | reactionAbort (sgn x : Nat)
  /-- R60. The cycle limit expires and the launch enters WINDING. -/
  | cycleLimit (vif lid : Nat)
  /-- R250. A slack detector wave returns and may declare slack. -/
  | slackWave (vif lid : Nat)
  /-- R62. The delta die writes drained tiles into host buffers and sends COMPLETE at the end. -/
  | drainWrite (vif lid : Nat)
  /-- R218. An engine operation completes, writes its record, advances C and may queue an event. -/
  | operationComplete (n : Nat)
  /-- R174. A target unit applies or refuses a queued mxsend command. -/
  | remoteStepApply (c : CoreId)
  /-- R169. One matrix step of a run completes. -/
  | mmaStepComplete (c : CoreId)
  /-- R231. The core enters the user-level event handler for a queued event. -/
  | eventTaken (c : CoreId)
  /-- R181. An issued store is performed or fails, updating failure records and wmem waiters. -/
  | storeCompletion (n : Nat)
  /-- R275. A wmem timeout expires and the reaction resumes with outcome 0. -/
  | wmemTimeout (c : CoreId) (x : Nat)
  /-- R254. The 64-cycle hold of pause ends. -/
  | pauseExpiry (c : CoreId)
  /-- R345. A wfe ends after 4,096 cycles. -/
  | wfeTimeout (c : CoreId)
  /-- R262. A barrier episode releases its participants. -/
  | barrierRelease (n : Nat)
  /-- R264. A barrier episode's timeout expires, trapping waiters and cancelling the episode. -/
  | barTimeout (n : Nat)
  /-- R283. An xsel wait exceeds the LIMIT and traps BAR_TIMEOUT. -/
  | xselTimeout (c : CoreId)
  /-- R282. An exchange transfer lands at or is refused by its destination. -/
  | xmitArrival (n : Nat)
  /-- R338. A mailbox message is delivered to a receive queue, spilled or made a dead letter. -/
  | mailboxDelivery (n : Nat)
  /-- R308. A tlbw entry reaches its target core and is written or refused. -/
  | tlbFill (n : Nat)
  /-- R309. A core takes a shoot-down, invalidates entries and acknowledges. -/
  | shootdownReceive (n : Nat)
  /-- R311. An incoming remote access from another device is performed or refused. -/
  | remoteRequest (vif space va : Nat) (access : RemoteAccess)
  /-- R329. A PREEMPT interrupt enters the resident handler. -/
  | interruptPreempt (c : CoreId)
  /-- R329. A SWITCH interrupt enters the resident handler. -/
  | interruptSwitch (c : CoreId)
  /-- R344. A WIND interrupt stops a reaction whose launch winds down or ends. -/
  | interruptWind (c : CoreId)
  /-- R309. WAKE resumes a halted core after resetting its TLB. -/
  | interruptWake (c : CoreId)
  /-- R331. The save engine writes a pre-empted reaction's context and pool to a context record. -/
  | eviction (c : CoreId) (sound : Bool)
  /-- R330. An evicted reaction's pool and context are restored and its spill ring delivered. -/
  | restore (c : CoreId) (sound : Bool)
  /-- R294. A VIF's period starts and its weirs refill. -/
  | weirRefill (vif : Nat)
  /-- R19. A power or thermal limit is reached and Primin lowers the clock a step. -/
  | clockStepDown
  /-- R19. After 10 ms below the limit Primin raises the clock a step. -/
  | clockStepUp
  /-- R343. An uncorrectable error destroys a tile and winds the launch for ABORTED. -/
  | escrowLost (sgn n : Nat)
  /-- R181. A link dies and its pending accesses fail as dead links. -/
  | linkFailure (l : Link)
  /-- R344. A router fails, resetting its partition and ending launches with ROUTER_RESET. -/
  | routerFailure (p : Partition)
  /-- R344. A reset partition's self-test ends, restoring it or entering DEGRADED. -/
  | partitionSelftestDone (p : Partition) (pass : Bool)
  /-- R64. A tile passes to another VIF, draining, evicting pools and reloading slots. -/
  | tileVifSwitch (sgn tile vif : Nat)
  /-- R294. Primin completes creation of a VIF and its first weir period starts. -/
  | vifCreate (p : VifParams)
  /-- R290. Primin destroys a VIF. -/
  | vifDestroy (vif : Nat)
  /-- R346. Power is applied and Primin starts from ROM toward SAFE. -/
  | powerOn
  /-- R318. Firmware images are checked and measured. -/
  | verify (images : List FirmwareImage)
  /-- R20. Self-test, harvesting and routing finish and the module reaches READY or stays in SAFE. -/
  | bringUp (passed : BitVec 20)
  /-- R346. Primin resets the module to COLD, ending every VIF, lease and launch. -/
  | priminReset
  /-- R84. A core executes a word that Table 4.12 and the minor maps do not assign, including majors 0x00, 0x07, 0x3C, 0x3D and 0x3F, and it raises ILLEGAL with tvalue set to the word. -/
  | unassignedWord (w : BitVec 32)
  /-- R317. Supply power is lost, which may waste an HSS signature index and ends all work until power returns. -/
  | powerLoss
  /-- R328. Primin restores a core that a double trap stopped, returning it to use. -/
  | coreRestore (c : CoreId)
  deriving DecidableEq, Repr, Inhabited

end Sys2Proof
end

