-- ==== Sys2Proof/Config.lean ====
section
/-! DEFINITION. What one machine fixes, and the free values: constants with no body, of which nothing can be computed
or proved, so that what is shown holds whatever they are. -/

namespace Sys2Proof

/-- Whose turn a step is: the next instruction of a core, an event of the opcode table, or one of the four things that
happen by themselves and are no row of the table. -/
inductive Turn where
  | core (c : CoreId)
  | event (i : Instr)
  /-- one access of an engine operation, by its place among those outstanding (R229; log 16) -/
  | engine (n : Nat)
  /-- a stream of a core reads one piece ahead: the stream, the position, and the place of the piece among those that this
  position has not read and knows of (R210, R213; log 5) -/
  | prefetch (c : CoreId) (q p k : Nat)
  /-- an uncorrectable error poisons the granule of 32 bytes at an address of the model's line (R342) -/
  | upset (a : Nat)
  /-- an error of a row of Table 14.10 is corrected (R342; log 62) -/
  | corrected (row : Nat)
  deriving DecidableEq, Repr, Inhabited

namespace Config

/-- Bytes of a core's pool (R12). -/
abbrev poolBytes : Nat := 98304
/-- Length of each half of handler memory (R320). -/
abbrev handlerBytes : Nat := 4096
/-- Cores of an SG (R7); also the index that stands for the translation service core. -/
abbrev tsc : Nat := 256
/-- SGs built (R9). -/
abbrev sgs : Nat := 20
/-- Escrow slots of a unit (R43). -/
abbrev escrowSlots : Nat := 4096
/-- Reaction records of an SG (R43). -/
abbrev records : Nat := 16384
/-- Resident headers of a unit (R244). -/
abbrev residentSlots : Nat := 4096
/-- Entries of a TLB (R306). -/
abbrev tlbEntries : Nat := 64
/-- Launches a unit serves (R249). -/
abbrev launchesPerUnit : Nat := 64
/-- Bytes of HBM: eight stacks of 48 GiB (R15). -/
abbrev hbmBytes : Nat := 3 * 2 ^ 37
/-- The value that stands for an unlimited weir (R293). -/
abbrev unlimited : Nat := 2 ^ 40

/-- The turn that comes when the agenda names none (log 1). -/
opaque schedule : Nat → Turn
/-- Cycles that an instruction takes beyond its own issue cycle (log 6). -/
opaque extraCycles : Nat → Nat
/-- Cycles that the wait timer of an SG counts during a turn: its time, its SG (R275, R14; log 68). -/
opaque timerCycles : Nat → Nat → Nat
/-- A byte read from host memory or another device (log 21). -/
opaque foreignByte : Nat → Nat → BitVec 8
/-- Whether a remote target refuses an access (log 21). -/
opaque foreignRefuses : Nat → Bool
/-- The reach whose HBM stack backs a physical HBM address (R183, log 22). -/
opaque hbmReach : Nat → Nat
/-- Whether the write of an AMO whose reply was lost was performed (R181, log 24). -/
opaque amoPerformed : Nat → Bool
/-- The value of a special function where the model's evaluation does not settle its last bit (log 20). The arguments
are the function's number, the source bits, the format's number and the rounding mode. -/
opaque special : Nat → Nat → Nat → Nat → Nat
/-- The module's serial number (R319, log 29). -/
opaque serial : BitVec 64
/-- The HSS public key, 60 bytes (R319, log 29). -/
opaque publicKey : BitVec 480
/-- The HSS signature made with a one-time index over a message (R317, log 29). -/
opaque signature : Nat → Nat → BitVec 28832
/-- The resident handler that the TSC writes at BRING-UP (R320): part of the firmware, not of the spec (log 11). -/
opaque residentHandler : Nat → BitVec 8
/-- The device id that this module has in the fabric (R311, log 21). -/
opaque ownDevice : Nat
/-- The STATUS with which attestation is refused once the signature indices are spent (R317, log 29). -/
opaque spentStatus : Nat
/-- Whether a power loss falls between the commitment of a signature index and its use (R317, log 29). -/
opaque indexWasted : Nat → Bool
/-- The digest by which an identity reply reports a failed self-test, from the SGs that passed (R20, log 56). -/
opaque selfTestReport : BitVec 20 → BitVec 256
/-- A word of a message or dead letter that no rule gives a value (log 44): its time and its place. -/
opaque openWord : Nat → Nat → BitVec 64
/-- `tvalue` of a trap for which no rule names a value (log 37). -/
opaque trapValue : Nat → BitVec 64

end Config

end Sys2Proof
end

