-- ==== Sys2Proof/Machine/State.lean ====
section
/-! DEFINITION. The state of the machine: all that the spec gives it, as plain data, and the state at power-on. -/

namespace Sys2Proof.Machine

/-- Where the model stops a run because an access names something that does not exist. -/
inductive Fault where
  /-- Raised by an access of a translation service core to a pool of its own, which it has not (R12, R199). Safe: the
  model stops where the spec gives nothing to go on to. -/
  | tscHasNoPool
  /-- Raised by an access through a TLB entry whose physical address lies past the eight HBM stacks of 48 GiB (R15, R307).
  Safe: the spec gives no byte there. -/
  | noSuchMemory
  deriving DecidableEq, Repr

/-- Where the model refuses because the spec describes no effect. -/
inductive Refusal where
  /-- Raised by an arm of `exec` that has no meaning yet. Safe. -/
  | notModelled (mnemonic : String)
  deriving DecidableEq, Repr

/-- Privilege levels (R320). -/
inductive Level where
  | user | supervisor | machine
  deriving DecidableEq, Repr, Inhabited

/-- Code spaces (Table 14.2, PSPACE). -/
inductive CodeSpace where
  | overlay | handler
  deriving DecidableEq, Repr, Inhabited

/-- A capability register: 128 bits and the hidden tag (R65, R86). -/
structure Cap where
  tag  : Bool
  bits : BitVec 128
  deriving DecidableEq, Repr, Inhabited

/-- All memory of the module on one line of addresses (Ops.lean lays out the places). `cells` is canonical: strictly
rising, no zero byte; a byte not listed reads 0 (log 3). `poison` lists poisoned 32-byte granules (R186), `tags` tagged
16-byte granules (R202), both strictly rising. -/
structure Memory where
  cells  : List Host.Cell
  poison : List Nat
  tags   : List Nat
  deriving DecidableEq, Repr, Inhabited

/-- One piece of an access (R185), read before what it belongs to is whole: the bytes of one granule with the poison of each and
the places of tagged granules among them; `unit` says for which element, block or row. A read stream keeps such pieces ahead of
the instruction that consumes them (R213), and an engine until it has all that it asks for at once (R229). -/
structure Ahead where
  unit  : Nat
  space : Nat
  va    : Nat
  bytes : List Byte
  bad   : List Bool
  tags  : List Nat
  deriving DecidableEq, Repr, Inhabited

/-- A stream register (R209 to R212): the record, its fibre-list address and the space of that list, the base capability
and the position; then its `qopen`'s place in program order, what it has read ahead, and the offset of a CF8 block that its walk
has reached (R213). -/
structure StreamReg where
  isOpen    : Bool
  record    : BitVec 512
  fibres    : Word
  listSpace : Nat
  base      : Cap
  pos       : Nat
  since     : Nat
  ahead     : List Ahead
  cursor    : Option (Nat × Int)
  deriving DecidableEq, Repr, Inhabited

/-- A remap configuration (R223). -/
structure Remap where
  mode : Nat
  m    : Nat
  seed : BitVec 32
  tlen : Nat
  mapt : Cap
  deriving DecidableEq, Repr, Inhabited

/-- A mailbox binding (R336, R337). -/
structure Binding where
  x    : Nat
  gen  : Nat
  qoff : Nat
  qent : Nat
  deriving DecidableEq, Repr, Inhabited

/-- A member's arrival at a barrier (R263): wire 0 row, 1 column, 2 SG, 3 launch (Table 11.5), and its episode. -/
structure Arrival where
  wire    : Nat
  episode : Nat
  deriving DecidableEq, Repr, Inhabited

/-- What the machine keeps of the context below a steward beside its frame, out of the steward's reach: the offset and code space
at which the entry was taken (R119, R322), and the streams, with what they have read ahead (R213; log 84). -/
structure Below where
  pc      : Nat
  space   : CodeSpace
  streams : Vector StreamReg 8
  deriving DecidableEq, Repr, Inhabited

/-- The context of a core: what the register block of Table 14.5 holds, but the counters and the pool, and what lies below its
steward. -/
structure Ctx where
  x          : Vector Word 32
  shadow     : Vector Word 8
  k          : Vector Cap 16
  round      : Word
  fflags     : Word
  jord       : Word
  jfl        : Word
  amax       : Vector Word 4
  partition  : Word
  crewcoord  : Word
  bartimeout : Word
  fault      : BitVec 8
  inev       : Bool
  evec       : Word
  ecause     : Word
  evalue     : Word
  epc        : Word
  tcause     : Word
  tvalue     : Word
  tpc        : Word
  tstatus    : Word
  pc         : Nat
  level      : Level
  space      : CodeSpace
  mstat      : Word
  latch      : BitVec 16384
  latchBad   : BitVec 64
  pending    : Vector (BitVec 16) 7
  arrival    : Option Arrival
  phase      : Nat
  streams    : Vector StreamReg 8
  events     : List (Word × Word)
  binds      : Vector (Option Binding) 16
  remap      : Option Remap
  below      : Option Below
  deriving DecidableEq, Repr, Inhabited

/-- What a core is doing (R233, R328, R345). -/
inductive Run where
  | idle | running | parked | outOfUse
  deriving DecidableEq, Repr, Inhabited

/-- What holds a core's issue. -/
inductive Hold where
  | none
  /-- a translation miss (R306) -/
  | miss
  /-- `pause` (R254) -/
  | pause
  /-- `wfe` (R345) -/
  | wfe
  /-- a matrix run between its steps (R169) -/
  | matrix
  /-- a barrier (R280) -/
  | barrier
  /-- `xsel` (R283) -/
  | xsel
  /-- `wmem` in a crew (R275) -/
  | wmem
  /-- `commit` or `abort` before its step (R51, R247, R258, R289) -/
  | ending
  /-- an overlay load at a pick-up (R63) -/
  | overlay
  /-- a shoot-down that this core has issued (R345) -/
  | sdown
  /-- a SEND that asks for the reply (R337) -/
  | reply
  deriving DecidableEq, Repr, Inhabited

/-- An entry of a TLB (R306, Table 13.7). -/
structure TlbEntry where
  vif   : Nat
  space : Nat
  va    : Nat
  size  : Nat
  pa    : Nat
  lease : Nat
  write : Bool
  deriving DecidableEq, Repr, Inhabited

/-- A message in mailbox slot 0 (R336): a translation miss (Table 13.6) or a shoot-down (R309). -/
inductive MachineMail where
  | miss (core vif : Nat) (va : BitVec 56) (space kind : Nat)
  | shootdown (vif va len gen : Nat)
  deriving DecidableEq, Repr, Inhabited

/-- A queued remote matrix command (R173, R174): the command word, the panel of 32 rows, its poison, the sender. -/
structure MatrixCmd where
  word   : Word
  panel  : BitVec 16384
  mode   : Nat
  flush  : Bool
  sender : CoreId
  x      : Nat
  gen    : Nat
  vif    : Nat
  num    : Nat
  deriving DecidableEq, Repr, Inhabited

/-- A mailbox message on its way (R335 to R338); `held` at the sender's network interface while a spill ring has no room
for it. -/
structure Mail where
  word    : Word
  payload : Word
  sender  : CoreId
  vif     : Nat
  held    : Bool
  deriving DecidableEq, Repr, Inhabited

/-- An exchange transfer on its way (R282): what its sender read, and its place in the order of stores (R284); `held` as
for a message. -/
structure Transfer where
  word   : Word
  bytes  : List Byte
  poison : List Nat
  sender : CoreId
  x      : Nat
  gen    : Nat
  vif    : Nat
  lid    : Nat
  phase  : Nat
  seq    : Nat
  held   : Bool
  deriving DecidableEq, Repr, Inhabited

/-- What waits in a spill ring (R335). -/
inductive RingItem where
  | mail (m : Mail)
  | cmd (m : MatrixCmd)
  | xfer (t : Transfer)
  deriving DecidableEq, Repr, Inhabited

/-- An entry of a spill ring, with the record index of the reaction that it waits for (R335). -/
structure RingEntry where
  x    : Nat
  item : RingItem
  deriving DecidableEq, Repr, Inhabited

/-- A line of 64 bytes of an overlay of a launch in the instruction buffer (R13, R286). -/
structure Line where
  vif  : Nat
  lid  : Nat
  ovl  : Nat
  line : Nat
  deriving DecidableEq, Repr, Inhabited

/-- A pre-empted reaction of a core, evicted to a context record (R330); `paused` while work for which the scheduler
pre-empted it has not run (R254). `streams` and `below` are those of its context, with what no record shows of them (log 84). -/
structure Evicted where
  vif     : Nat
  slot    : Nat
  x       : Nat
  paused  : Bool
  streams : Vector StreamReg 8
  below   : Option Below
  deriving DecidableEq, Repr, Inhabited

/-- A core (R65, R233, R306, R329). -/
structure Core where
  ctx      : Ctx
  saved    : Option Ctx
  run      : Run
  hold     : Hold
  /-- the reaction that it runs is pre-empted in place: the resident handler has the core (R329, R330) -/
  preempted : Bool
  mcause   : Word
  mvalue   : Word
  mpc      : Word
  mstatus  : Word
  cycle    : Word
  issued   : Vector Word 8
  complete : Vector Word 8
  early    : List (Nat × Word)
  /-- channels that have received a transfer in this phase, with its length (R281) -/
  chans    : List (Nat × Nat)
  /-- the record index of the reaction it runs (R44) -/
  rx       : Option Nat
  owner    : Option Nat
  lastVif  : Option Nat
  evicted  : List Evicted
  tlb      : List TlbEntry
  gens     : List (Nat × Nat)
  mail     : List MachineMail
  irqs     : List Nat
  /-- queue overflows not yet taken (R339) -/
  overflow : List Word
  cmds     : List MatrixCmd
  /-- the command that its network interface holds for a full spill ring (R335; log 67) -/
  cmdOut   : Option MatrixCmd
  /-- the spill ring, in arrival order (R335) -/
  ring     : List RingEntry
  ibuf     : List Line
  /-- pinned lines, each with the record index of the reaction that pinned it (R286) -/
  ibufPins : List (Nat × Line)
  /-- row indices of a matrix run, read at its start, and the poisoned granule that the read met (R160) -/
  rows     : List Nat
  rowsBad  : Option Nat
  /-- `cycle` when the current hold began, and when the core was released into its phase (R254, R264, R282, R283) -/
  since    : Word
  phaseAt  : Word
  deriving DecidableEq, Repr, Inhabited

/-- States of a reaction (Table 3.8). -/
inductive RState where
  | matched | running | suspended | preempted | ending
  deriving DecidableEq, Repr, Inhabited

/-- What a suspended reaction waits for (Table 3.5, KIND). -/
inductive Wait where
  | nothing
  | timeline (tl core : Nat) (target : BitVec 51)
  /-- with the count of the SG's wait timer then (R275) -/
  | word (space : Nat) (addr : Nat) (since : Nat)
  deriving DecidableEq, Repr, Inhabited

/-- A reactant of a match (Table 3.5, HANDLE): the tile, the index of its slot, its header as matched, its payload tag,
catalyst or not. -/
structure Reactant where
  tile : Nat
  slot : Nat
  hdr  : BitVec 512
  ptag : Bool
  cat  : Bool
  deriving DecidableEq, Repr, Inhabited

/-- A reaction (R44, R268 to R270), with its record index. -/
structure Reaction where
  x         : Nat
  gen       : Nat
  vif       : Nat
  lid       : Nat
  rule      : Nat
  state     : RState
  shape     : Nat
  /-- the address of its frame, and the crew's first core -/
  base      : Nat
  first     : Nat
  live      : List Nat
  committed : List Nat
  offset    : Nat
  fault     : BitVec 8
  wait      : Wait
  /-- the order number at which the wait condition was met -/
  ready     : Option Nat
  /-- the outcome a `wmem` leaves: true when its relation was met -/
  outcome   : Bool
  reactants : List Reactant
  taken     : Nat
  emitted   : List Nat
  products  : List (BitVec 512 × Bool)
  order     : Nat
  started   : Bool
  /-- an `abort` has been executed, or the wind-down has reached the reaction -/
  aborting  : Bool
  deriving DecidableEq, Repr, Inhabited

/-- Where a tile of a unit is (Table 3.7). -/
inductive Place where
  | resident | backwater | escrow
  deriving DecidableEq, Repr, Inhabited

/-- A tile in a confluence unit (R30, R38, R41); `index` is its resident or escrow slot. -/
structure Tile where
  id    : Nat
  vif   : Nat
  lid   : Nat
  hdr   : BitVec 512
  ptag  : Bool
  stamp : Nat
  place : Place
  index : Nat
  locks : Nat
  deriving DecidableEq, Repr, Inhabited

/-- A tile IN TRANSIT (Table 3.7), bound for the unit of an SG; `held` when the transit buffer holds it, with its place in
the order of arrival (R246, R247). -/
structure Flying where
  vif      : Nat
  lid      : Nat
  hdr      : BitVec 512
  ptag     : Bool
  sgn      : Nat
  held     : Option Nat
  deriving DecidableEq, Repr, Inhabited

/-- What a unit keeps for one launch (R240, R249). -/
structure UnitLaunch where
  vif  : Nat
  lid  : Nat
  ptr  : Nat
  sent : Nat
  recv : Nat
  act  : Bool
  deriving DecidableEq, Repr, Inhabited

/-- A confluence unit with the reaction records of its SG (R43, R44), the records of crews that it keeps a block for, each
with the block's first core (R236), and the launch of its last decision (R241). -/
structure CUnit where
  sgn       : Nat
  tiles     : List Tile
  nextStamp : Nat
  reactions : List Reaction
  gens      : List (Nat × Nat)
  launches  : List UnitLaunch
  order     : Nat
  reserve   : List (Nat × Nat)
  last      : Option (Nat × Nat)
  deriving DecidableEq, Repr, Inhabited

/-- An open barrier episode (R261 to R265): the wire, its row or column, the reaction or launch, who has arrived, the
first first, with its LIMIT and its `cycle` then. -/
structure Episode where
  id      : Nat
  wire    : Nat
  index   : Nat
  sgn     : Nat
  x       : Nat
  vif     : Nat
  lid     : Nat
  arrived : List CoreId
  limit   : Nat
  start   : Word
  deriving DecidableEq, Repr, Inhabited

/-- An overlay slot of a tile (R13, R63): `use` orders the slots by last use; `loading` while the copy engine loads. -/
structure Slot where
  sgn     : Nat
  tile    : Nat
  slot    : Nat
  vif     : Nat
  lid     : Nat
  ovl     : Nat
  len     : Nat
  use     : Nat
  loading : Bool
  pins    : List Nat
  deriving DecidableEq, Repr, Inhabited

/-- A species of an image (R365). -/
structure Species where
  code   : Nat
  family : Nat
  home   : Nat
  outlet : Bool
  deriving DecidableEq, Repr, Inhabited

/-- A micro-operation of a guard (R365): the operation, and the kind and value of each operand. -/
structure MicroOp where
  op : Nat
  ka : Nat
  kb : Nat
  a  : Nat
  b  : Nat
  deriving DecidableEq, Repr, Inhabited

/-- A rule of an image (R365): `species` is the declaration index of each position, `joins` the six-tuple of R39. -/
structure Rule where
  cats     : Nat
  cls      : Nat
  crew     : Nat
  products : Nat
  vregs    : Nat
  acc      : Nat
  frame    : Nat
  ovl      : Nat
  entry    : Nat
  species  : List Nat
  joins    : List (Nat × Nat × Nat × Nat)
  guard    : List MicroOp
  consts   : List Word
  sc       : Nat
  qd       : Nat
  deriving DecidableEq, Repr, Inhabited

/-- A rule image as admission reads it (R364 to R367). -/
structure Image where
  va       : Nat
  length   : Nat
  species  : List Species
  rules    : List Rule
  overlays : List (Nat × Nat)
  relocs   : List (Nat × Nat × Nat)
  pads     : List (Nat × Nat × Nat)
  deriving DecidableEq, Repr, Inhabited

/-- States of a launch (Table 3.10). -/
inductive LState where
  | admitting | running | winding | draining | ended
  deriving DecidableEq, Repr, Inhabited

/-- Statuses of a launch, in the order of COMPLETE (Table 13.13). -/
inductive Status where
  | complete | limit | cancelled | leaseFault | routerReset | aborted
  deriving DecidableEq, Repr, Inhabited

/-- A lease entry of a LAUNCH (Table 13.13). -/
structure LeaseRef where
  id    : Nat
  perms : BitVec 12
  out   : Bool
  deriving DecidableEq, Repr, Inhabited

/-- A stage of a channelled launch (R256, R258): its rule, its unit's SGN, its cores and NEXT. -/
structure Stage where
  rule  : Nat
  sgn   : Nat
  cores : List Nat
  next  : Nat
  deriving DecidableEq, Repr, Inhabited

/-- A launch (R57 to R62, R249, R250). -/
structure Launch where
  vif       : Nat
  lid       : Nat
  tag       : Word
  state     : LState
  /-- the status it is bound for, once it has left RUNNING -/
  status    : Status
  imageVa   : Nat
  plen      : Nat
  params    : List Byte
  channelled : Bool
  devices   : Nat
  reactLimit : Nat
  cycleLimit : Nat
  mask      : List Nat
  leases    : List LeaseRef
  image     : Image
  /-- SHA-256 of the image as the host placed it (R368) -/
  imageHash : List Byte
  units     : List Nat
  last      : Bool
  injected  : Nat
  commits   : Nat
  drained   : Nat
  faultAddr : Nat
  /-- ACT and SENT of the wave before (R250) -/
  wave      : Option (Bool × Nat)
  shards    : Nat
  stages    : List Stage
  phase     : Nat
  /-- the tiles still to drain -/
  toDrain   : List (BitVec 512)
  deriving DecidableEq, Repr, Inhabited

/-- A lease of a VIF (R302, R304). -/
structure Lease where
  id       : Nat
  space    : Nat
  va       : Nat
  len      : Nat
  resident : Bool
  tag      : Word
  /-- the TAGs of revokes that wait for the last launch naming the lease (R304) -/
  revokes  : List Word
  deriving DecidableEq, Repr, Inhabited

/-- A sharding entry (Table 13.10). -/
structure Shard where
  tensor  : Nat
  space   : Nat
  va      : Nat
  devBase : Nat
  rank    : Nat
  esl     : Nat
  valid   : Bool
  ext     : List Nat
  blk     : List Nat
  pg      : List Nat
  deriving DecidableEq, Repr, Inhabited

/-- A version of the sharding table of a VIF, with its peer table: for each device, its endpoint (R290, R310, R312). -/
structure ShardTable where
  entries : List Shard
  peers   : List (Nat × Word)
  deriving DecidableEq, Repr, Inhabited

/-- What a LEASE with OP 2 or 3 puts into the table (R310). -/
inductive TableUpdate where
  | entry (e : Shard)
  | peer (device : Nat) (port : Word)
  deriving DecidableEq, Repr, Inhabited

/-- An INJECT that waits (R59, R247): its message's TAG, LID, LAST and headers. -/
structure HeldInject where
  tag  : Word
  lid  : Nat
  last : Bool
  hdrs : List (BitVec 512)
  /-- acknowledged already, and held for the launch to be admitted (R59) -/
  acked : Bool
  deriving DecidableEq, Repr, Inhabited

/-- A virtual interface (R290 to R294). Weirs are in the order CORE, HBM, CAPT, FAB, MATCH. -/
structure Vif where
  p       : VifParams
  rem     : List Int
  leases  : List Lease
  pages   : List PageMap
  gen     : Nat
  /-- versions of the sharding table, oldest first, each with its number (R312) -/
  shards  : List (Nat × ShardTable)
  injects : List HeldInject
  /-- host buffers: LID, next address, tiles left (R315) -/
  buffers : List (Nat × Nat × Nat)
  /-- updates of the table not yet acknowledged (R312), each with its TAG -/
  updates : List (Word × TableUpdate)
  deriving DecidableEq, Repr, Inhabited

/-- A piece of a store that has issued and is not yet performed (R181, R185). Its agent is a core, the reaction that it
runs and the level at which it runs (R179); the pieces of one run share `seq`. `poison` are granules that it makes
poisoned, `tags` the 16-byte granules that it tags, `clean` those granules that its store writes whole and good and this
piece in part (R186). `level` is that of the location, and `link` the link that it needs. -/
structure InFlight where
  core   : CoreId
  x      : Option Nat
  priv   : Level
  seq    : Nat
  addr   : Nat
  bytes  : List Byte
  poison : List Nat
  tags   : List Nat
  clean  : List Nat
  level  : Nat
  link   : Option Link
  foreign : Bool
  deriving DecidableEq, Repr, Inhabited

/-- Bytes that an operation has read and not yet written (R221, R229): the capability of its block that the write goes
through, the offset, the bytes with their poison, the offsets of tagged granules, what the write adds to the count, and whether it is
the last piece of a 32-byte granule that the operation writes whole and good (R186). -/
structure Piece where
  cap   : Nat
  off   : Int
  bytes : List Byte
  bad   : List Bool
  tags  : List Nat
  adds  : Nat
  heals : Bool
  deriving DecidableEq, Repr, Inhabited

/-- An entry of a bag (R225): its chip, its weight, the elements of its row, and whether any of it is poisoned. -/
structure BagEntry where
  chip   : Nat
  weight : Nat
  row    : List Nat
  bad    : Bool
  deriving DecidableEq, Repr, Inhabited

/-- How far an operation has got (R221 to R228): the byte, element, row, bag or entry that it has reached (`pos`) and how
far within it (`sub`); the source offset of a CF8 copy; the walks of a shaped copy; the remapped index of each row; the
bag under way, with its next entry, its end and the poison of its offsets; the heads of a merge; the count for VALUE; its
flags; the first address of a row that could not be reached; the pieces read so far of what it reads now; the decoded bytes of a
coded copy that have not been written, each with its poison; the elements of a shaped copy for one destination granule; and the
pieces to write. -/
structure Cursor where
  pos   : Nat
  sub   : Nat
  off   : Int
  walks : List StreamReg
  rows  : List (Option Nat)
  bag   : Option (Nat × Nat × Bool)
  terms : List BagEntry
  heads : List Nat
  count : Nat
  flags : Nat
  low   : Option Word
  got   : List Ahead
  buf   : List (Byte × Bool)
  held  : List Piece
  out   : List Piece
  deriving DecidableEq, Repr, Inhabited

/-- An engine operation accepted and not complete (R215, R218). -/
structure EngineOp where
  core  : CoreId
  x     : Nat
  gen   : Nat
  vif   : Nat
  lid   : Nat
  op    : Nat
  block : List Byte
  /-- the tags of the block's 16-byte pieces -/
  tags  : List Bool
  ctl   : Word
  num   : Word
  mode  : Nat
  flush : Bool
  remap : Option Remap
  seq   : Nat
  /-- the engine has started it (R219) -/
  begun : Bool
  cursor : Cursor
  /-- the address of a translation miss of which the TSC has been told (R306) -/
  miss  : Option Nat
  /-- a merge that has reached the head of the tree's queue while its reaction is pre-empted (R334) -/
  deferred : Bool
  /-- it counts as completed for the core's counter since an eviction (R334) -/
  setAside : Bool
  /-- set aside and done, with the cause, VALUE and flags that wait for the others (R334) -/
  finished : Option (Nat × Word × Nat)
  deriving DecidableEq, Repr, Inhabited

/-- A TLB fill on its way (R307). -/
structure Fill where
  sgn : Nat
  a   : Word
  b   : Word
  deriving DecidableEq, Repr, Inhabited

/-- A shoot-down on its way to one core (R309), with the core that issued it; `received` when it waits for its acknowledgement. -/
structure Shootdown where
  target : CoreId
  origin : CoreId
  vif    : Nat
  va     : Nat
  len    : Nat
  gen    : Nat
  received : Bool
  deriving DecidableEq, Repr, Inhabited

/-- Stages of the module (Table 14.13). -/
inductive PowerStage where
  | off | cold | safe | verify | bringUp | ready | degraded
  deriving DecidableEq, Repr, Inhabited

/-- The module's flash and what Primin keeps (R317 to R319): SGs that failed a self-test which kept the module in SAFE
(R20), the cores reported to it (R328), and how many errors of each row of Table 14.10 have been corrected (R342; log 62). -/
structure Primin where
  hssIndex   : Nat
  minVersion : Nat
  measured   : List (BitVec 256)
  failed     : Option (BitVec 20)
  reports    : List CoreId
  corrected  : Vector Nat 6
  deriving DecidableEq, Repr, Inhabited

/-- The whole machine. `cur`, `tick`, `seq` and `agenda` are the model's own (log 1, log 5). -/
structure State where
  cur      : CoreId
  tick     : Nat
  seq      : Nat
  agenda   : List Turn
  stage    : PowerStage
  enabled  : BitVec 20
  clock    : Nat
  mem      : Memory
  cores    : List (CoreId × Core)
  slots    : List Slot
  units    : List CUnit
  launches : List Launch
  vifs     : List Vif
  flying   : List Flying
  stores   : List InFlight
  ops      : List EngineOp
  mails    : List Mail
  xfers    : List Transfer
  fills    : List Fill
  shoots   : List Shootdown
  bars     : List Episode
  released : List Nat
  dead     : List Link
  testing  : List Partition
  sent     : List (Nat × List Byte)
  /-- the wait timer of each SG: its core cycles (R275) -/
  timers   : Vector Nat 20
  primin   : Primin
  deriving DecidableEq, Repr, Inhabited

/-- The cursor of an operation that has not begun. -/
def Cursor.start : Cursor where
  pos := 0
  sub := 0
  off := 0
  walks := []
  rows := []
  bag := none
  terms := []
  heads := List.replicate 16 0
  count := 0
  flags := 0
  low := none
  got := []
  buf := []
  held := []
  out := []

/-- A closed stream register (R46, R212). -/
def StreamReg.closed : StreamReg :=
  { isOpen := false, record := 0, fibres := 0, listSpace := 0, base := ⟨false, 0⟩, pos := 0, since := 0, ahead := []
    cursor := none }

/-- The null capability. -/
def Cap.null : Cap := ⟨false, 0⟩

/-- A context with every register at the value that the spec gives it for reset, and 0 where it gives none (log 4). -/
def Ctx.init : Ctx where
  x := Vector.replicate 32 0
  shadow := Vector.replicate 8 0
  k := Vector.replicate 16 Cap.null
  round := 0
  fflags := 0
  jord := 0
  jfl := 0
  amax := Vector.replicate 4 0
  partition := 0x178
  crewcoord := 0x10000
  bartimeout := 0x100000
  fault := 0
  inev := false
  evec := 0
  ecause := 0
  evalue := 0
  epc := 0
  tcause := 0
  tvalue := 0
  tpc := 0
  tstatus := 0
  pc := 0
  level := .user
  space := .overlay
  mstat := 0
  latch := 0
  latchBad := 0
  pending := Vector.replicate 7 0
  arrival := none
  phase := 0
  streams := Vector.replicate 8 StreamReg.closed
  events := []
  binds := Vector.replicate 16 none
  remap := none
  below := none

/-- A core as it leaves reset (R14, R291). -/
def Core.init : Core where
  ctx := Ctx.init
  saved := none
  run := .idle
  hold := .none
  preempted := false
  mcause := 0
  mvalue := 0
  mpc := 0
  mstatus := 0
  cycle := 0
  issued := Vector.replicate 8 0
  complete := Vector.replicate 8 0
  early := []
  chans := []
  rx := none
  owner := none
  lastVif := none
  evicted := []
  tlb := []
  gens := []
  mail := []
  irqs := []
  overflow := []
  cmds := []
  cmdOut := none
  ring := []
  ibuf := []
  ibufPins := []
  rows := []
  rowsBad := none
  since := 0
  phaseAt := 0

/-- Memory with nothing listed. -/
def Memory.empty : Memory := ⟨[], [], []⟩

/-- The machine with power applied (Table 14.13, COLD): no core has left reset, no VIF exists (R346). -/
def State.reset : State where
  cur := ⟨0, 0⟩
  tick := 0
  seq := 0
  agenda := []
  stage := .cold
  enabled := 0
  clock := 940
  mem := Memory.empty
  cores := []
  slots := []
  units := []
  launches := []
  vifs := []
  flying := []
  stores := []
  ops := []
  mails := []
  xfers := []
  fills := []
  shoots := []
  bars := []
  released := []
  dead := []
  testing := []
  sent := []
  timers := Vector.replicate 20 0
  primin := { hssIndex := 0, minVersion := 0, measured := [], failed := none, reports := [], corrected := Vector.replicate 6 0 }

end Sys2Proof.Machine
end

