-- ==== Sys2Proof/Machine/Bits.lean ====
section
/-! DEFINITION. Bit fields, sign extension, byte order, and memory as a list of cells. -/

namespace Sys2Proof.Machine

/-- Bits `lo` to `lo + len - 1` of a number (R3). -/
def bitsOf (n lo len : Nat) : Nat := n / 2 ^ lo % 2 ^ len

/-- One bit of a number. -/
def bit (n i : Nat) : Bool := n / 2 ^ i % 2 == 1

/-- `n` with the field at `lo` of `len` bits set to `v`. -/
def setBits (n lo len v : Nat) : Nat :=
  n / 2 ^ (lo + len) * 2 ^ (lo + len) + v % 2 ^ len * 2 ^ lo + n % 2 ^ lo

/-- A number of `w` bits as a two's-complement integer. -/
def toSigned (w n : Nat) : Int := if n % 2 ^ w < 2 ^ (w - 1) then (n % 2 ^ w : Nat) else (n % 2 ^ w : Nat) - (2 ^ w : Nat)

/-- An integer modulo 2^w. -/
def wrap (w : Nat) (i : Int) : Nat := (i % (2 ^ w : Nat)).toNat

/-- Sign extension of the low `w` bits to 64 (Table 4.22). -/
def signExtend (w n : Nat) : Word := BitVec.ofInt 64 (toSigned w n)

/-- Bytes as a number, the first the least significant (R2). -/
def natOfBytes : List Byte → Nat
  | [] => 0
  | b :: t => b.toNat + 256 * natOfBytes t

/-- The low `n` bytes of a number, the least significant first (R2). -/
def bytesOfNat : Nat → Nat → List Byte
  | 0, _ => []
  | n + 1, v => BitVec.ofNat 8 v :: bytesOfNat n (v / 256)

/-- `n` pieces of `w` bits of a number, the lowest first (R120). -/
def splitLanes (w : Nat) : Nat → Nat → List Nat
  | 0, _ => []
  | n + 1, v => v % 2 ^ w :: splitLanes w n (v / 2 ^ w)

/-- Pieces of `w` bits put together, the first the lowest. -/
def joinLanes (w : Nat) : List Nat → Nat
  | [] => 0
  | x :: t => x % 2 ^ w + 2 ^ w * joinLanes w t

/-- Pieces of a list, `n` long each, at most `fuel` of them. -/
def chunks (n : Nat) : Nat → List Byte → List (List Byte)
  | 0, _ => []
  | f + 1, l => if l.isEmpty then [] else l.take n :: chunks n f (l.drop n)

/-- Field of `len` bytes at byte `off` of a record. -/
def fieldOf (l : List Byte) (off len : Nat) : Nat := natOfBytes ((l.drop off).take len)

/-- Whether `len` bytes at byte `off` of a record are all zero. -/
def zeroAt (l : List Byte) (off len : Nat) : Bool := ((l.drop off).take len).all (· == 0)

/-- A number put into a strictly rising list. -/
def insertNat (a : Nat) : List Nat → List Nat
  | [] => [a]
  | b :: t => if a < b then a :: b :: t else if a = b then b :: t else b :: insertNat a t

/-- Several numbers put into a strictly rising list. -/
def insertNats (as l : List Nat) : List Nat := as.foldr insertNat l

/-- An element put into a sorted list, before those that it does not exceed. -/
def insertBy {α : Type} (le : α → α → Bool) (a : α) : List α → List α
  | [] => [a]
  | b :: t => if le a b then a :: b :: t else b :: insertBy le a t

/-- A list sorted, equal elements in their order. -/
def sortBy {α : Type} (le : α → α → Bool) (l : List α) : List α := l.foldr (insertBy le) []

/-- The blocks of `size` bytes that `n` bytes at `a` touch. -/
def blocksOf (size a n : Nat) : List Nat :=
  if n = 0 then [] else (List.range ((a + n - 1) / size - a / size + 1)).map (a / size + ·)

/-- The cells of a run of bytes at `a`, zero bytes left out. -/
def cellsOf : Nat → List Byte → List Host.Cell
  | _, [] => []
  | a, b :: t => if b = 0 then cellsOf (a + 1) t else (a, b) :: cellsOf (a + 1) t

namespace Memory

/-- The byte at an address: 0 where none is listed (log 3). -/
def byteAt (m : Memory) (a : Nat) : Byte := ((m.cells.find? (·.1 == a)).map (·.2)).getD 0

/-- The listed cells among `n` bytes at `a`. -/
def window (m : Memory) (a n : Nat) : Memory := { m with cells := m.cells.filter fun c => a ≤ c.1 && c.1 < a + n }

/-- The `n` bytes at `a`. -/
def read (m : Memory) (a n : Nat) : List Byte :=
  let w := m.window a n
  (List.range n).map fun i => w.byteAt (a + i)

/-- The little-endian number of `n` bytes at `a`. -/
def readNat (m : Memory) (a n : Nat) : Nat := natOfBytes (m.read a n)

/-- The cells after a run of bytes is written at `a`. -/
def putCells (l : List Host.Cell) (a : Nat) (bs : List Byte) : List Host.Cell :=
  l.filter (fun c => c.1 < a) ++ cellsOf a bs ++ l.filter (fun c => a + bs.length ≤ c.1)

/-- A data store of `bs` at `a` (R186, R202): it clears the tag of every 16-byte granule it touches; a 32-byte granule
in `bad` becomes poisoned, and one that it writes whole and that is not in `bad` is cleared. -/
def write (m : Memory) (a : Nat) (bs : List Byte) (bad : List Nat) : Memory where
  cells := putCells m.cells a bs
  poison := insertNats bad (m.poison.filter fun g => ¬ (a ≤ 32 * g ∧ 32 * g + 32 ≤ a + bs.length))
  tags := if bs.isEmpty then m.tags else m.tags.filter fun g => ¬ (a / 16 ≤ g ∧ g ≤ (a + bs.length - 1) / 16)

/-- A little-endian number of `n` bytes stored at `a`. -/
def writeNat (m : Memory) (a n v : Nat) : Memory := m.write a (bytesOfNat n v) []

/-- The tag of the 16-byte granule at `a` (R202). -/
def tagAt (m : Memory) (a : Nat) : Bool := m.tags.contains (a / 16)

/-- The tag of the 16-byte granule at `a`, set. -/
def setTag (m : Memory) (a : Nat) : Memory := { m with tags := insertNat (a / 16) m.tags }

/-- Tags of 16-byte granules, set. -/
def setTags (m : Memory) (gs : List Nat) : Memory := { m with tags := insertNats gs m.tags }

/-- 32-byte granules, poisoned no more. -/
def heal (m : Memory) (gs : List Nat) : Memory := { m with poison := m.poison.filter fun g => !gs.contains g }

/-- 32-byte granules, poisoned. -/
def spoil (m : Memory) (gs : List Nat) : Memory := { m with poison := insertNats gs m.poison }

/-- The poisoned 32-byte granules among those that `n` bytes at `a` touch, lowest first (R186). -/
def poisonIn (m : Memory) (a n : Nat) : List Nat :=
  if n = 0 then [] else m.poison.filter fun g => a / 32 ≤ g ∧ g ≤ (a + n - 1) / 32

/-- `n` bytes at `a` made zero, with no poison and no tag in them (R46, R291). -/
def clear (m : Memory) (a n : Nat) : Memory where
  cells := m.cells.filter fun c => c.1 < a ∨ a + n ≤ c.1
  poison := m.poison.filter fun g => ¬ (a ≤ 32 * g + 31 ∧ 32 * g < a + n)
  tags := m.tags.filter fun g => ¬ (a ≤ 16 * g + 15 ∧ 16 * g < a + n)

/-- `n` bytes copied from `a` to `b` with their poison and tags, both 32-byte aligned (R330, R335). -/
def copy (m : Memory) (a b n : Nat) : Memory :=
  let c := m.clear b n
  { cells := c.cells.filter (fun k => k.1 < b)
      ++ (m.cells.filter fun k => a ≤ k.1 && k.1 < a + n).map (fun k => (k.1 - a + b, k.2))
      ++ c.cells.filter (fun k => b + n ≤ k.1)
    poison := insertNats ((m.poison.filter fun g => a ≤ 32 * g && 32 * g < a + n).map fun g => g - a / 32 + b / 32) c.poison
    tags := insertNats ((m.tags.filter fun g => a ≤ 16 * g && 16 * g < a + n).map fun g => g - a / 16 + b / 16) c.tags }

/-- The canonical form: addresses and granules strictly rise, and no listed byte is what an unlisted one reads as. -/
abbrev wf (m : Memory) : Prop :=
  m.cells.Pairwise (fun a b => a.1 < b.1) ∧ (∀ c ∈ m.cells, c.2 ≠ 0)
    ∧ m.poison.Pairwise (· < ·) ∧ m.tags.Pairwise (· < ·)

end Memory

end Sys2Proof.Machine
end

