-- ==== Sys2Proof/Machine/Float.lean ====
section
/-! DEFINITION. Number formats, exact values, rounding and flags (05 R91 to R106). -/

namespace Sys2Proof.Machine

/-- A floating-point format (Table 5.1): exponent and fraction bits and bias; whether its top exponent holds normal
values, as in E4M3 (R92); whether it is one that FLUSH acts on (R104). -/
structure Fmt where
  ebits   : Nat
  mbits   : Nat
  bias    : Nat
  e4m3    : Bool
  flushes : Bool
  deriving DecidableEq, Repr, Inhabited

def fp64 : Fmt := ⟨11, 52, 1023, false, true⟩
def fp32 : Fmt := ⟨8, 23, 127, false, true⟩
def fp16 : Fmt := ⟨5, 10, 15, false, true⟩
def bf16 : Fmt := ⟨8, 7, 127, false, true⟩
def e5m2 : Fmt := ⟨5, 2, 15, false, true⟩
def e4m3 : Fmt := ⟨4, 3, 7, true, true⟩
def a36 : Fmt := ⟨9, 26, 255, false, false⟩
def w72 : Fmt := ⟨13, 58, 4095, false, false⟩

/-- The format of a TYPE code 0 to 5 (Table 4.13). -/
def fmtOfType (t : Nat) : Fmt :=
  match t with
  | 0 => fp64 | 1 => fp32 | 2 => bf16 | 3 => fp16 | 4 => e4m3 | _ => e5m2

/-- Whether a TYPE is an integer type (R95). -/
def isInt (t : Nat) : Bool := 6 ≤ t

/-- Lanes of a TYPE (Table 4.13). -/
def lanesOf (t : Nat) : Nat :=
  match t with
  | 0 => 16 | 1 => 32 | 2 => 64 | 3 => 64 | 4 => 128 | 5 => 128 | 6 => 128 | _ => 32

/-- Bits of a lane of a TYPE (R120). -/
def widthOf (t : Nat) : Nat := 1024 / lanesOf t

namespace Fmt

def width (f : Fmt) : Nat := 1 + f.ebits + f.mbits
def signBit (f : Fmt) : Nat := 2 ^ (f.ebits + f.mbits)
/-- Exponent of the smallest subnormal's bit. -/
def minExp (f : Fmt) : Int := 1 - (f.bias : Int) - f.mbits
/-- The canonical NaN (Table 5.2). -/
def nan (f : Fmt) : Nat :=
  if f.e4m3 then 0x7F else (2 ^ f.ebits - 1) * 2 ^ f.mbits + 2 ^ (f.mbits - 1)
/-- The largest finite magnitude. -/
def maxBits (f : Fmt) : Nat := if f.e4m3 then 0x7E else (2 ^ f.ebits - 1) * 2 ^ f.mbits - 1
/-- An infinity; in E4M3, which has none, the canonical NaN (R99). -/
def infBits (f : Fmt) (neg : Bool) : Nat :=
  if f.e4m3 then f.nan else (2 ^ f.ebits - 1) * 2 ^ f.mbits + (if neg then f.signBit else 0)

end Fmt

/-- Flags, as `fflags` places them (Table 5.5). -/
def fNX : Nat := 1
def fUF : Nat := 2
def fOF : Nat := 4
def fDZ : Nat := 8
def fNV : Nat := 16
def fSAT : Nat := 32

/-- An exact value: NaN, an infinity, or (−1)^neg · m · 2^e; a zero keeps its sign. -/
inductive Ex where
  | nan
  | inf (neg : Bool)
  | fin (neg : Bool) (m : Nat) (e : Int)
  deriving DecidableEq, Repr, Inhabited

/-- The fields of an encoding: sign, biased exponent, fraction. -/
def fieldsOf (f : Fmt) (n : Nat) : Bool × Nat × Nat :=
  (n / f.signBit % 2 == 1, n / 2 ^ f.mbits % 2 ^ f.ebits, n % 2 ^ f.mbits)

/-- Whether an encoding is a NaN (R92). -/
def isNan (f : Fmt) (n : Nat) : Bool :=
  let (_, e, m) := fieldsOf f n
  e == 2 ^ f.ebits - 1 && (if f.e4m3 then m == 7 else m != 0)

/-- Whether it is a signalling one (R96). -/
def isSignalling (f : Fmt) (n : Nat) : Bool :=
  isNan f n && !f.e4m3 && n / 2 ^ (f.mbits - 1) % 2 == 0

/-- The exact value of an encoding (R92); with `flush`, a subnormal is a zero of the same sign (R104). -/
def unpack (f : Fmt) (flush : Bool) (n : Nat) : Ex :=
  let (s, e, m) := fieldsOf f n
  if isNan f n then .nan
  else if e = 2 ^ f.ebits - 1 ∧ !f.e4m3 then .inf s
  else if e = 0 then .fin s (if flush && f.flushes then 0 else m) f.minExp
  else .fin s (2 ^ f.mbits + m) (f.minExp + (e - 1 : Nat))

/-- NV for a signalling NaN operand (R96). -/
def nanFlag (f : Fmt) (n : Nat) : Nat := if isSignalling f n then fNV else 0

/-- Whether a value rounded down in magnitude goes up by one unit, by mode (Table 5.3): the unit's oddness, the sign, and
the rest against a half: 0 exact, 1 below, 2 equal, 3 above. -/
def roundsUp (mode : Nat) (odd neg : Bool) (rest : Nat) : Bool :=
  match mode with
  | 0 => rest == 3 || (rest == 2 && odd)
  | 1 => false
  | 2 => rest != 0 && !neg
  | 3 => rest != 0 && neg
  | _ => 2 ≤ rest

/-- num / den in units of 2^q, with the rest against a half unit (0, 1, 2 or 3), num over 2^(-e). -/
def quotient (num den : Nat) (e q : Int) : Nat × Nat :=
  let a := if q ≤ e then num * 2 ^ (e - q).toNat else num
  let b := if q ≤ e then den else den * 2 ^ (q - e).toNat
  let r := a % b
  (a / b, if r = 0 then 0 else if 2 * r < b then 1 else if 2 * r = b then 2 else 3)

/-- The exponent E with 2^E ≤ num / den · 2^e < 2^(E+1), for num and den above zero. -/
def exponentOf (num den : Nat) (e : Int) : Int :=
  let k : Int := (Nat.log2 num : Int) - Nat.log2 den
  let below := if 0 ≤ k then num < den * 2 ^ k.toNat else num * 2 ^ (-k).toNat < den
  (if below then k - 1 else k) + e

/-- num / den · 2^e, above zero, rounded to `p` bits at an unbounded exponent: the magnitude and its exponent. -/
def roundFree (p mode : Nat) (neg : Bool) (num den : Nat) (e : Int) : Nat × Int :=
  let q := exponentOf num den e - (p - 1 : Nat)
  let (m, rest) := quotient num den e q
  (if roundsUp mode (m % 2 == 1) neg rest then m + 1 else m, q)

/-- Whether m · 2^q reaches n · 2^r. -/
def dyadicLe (n : Nat) (r : Int) (m : Nat) (q : Int) : Bool :=
  if r ≤ q then n ≤ m * 2 ^ (q - r).toNat else n * 2 ^ (r - q).toNat ≤ m

/-- What an overflow gives (R99, R105). -/
def overflowBits (f : Fmt) (mode : Nat) (sat neg : Bool) : Nat :=
  let s := if neg then f.signBit else 0
  let toInf := match mode with
    | 1 => false
    | 2 => !neg
    | 3 => neg
    | _ => true
  if sat || !toInf then s + f.maxBits else f.infBits neg

/-- num / den · 2^e, above zero, rounded once to a format, with its flags (R99, R103, R104). -/
def roundPos (f : Fmt) (mode : Nat) (flush sat neg : Bool) (num den : Nat) (e : Int) : Nat × Nat :=
  let s := if neg then f.signBit else 0
  let (u, uq) := roundFree (f.mbits + 1) mode neg num den e
  -- one unit above the largest finite value
  let big := dyadicLe (f.maxBits % 2 ^ f.mbits + 2 ^ f.mbits + 1) (f.minExp + (f.maxBits / 2 ^ f.mbits - 1 : Nat)) u uq
  if big then (overflowBits f mode sat neg, fOF + fNX)
  else
    let tiny := !dyadicLe (2 ^ f.mbits) f.minExp u uq
    let q := max f.minExp (exponentOf num den e - f.mbits)
    let (m, rest) := quotient num den e q
    let m := if roundsUp mode (m % 2 == 1) neg rest then m + 1 else m
    let flags := if rest = 0 then 0 else fNX + (if tiny then fUF else 0)
    if flush && f.flushes && m != 0 && m < 2 ^ f.mbits then (s, fUF + fNX)
    else
      -- a magnitude at quantum q: its encoding is linear in m from the smallest subnormal up
      (s + m + (q - f.minExp).toNat * 2 ^ f.mbits, flags)

/-- An exact value rounded once to a format (Round of Table 4.22). -/
def roundEx (f : Fmt) (mode : Nat) (flush sat : Bool) (x : Ex) : Nat × Nat :=
  match x with
  | .nan => (f.nan, 0)
  | .inf neg => (if sat then (if neg then f.signBit else 0) + f.maxBits else f.infBits neg, 0)
  | .fin neg m e =>
    if m = 0 then (if neg then f.signBit else 0, 0) else roundPos f mode flush sat neg m 1 e

/-- The exact product, and NV for 0 · ∞ (R125). -/
def exMul (a b : Ex) : Ex × Nat :=
  match a, b with
  | .fin s m e, .fin t n g => (.fin (s != t) (m * n) (e + g), 0)
  | .inf s, .inf t => (.inf (s != t), 0)
  | .inf s, .fin t n _ => if n = 0 then (.nan, fNV) else (.inf (s != t), 0)
  | .fin t n _, .inf s => if n = 0 then (.nan, fNV) else (.inf (s != t), 0)
  | _, _ => (.nan, 0)

/-- The negation. -/
def exNeg : Ex → Ex
  | .nan => .nan
  | .inf s => .inf !s
  | .fin s m e => .fin (!s) m e

/-- A value times an exact integer that is not zero (R141). -/
def exScale (w : Int) : Ex → Ex
  | .nan => .nan
  | .inf s => .inf (s != decide (w < 0))
  | .fin s m e => .fin (s != decide (w < 0)) (m * w.natAbs) e

/-- The magnitude of a finite value at an exponent no higher than its own, with its sign. -/
def alignTo (neg : Bool) (m : Nat) (e q : Int) : Int :=
  let v : Int := (m * 2 ^ (e - q).toNat : Nat)
  if neg then -v else v

/-- The exact sum, and NV for ∞ − ∞; a zero sum has the sign of R125. -/
def exAdd (mode : Nat) (a b : Ex) : Ex × Nat :=
  match a, b with
  | .nan, _ => (.nan, 0)
  | _, .nan => (.nan, 0)
  | .inf s, .inf t => if s = t then (.inf s, 0) else (.nan, fNV)
  | .inf s, _ => (.inf s, 0)
  | _, .inf t => (.inf t, 0)
  | .fin s m e, .fin t n g =>
    if m = 0 ∧ n = 0 then (.fin (if s = t then s else mode == 3) 0 e, 0)
    else
      let q := min e g
      let v := alignTo s m e q + alignTo t n g q
      if v = 0 then (.fin (mode == 3) 0 q, 0) else (.fin (decide (v < 0)) v.natAbs q, 0)

/-- The exact quotient rounded once (R125, R141). -/
def roundDiv (f : Fmt) (mode : Nat) (flush : Bool) (a b : Ex) : Nat × Nat :=
  match a, b with
  | .nan, _ => (f.nan, 0)
  | _, .nan => (f.nan, 0)
  | .inf _, .inf _ => (f.nan, fNV)
  | .inf s, .fin t _ _ => (f.infBits (s != t), 0)
  | .fin s _ _, .inf t => (if s != t then f.signBit else 0, 0)
  | .fin s m e, .fin t n g =>
    if n = 0 then (if m = 0 then (f.nan, fNV) else (f.infBits (s != t), fDZ))
    else if m = 0 then (if s != t then f.signBit else 0, 0)
    else roundPos f mode flush false (s != t) m n (e - g)

/-! ## Operations on encodings -/

def fpAdd (f : Fmt) (mode : Nat) (flush : Bool) (a b : Nat) : Nat × Nat :=
  let (x, v) := exAdd mode (unpack f flush a) (unpack f flush b)
  let (r, w) := roundEx f mode flush false x
  (r, v ||| w ||| nanFlag f a ||| nanFlag f b)

def fpSub (f : Fmt) (mode : Nat) (flush : Bool) (a b : Nat) : Nat × Nat :=
  let (x, v) := exAdd mode (unpack f flush a) (exNeg (unpack f flush b))
  let (r, w) := roundEx f mode flush false x
  (r, v ||| w ||| nanFlag f a ||| nanFlag f b)

def fpMul (f : Fmt) (mode : Nat) (flush : Bool) (a b : Nat) : Nat × Nat :=
  let (x, v) := exMul (unpack f flush a) (unpack f flush b)
  let (r, w) := roundEx f mode flush false x
  (r, v ||| w ||| nanFlag f a ||| nanFlag f b)

def fpDiv (f : Fmt) (mode : Nat) (flush : Bool) (a b : Nat) : Nat × Nat :=
  let (r, w) := roundDiv f mode flush (unpack f flush a) (unpack f flush b)
  (r, w ||| nanFlag f a ||| nanFlag f b)

/-- d + a · b with one rounding, or d − a · b (R124). -/
def fpFma (f : Fmt) (mode : Nat) (flush minus : Bool) (a b d : Nat) : Nat × Nat :=
  let (p, u) := exMul (unpack f flush a) (unpack f flush b)
  let (x, v) := exAdd mode (unpack f flush d) (if minus then exNeg p else p)
  let (r, w) := roundEx f mode flush false x
  (r, u ||| v ||| w ||| nanFlag f a ||| nanFlag f b ||| nanFlag f d)

/-- Numeric order of two exact values that are no NaN: −1, 0 or 1. -/
def exCompare (a b : Ex) : Int :=
  let sgn := fun (i : Int) => if i < 0 then -1 else if i = 0 then 0 else (1 : Int)
  match a, b with
  | .inf s, .inf t => if s = t then 0 else if s then -1 else 1
  | .inf s, _ => if s then -1 else 1
  | _, .inf t => if t then 1 else -1
  | .fin s m e, .fin t n g => let q := min e g; sgn (alignTo s m e q - alignTo t n g q)
  | _, _ => 0

/-- Minimum or maximum of IEEE 754-2019 (R98): a NaN gives the canonical NaN, and −0 is below +0. -/
def fpMinMax (f : Fmt) (flush isMax : Bool) (a b : Nat) : Nat × Nat :=
  let x := unpack f flush a
  let y := unpack f flush b
  let v := nanFlag f a ||| nanFlag f b
  if x = .nan ∨ y = .nan then (f.nan, v)
  else
    let neg := fun n => n / f.signBit % 2 == 1
    let flushed := fun (n : Nat) (z : Ex) => match z with
      | .fin s 0 _ => if s then f.signBit else 0
      | _ => n
    let c := exCompare x y
    let aLess := c < 0 || (c == 0 && neg a && !neg b)
    (if aLess != isMax then flushed a x else flushed b y, v)

/-! ## Conversions (R105) -/

/-- An exact value rounded to an integer in a mode, with NX when it is not one. -/
def exToInt (mode : Nat) : Ex → Int × Nat
  | .fin s m e =>
    let (n, rest) := quotient m 1 e 0
    let n := if roundsUp mode (n % 2 == 1) s rest then n + 1 else n
    (if s then -(n : Int) else n, if rest = 0 then 0 else fNX)
  | _ => (0, 0)

/-- Bounds of an integer TYPE (R95). -/
def intMin (t : Nat) : Int := match t with
  | 6 => -128 | 7 => -2147483648 | _ => 0
def intMax (t : Nat) : Int := match t with
  | 6 => 127 | 7 => 2147483647 | _ => 4294967295

/-- A lane of an integer TYPE as an integer. -/
def intOf (t n : Nat) : Int := match t with
  | 6 => toSigned 8 n | 7 => toSigned 32 n | _ => (n : Int)

/-- A lane converted from TYPE s to TYPE t (R105). -/
def convert (s t mode : Nat) (flush sat : Bool) (n : Nat) : Nat × Nat :=
  if isInt s then
    let i := intOf s n
    if isInt t then
      if sat && (i < intMin t || intMax t < i) then (wrap (widthOf t) (if i < intMin t then intMin t else intMax t), fSAT)
      else (wrap (widthOf t) i, 0)
    else roundEx (fmtOfType t) mode flush sat (.fin (decide (i < 0)) i.natAbs 0)
  else
    let f := fmtOfType s
    let x := unpack f flush n
    if isInt t then
      match x with
      | .nan => (0, fNV)
      | .inf neg => (wrap (widthOf t) (if neg then intMin t else intMax t), fNV)
      | x =>
        let (i, v) := exToInt mode x
        if i < intMin t then (wrap (widthOf t) (intMin t), fNV)
        else if intMax t < i then (wrap (widthOf t) (intMax t), fNV)
        else (wrap (widthOf t) i, v)
    else
      let (r, v) := roundEx (fmtOfType t) mode flush sat x
      (r, v ||| nanFlag f n)

end Sys2Proof.Machine
end

