-- ==== Sys2Proof/WellFormed.lean ====
section
/-! DEFINITION. Which values the fields of an instruction may hold: the reserved codes of R84, as the tables of
04 and 08 list them. A word whose fields break this is unassigned. -/

namespace Sys2Proof

/-- The fields hold no reserved code (R73, R76, R79 to R83, R147, R164, R165, R195, R268, R277, R285). An event has no
fields of a word, and every one is well formed. -/
def Instr.wellFormed : Instr → Bool
  | .add _ _ _ => true
  | .sub _ _ _ => true
  | .and _ _ _ => true
  | .or _ _ _ => true
  | .xor _ _ _ => true
  | .sll _ _ _ => true
  | .srl _ _ _ => true
  | .sra _ _ _ => true
  | .sllImm _ _ _ => true
  | .srlImm _ _ _ => true
  | .sraImm _ _ _ => true
  | .mul _ _ _ => true
  | .mulh _ _ _ => true
  | .mulhn _ _ _ => true
  | .div _ _ _ => true
  | .divn _ _ _ => true
  | .rem _ _ _ => true
  | .remn _ _ _ => true
  | .slt _ _ _ => true
  | .sltn _ _ _ => true
  | .min _ _ _ => true
  | .max _ _ _ => true
  | .minn _ _ _ => true
  | .maxn _ _ _ => true
  | .addi _ _ _ => true
  | .lih _ _ _ => true
  | .andi _ _ _ => true
  | .ori _ _ _ => true
  | .xori _ _ _ => true
  | .beq _ _ _ => true
  | .bne _ _ _ => true
  | .blt _ _ _ => true
  | .bge _ _ _ => true
  | .bltn _ _ _ => true
  | .bgen _ _ _ => true
  | .jal _ _ => true
  | .jalr _ _ _ => true
  | .ldb _ _ _ _ _ => true
  | .ldbn _ _ _ _ _ => true
  | .ldh _ _ _ _ _ => true
  | .ldhn _ _ _ _ _ => true
  | .ldw _ _ _ _ _ => true
  | .ldwn _ _ _ _ _ => true
  | .ldd _ _ _ _ _ => true
  | .ldk _ _ _ _ _ => true
  | .stb _ _ _ _ _ => true
  | .sth _ _ _ _ _ => true
  | .stw _ _ _ _ _ => true
  | .std _ _ _ _ _ => true
  | .stk _ _ _ _ _ => true
  | .amoAdd _ _ _ _ c _ => c.toNat ≤ 6
  | .amoSwap _ _ _ _ c _ => c.toNat ≤ 6
  | .amoCas _ _ _ _ c _ => c.toNat ≤ 6
  | .amoMax _ _ _ _ c _ _ => c.toNat ≤ 6
  | .amoMin _ _ _ _ c _ _ => c.toNat ≤ 6
  | .amoAnd _ _ _ _ c _ => c.toNat ≤ 6
  | .amoOr _ _ _ _ c _ => c.toNat ≤ 6
  | .vld _ _ _ _ t _ => t.toNat ≤ 8
  | .vst _ _ _ _ t _ => t.toNat ≤ 8
  | .vadd _ _ _ t r _ => t.toNat ≤ 8 && r.toNat ≤ 5 && (t.toNat < 6 || r.toNat == 0)
  | .vsub _ _ _ t r _ => t.toNat ≤ 8 && r.toNat ≤ 5 && (t.toNat < 6 || r.toNat == 0)
  | .vmul _ _ _ t r _ => t.toNat ≤ 8 && r.toNat ≤ 5 && (t.toNat < 6 || r.toNat == 0)
  | .vdiv _ _ _ t r _ => t.toNat ≤ 3 && r.toNat ≤ 5
  | .vmin _ _ _ t _ => t.toNat ≤ 8
  | .vmax _ _ _ t _ => t.toNat ≤ 8
  | .vfma _ _ _ t r _ => t.toNat ≤ 5 && r.toNat ≤ 5
  | .vfms _ _ _ t r _ => t.toNat ≤ 5 && r.toNat ≤ 5
  | .vsqrt _ _ t r _ => t.toNat ≤ 3 && r.toNat ≤ 5
  | .vrcp _ _ t r _ => t.toNat ≤ 3 && r.toNat ≤ 5
  | .vrsqrt _ _ t r _ => t.toNat ≤ 3 && r.toNat ≤ 5
  | .vexp _ _ t r _ => t.toNat ≤ 3 && r.toNat ≤ 5
  | .vlog _ _ t r _ => t.toNat ≤ 3 && r.toNat ≤ 5
  | .vsin _ _ t r _ => t.toNat ≤ 3 && r.toNat ≤ 5
  | .vcos _ _ t r _ => t.toNat ≤ 3 && r.toNat ≤ 5
  | .vtanh _ _ t r _ => t.toNat ≤ 3 && r.toNat ≤ 5
  | .vneg _ _ t _ => t.toNat ≤ 8
  | .vabs _ _ t _ => t.toNat ≤ 8
  | .vmov _ _ t _ => t.toNat ≤ 8
  | .vcmp _ _ _ t r _ => t.toNat ≤ 8 && (r.toNat < 6 || t.toNat ≤ 5)
  | .vsel _ _ _ t _ => t.toNat ≤ 8
  | .vperm _ _ _ t _ => t.toNat ≤ 8
  | .vredAdd _ _ t r _ => t.toNat ≤ 8 && r.toNat ≤ 5 && (t.toNat < 6 || r.toNat == 0)
  | .vredMin _ _ t _ => t.toNat ≤ 8
  | .vredMax _ _ t _ => t.toNat ≤ 8
  | .vcvt _ _ _ s t r _ => s.toNat ≤ 8 && t.toNat ≤ 8 && s != t && r.toNat ≤ 5
  | .vcvtAmax _ _ _ s t r _ => s.toNat ≤ 8 && (t.toNat == 2 || t.toNat == 4 || t.toNat == 5) && r.toNat ≤ 5
  | .vand _ _ _ t _ => t.toNat ≤ 8
  | .vor _ _ _ t _ => t.toNat ≤ 8
  | .vxor _ _ _ t _ => t.toNat ≤ 8
  | .vsll _ _ _ t _ => t.toNat ≤ 8
  | .vsrl _ _ _ t _ => t.toNat ≤ 8
  | .vsra _ _ _ t _ => t.toNat ≤ 8
  | .vcopysign _ _ _ t _ => t.toNat ≤ 5
  | .jseed _ _ t => t.toNat ≤ 8
  | .jext _ _ _ t r => t.toNat ≤ 8 && r.toNat ≤ 5
  | .jcoef _ _ _ t => t.toNat ≤ 8
  | .jset _ _ _ t => t.toNat ≤ 8
  | .jshift _ _ t r => t.toNat ≤ 8 && r.toNat ≤ 5
  | .jint _ _ t r => t.toNat ≤ 8 && r.toNat ≤ 5
  | .mma _ _ c _ y h m => c.toNat ≤ 13 && y.toNat != 3 && (h.toNat == 0 || m.toNat == 7)
  | .mzero c h => c.toNat ≤ 13 && h.toNat != 1
  | .mrd _ c v _ => c.toNat ≤ 13 && v.toNat != 3
  | .mwr _ c v _ => c.toNat ≤ 13 && v.toNat != 3
  | .mld _ _ c h f _ => c.toNat ≤ 13 && h.toNat != 1 && ((f.toNat == 0) || (f.toNat == 2 && 2 ≤ h.toNat) || (f.toNat % 2 == 1 && h.toNat == 0))
  | .mst _ _ c h f _ => c.toNat ≤ 13 && h.toNat != 1 && ((f.toNat == 0) || (f.toNat == 2 && 2 ≤ h.toNat) || (f.toNat % 2 == 1 && h.toNat == 0))
  | .mxsend _ _ _ => true
  | .mstat _ _ => true
  | .ecopy _ _ => true
  | .eget _ _ => true
  | .eput _ _ => true
  | .egather _ _ => true
  | .escatter _ _ => true
  | .eremap _ _ => true
  | .epool _ _ => true
  | .emerge _ _ => true
  | .esend _ _ => true
  | .tread _ _ => true
  | .twait _ _ => true
  | .evret => true
  | .tissue _ _ => true
  | .qopen _ _ _ => true
  | .qadv _ => true
  | .qend _ _ => true
  | .qclose _ => true
  | .ldt _ _ _ t => t.toNat ≤ 8
  | .vldt _ _ _ t => t.toNat ≤ 8
  | .rget _ _ => true
  | .rkey _ f _ => f.toNat ≤ 5
  | .talloc _ _ => true
  | .emit _ => true
  | .commit => true
  | .abort => true
  | .susp _ _ => true
  | .yield => true
  | .part _ _ n => n.toNat ≤ 2
  | .crewid _ => true
  | .crewrel => true
  | .wmem _ _ _ _ => true
  | .pause => true
  | .barRow => true
  | .barCol => true
  | .barSg => true
  | .xmit _ _ => true
  | .xsel _ _ => true
  | .ipf _ n => n.toNat ≤ 1
  | .ipin _ n => n.toNat ≤ 1
  | .iunpin _ n => n.toNat ≤ 1
  | .psplit _ => true
  | .kbound _ _ _ => true
  | .kperm _ _ _ => true
  | .kaddr _ _ _ => true
  | .kformat _ _ _ => true
  | .kbase _ _ => true
  | .kseal _ _ _ => true
  | .kunseal _ _ _ => true
  | .klease _ _ _ => true
  | .kgaddr _ _ => true
  | .kglen _ _ => true
  | .kgbase _ _ => true
  | .kgperm _ _ => true
  | .kgspace _ _ => true
  | .kgtag _ _ => true
  | .ecall _ => true
  | .tret => true
  | .srr _ _ => true
  | .srw _ _ => true
  | .fence _ c p u => c.toNat ≤ 6 && p.toNat != 0 && u.toNat != 0
  | .tlbw _ _ => true
  | .tlbflush _ => true
  | .mboxSend _ _ => true
  | .mboxBind _ _ => true
  | .mboxUnbind _ _ => true
  | .sdown _ => true
  | .wfe => true
  | .halt => true
  | .jfl _ _ _ => true
  | .vldx _ _ _ _ t => t.toNat ≤ 8
  | .vstx _ _ _ _ t => t.toNat ≤ 8
  | .hint _ => true
  | .launch _ _ => true
  | .inject _ _ => true
  | .drain _ _ => true
  | .leaseGrant _ _ => true
  | .leaseRevoke _ _ => true
  | .leaseShardingEntry _ _ => true
  | .leasePeer _ _ => true
  | .cancel _ _ => true
  | .queryLaunchState _ _ => true
  | .queryVifWeirs _ _ => true
  | .queryAttestation _ => true
  | .leaseResident _ _ _ => true
  | .injectRoomAccept _ => true
  | .admission _ _ => true
  | .matchDecision _ _ _ => true
  | .tileArrival _ => true
  | .backwaterReturn _ _ _ => true
  | .transitEntry _ => true
  | .reactionPickup _ => true
  | .overlayLoadComplete _ _ _ => true
  | .reactionCommit _ _ => true
  | .reactionAbort _ _ => true
  | .cycleLimit _ _ => true
  | .slackWave _ _ => true
  | .drainWrite _ _ => true
  | .operationComplete _ => true
  | .remoteStepApply _ => true
  | .mmaStepComplete _ => true
  | .eventTaken _ => true
  | .storeCompletion _ => true
  | .wmemTimeout _ _ => true
  | .pauseExpiry _ => true
  | .wfeTimeout _ => true
  | .barrierRelease _ => true
  | .barTimeout _ => true
  | .xselTimeout _ => true
  | .xmitArrival _ => true
  | .mailboxDelivery _ => true
  | .tlbFill _ => true
  | .shootdownReceive _ => true
  | .remoteRequest _ _ _ _ => true
  | .interruptPreempt _ => true
  | .interruptSwitch _ => true
  | .interruptWind _ => true
  | .interruptWake _ => true
  | .eviction _ _ => true
  | .restore _ _ => true
  | .weirRefill _ => true
  | .clockStepDown => true
  | .clockStepUp => true
  | .escrowLost _ _ => true
  | .linkFailure _ => true
  | .routerFailure _ => true
  | .partitionSelftestDone _ _ => true
  | .tileVifSwitch _ _ _ => true
  | .vifCreate _ => true
  | .vifDestroy _ => true
  | .powerOn => true
  | .verify _ => true
  | .bringUp _ => true
  | .priminReset => true
  | .unassignedWord _ => true
  | .powerLoss => true
  | .coreRestore _ => true

/-- The constructor stands for an instruction word that Table 4.12 and the minor maps assign. -/
def Instr.isWord : Instr → Bool
  | .add _ _ _ => true
  | .sub _ _ _ => true
  | .and _ _ _ => true
  | .or _ _ _ => true
  | .xor _ _ _ => true
  | .sll _ _ _ => true
  | .srl _ _ _ => true
  | .sra _ _ _ => true
  | .sllImm _ _ _ => true
  | .srlImm _ _ _ => true
  | .sraImm _ _ _ => true
  | .mul _ _ _ => true
  | .mulh _ _ _ => true
  | .mulhn _ _ _ => true
  | .div _ _ _ => true
  | .divn _ _ _ => true
  | .rem _ _ _ => true
  | .remn _ _ _ => true
  | .slt _ _ _ => true
  | .sltn _ _ _ => true
  | .min _ _ _ => true
  | .max _ _ _ => true
  | .minn _ _ _ => true
  | .maxn _ _ _ => true
  | .addi _ _ _ => true
  | .lih _ _ _ => true
  | .andi _ _ _ => true
  | .ori _ _ _ => true
  | .xori _ _ _ => true
  | .beq _ _ _ => true
  | .bne _ _ _ => true
  | .blt _ _ _ => true
  | .bge _ _ _ => true
  | .bltn _ _ _ => true
  | .bgen _ _ _ => true
  | .jal _ _ => true
  | .jalr _ _ _ => true
  | .ldb _ _ _ _ _ => true
  | .ldbn _ _ _ _ _ => true
  | .ldh _ _ _ _ _ => true
  | .ldhn _ _ _ _ _ => true
  | .ldw _ _ _ _ _ => true
  | .ldwn _ _ _ _ _ => true
  | .ldd _ _ _ _ _ => true
  | .ldk _ _ _ _ _ => true
  | .stb _ _ _ _ _ => true
  | .sth _ _ _ _ _ => true
  | .stw _ _ _ _ _ => true
  | .std _ _ _ _ _ => true
  | .stk _ _ _ _ _ => true
  | .amoAdd _ _ _ _ _ _ => true
  | .amoSwap _ _ _ _ _ _ => true
  | .amoCas _ _ _ _ _ _ => true
  | .amoMax _ _ _ _ _ _ _ => true
  | .amoMin _ _ _ _ _ _ _ => true
  | .amoAnd _ _ _ _ _ _ => true
  | .amoOr _ _ _ _ _ _ => true
  | .vld _ _ _ _ _ _ => true
  | .vst _ _ _ _ _ _ => true
  | .vadd _ _ _ _ _ _ => true
  | .vsub _ _ _ _ _ _ => true
  | .vmul _ _ _ _ _ _ => true
  | .vdiv _ _ _ _ _ _ => true
  | .vmin _ _ _ _ _ => true
  | .vmax _ _ _ _ _ => true
  | .vfma _ _ _ _ _ _ => true
  | .vfms _ _ _ _ _ _ => true
  | .vsqrt _ _ _ _ _ => true
  | .vrcp _ _ _ _ _ => true
  | .vrsqrt _ _ _ _ _ => true
  | .vexp _ _ _ _ _ => true
  | .vlog _ _ _ _ _ => true
  | .vsin _ _ _ _ _ => true
  | .vcos _ _ _ _ _ => true
  | .vtanh _ _ _ _ _ => true
  | .vneg _ _ _ _ => true
  | .vabs _ _ _ _ => true
  | .vmov _ _ _ _ => true
  | .vcmp _ _ _ _ _ _ => true
  | .vsel _ _ _ _ _ => true
  | .vperm _ _ _ _ _ => true
  | .vredAdd _ _ _ _ _ => true
  | .vredMin _ _ _ _ => true
  | .vredMax _ _ _ _ => true
  | .vcvt _ _ _ _ _ _ _ => true
  | .vcvtAmax _ _ _ _ _ _ _ => true
  | .vand _ _ _ _ _ => true
  | .vor _ _ _ _ _ => true
  | .vxor _ _ _ _ _ => true
  | .vsll _ _ _ _ _ => true
  | .vsrl _ _ _ _ _ => true
  | .vsra _ _ _ _ _ => true
  | .vcopysign _ _ _ _ _ => true
  | .jseed _ _ _ => true
  | .jext _ _ _ _ _ => true
  | .jcoef _ _ _ _ => true
  | .jset _ _ _ _ => true
  | .jshift _ _ _ _ => true
  | .jint _ _ _ _ => true
  | .mma _ _ _ _ _ _ _ => true
  | .mzero _ _ => true
  | .mrd _ _ _ _ => true
  | .mwr _ _ _ _ => true
  | .mld _ _ _ _ _ _ => true
  | .mst _ _ _ _ _ _ => true
  | .mxsend _ _ _ => true
  | .mstat _ _ => true
  | .ecopy _ _ => true
  | .eget _ _ => true
  | .eput _ _ => true
  | .egather _ _ => true
  | .escatter _ _ => true
  | .eremap _ _ => true
  | .epool _ _ => true
  | .emerge _ _ => true
  | .esend _ _ => true
  | .tread _ _ => true
  | .twait _ _ => true
  | .evret => true
  | .tissue _ _ => true
  | .qopen _ _ _ => true
  | .qadv _ => true
  | .qend _ _ => true
  | .qclose _ => true
  | .ldt _ _ _ _ => true
  | .vldt _ _ _ _ => true
  | .rget _ _ => true
  | .rkey _ _ _ => true
  | .talloc _ _ => true
  | .emit _ => true
  | .commit => true
  | .abort => true
  | .susp _ _ => true
  | .yield => true
  | .part _ _ _ => true
  | .crewid _ => true
  | .crewrel => true
  | .wmem _ _ _ _ => true
  | .pause => true
  | .barRow => true
  | .barCol => true
  | .barSg => true
  | .xmit _ _ => true
  | .xsel _ _ => true
  | .ipf _ _ => true
  | .ipin _ _ => true
  | .iunpin _ _ => true
  | .psplit _ => true
  | .kbound _ _ _ => true
  | .kperm _ _ _ => true
  | .kaddr _ _ _ => true
  | .kformat _ _ _ => true
  | .kbase _ _ => true
  | .kseal _ _ _ => true
  | .kunseal _ _ _ => true
  | .klease _ _ _ => true
  | .kgaddr _ _ => true
  | .kglen _ _ => true
  | .kgbase _ _ => true
  | .kgperm _ _ => true
  | .kgspace _ _ => true
  | .kgtag _ _ => true
  | .ecall _ => true
  | .tret => true
  | .srr _ _ => true
  | .srw _ _ => true
  | .fence _ _ _ _ => true
  | .tlbw _ _ => true
  | .tlbflush _ => true
  | .mboxSend _ _ => true
  | .mboxBind _ _ => true
  | .mboxUnbind _ _ => true
  | .sdown _ => true
  | .wfe => true
  | .halt => true
  | .jfl _ _ _ => true
  | .vldx _ _ _ _ _ => true
  | .vstx _ _ _ _ _ => true
  | .hint _ => true
  | .launch _ _ => false
  | .inject _ _ => false
  | .drain _ _ => false
  | .leaseGrant _ _ => false
  | .leaseRevoke _ _ => false
  | .leaseShardingEntry _ _ => false
  | .leasePeer _ _ => false
  | .cancel _ _ => false
  | .queryLaunchState _ _ => false
  | .queryVifWeirs _ _ => false
  | .queryAttestation _ => false
  | .leaseResident _ _ _ => false
  | .injectRoomAccept _ => false
  | .admission _ _ => false
  | .matchDecision _ _ _ => false
  | .tileArrival _ => false
  | .backwaterReturn _ _ _ => false
  | .transitEntry _ => false
  | .reactionPickup _ => false
  | .overlayLoadComplete _ _ _ => false
  | .reactionCommit _ _ => false
  | .reactionAbort _ _ => false
  | .cycleLimit _ _ => false
  | .slackWave _ _ => false
  | .drainWrite _ _ => false
  | .operationComplete _ => false
  | .remoteStepApply _ => false
  | .mmaStepComplete _ => false
  | .eventTaken _ => false
  | .storeCompletion _ => false
  | .wmemTimeout _ _ => false
  | .pauseExpiry _ => false
  | .wfeTimeout _ => false
  | .barrierRelease _ => false
  | .barTimeout _ => false
  | .xselTimeout _ => false
  | .xmitArrival _ => false
  | .mailboxDelivery _ => false
  | .tlbFill _ => false
  | .shootdownReceive _ => false
  | .remoteRequest _ _ _ _ => false
  | .interruptPreempt _ => false
  | .interruptSwitch _ => false
  | .interruptWind _ => false
  | .interruptWake _ => false
  | .eviction _ _ => false
  | .restore _ _ => false
  | .weirRefill _ => false
  | .clockStepDown => false
  | .clockStepUp => false
  | .escrowLost _ _ => false
  | .linkFailure _ => false
  | .routerFailure _ => false
  | .partitionSelftestDone _ _ => false
  | .tileVifSwitch _ _ _ => false
  | .vifCreate _ => false
  | .vifDestroy _ => false
  | .powerOn => false
  | .verify _ => false
  | .bringUp _ => false
  | .priminReset => false
  | .unassignedWord _ => false
  | .powerLoss => false
  | .coreRestore _ => false

end Sys2Proof
end

