-- ==== Sys2Proof/Decode.lean ====
section
/-! DEFINITION. Words to instructions and back (04, Tables 4.4 to 4.19).

The decoder reads the fields that the major and the minor name, and then checks two things: no field holds a reserved
code, and the instruction encodes to that very word, so that every field that must be zero is. A word that fails
either is unassigned (R84). -/

namespace Sys2Proof

/-- Field of `len` bits at bit `lo` of a word (R3). -/
def fieldAt (w lo len : Nat) : BitVec len := BitVec.ofNat len (w / 2 ^ lo)

/-- A word with 1 field: each value at the bit that follows it, over the bits that the encoding fixes. -/
def word1 (fixed a la : Nat) : Nat := fixed + a * 2 ^ la

/-- A word with 2 fields: each value at the bit that follows it, over the bits that the encoding fixes. -/
def word2 (fixed a la b lb : Nat) : Nat := fixed + a * 2 ^ la + b * 2 ^ lb

/-- A word with 3 fields: each value at the bit that follows it, over the bits that the encoding fixes. -/
def word3 (fixed a la b lb c lc : Nat) : Nat := fixed + a * 2 ^ la + b * 2 ^ lb + c * 2 ^ lc

/-- A word with 4 fields: each value at the bit that follows it, over the bits that the encoding fixes. -/
def word4 (fixed a la b lb c lc d ld : Nat) : Nat := fixed + a * 2 ^ la + b * 2 ^ lb + c * 2 ^ lc + d * 2 ^ ld

/-- A word with 5 fields: each value at the bit that follows it, over the bits that the encoding fixes. -/
def word5 (fixed a la b lb c lc d ld e le : Nat) : Nat := fixed + a * 2 ^ la + b * 2 ^ lb + c * 2 ^ lc + d * 2 ^ ld + e * 2 ^ le

/-- A word with 6 fields: each value at the bit that follows it, over the bits that the encoding fixes. -/
def word6 (fixed a la b lb c lc d ld e le f lf : Nat) : Nat := fixed + a * 2 ^ la + b * 2 ^ lb + c * 2 ^ lc + d * 2 ^ ld + e * 2 ^ le + f * 2 ^ lf

/-- A word with 7 fields: each value at the bit that follows it, over the bits that the encoding fixes. -/
def word7 (fixed a la b lb c lc d ld e le f lf g lg : Nat) : Nat := fixed + a * 2 ^ la + b * 2 ^ lb + c * 2 ^ lc + d * 2 ^ ld + e * 2 ^ le + f * 2 ^ lf + g * 2 ^ lg

/-- The word of an instruction, as a number (R71, R72). An event has no word, and answers 0. -/
def Instr.encodeNat : Instr → Nat
  | .add d a b => word3 0x04000000 d.toNat 21 a.toNat 16 b.toNat 11
  | .sub d a b => word3 0x04000040 d.toNat 21 a.toNat 16 b.toNat 11
  | .and d a b => word3 0x04000080 d.toNat 21 a.toNat 16 b.toNat 11
  | .or d a b => word3 0x040000C0 d.toNat 21 a.toNat 16 b.toNat 11
  | .xor d a b => word3 0x04000100 d.toNat 21 a.toNat 16 b.toNat 11
  | .sll d a b => word3 0x04000140 d.toNat 21 a.toNat 16 b.toNat 11
  | .srl d a b => word3 0x04000180 d.toNat 21 a.toNat 16 b.toNat 11
  | .sra d a b => word3 0x040001C0 d.toNat 21 a.toNat 16 b.toNat 11
  | .sllImm d a s => word3 0x04000200 d.toNat 21 a.toNat 16 s.toNat 0
  | .srlImm d a s => word3 0x04000240 d.toNat 21 a.toNat 16 s.toNat 0
  | .sraImm d a s => word3 0x04000280 d.toNat 21 a.toNat 16 s.toNat 0
  | .mul d a b => word3 0x040002C0 d.toNat 21 a.toNat 16 b.toNat 11
  | .mulh d a b => word3 0x04000300 d.toNat 21 a.toNat 16 b.toNat 11
  | .mulhn d a b => word3 0x04000340 d.toNat 21 a.toNat 16 b.toNat 11
  | .div d a b => word3 0x04000380 d.toNat 21 a.toNat 16 b.toNat 11
  | .divn d a b => word3 0x040003C0 d.toNat 21 a.toNat 16 b.toNat 11
  | .rem d a b => word3 0x04000400 d.toNat 21 a.toNat 16 b.toNat 11
  | .remn d a b => word3 0x04000440 d.toNat 21 a.toNat 16 b.toNat 11
  | .slt d a b => word3 0x04000480 d.toNat 21 a.toNat 16 b.toNat 11
  | .sltn d a b => word3 0x040004C0 d.toNat 21 a.toNat 16 b.toNat 11
  | .min d a b => word3 0x04000500 d.toNat 21 a.toNat 16 b.toNat 11
  | .max d a b => word3 0x04000540 d.toNat 21 a.toNat 16 b.toNat 11
  | .minn d a b => word3 0x04000580 d.toNat 21 a.toNat 16 b.toNat 11
  | .maxn d a b => word3 0x040005C0 d.toNat 21 a.toNat 16 b.toNat 11
  | .addi d a i => word3 0x08000000 d.toNat 21 a.toNat 16 i.toNat 0
  | .lih d a i => word3 0x0C000000 d.toNat 21 a.toNat 16 i.toNat 0
  | .andi d a i => word3 0x10000000 d.toNat 21 a.toNat 16 i.toNat 0
  | .ori d a i => word3 0x14000000 d.toNat 21 a.toNat 16 i.toNat 0
  | .xori d a i => word3 0x18000000 d.toNat 21 a.toNat 16 i.toNat 0
  | .beq a b o => word3 0x20000000 a.toNat 21 b.toNat 16 o.toNat 0
  | .bne a b o => word3 0x24000000 a.toNat 21 b.toNat 16 o.toNat 0
  | .blt a b o => word3 0x28000000 a.toNat 21 b.toNat 16 o.toNat 0
  | .bge a b o => word3 0x2C000000 a.toNat 21 b.toNat 16 o.toNat 0
  | .bltn a b o => word3 0x30000000 a.toNat 21 b.toNat 16 o.toNat 0
  | .bgen a b o => word3 0x34000000 a.toNat 21 b.toNat 16 o.toNat 0
  | .jal d o => word2 0x38000000 d.toNat 21 o.toNat 0
  | .jalr d a i => word3 0x3C000000 d.toNat 21 a.toNat 16 i.toNat 0
  | .ldb d k i s o => word5 0x40000000 d.toNat 20 k.toNat 16 i.toNat 11 s.toNat 9 o.toNat 0
  | .ldbn d k i s o => word5 0x44000000 d.toNat 20 k.toNat 16 i.toNat 11 s.toNat 9 o.toNat 0
  | .ldh d k i s o => word5 0x48000000 d.toNat 20 k.toNat 16 i.toNat 11 s.toNat 9 o.toNat 0
  | .ldhn d k i s o => word5 0x4C000000 d.toNat 20 k.toNat 16 i.toNat 11 s.toNat 9 o.toNat 0
  | .ldw d k i s o => word5 0x50000000 d.toNat 20 k.toNat 16 i.toNat 11 s.toNat 9 o.toNat 0
  | .ldwn d k i s o => word5 0x54000000 d.toNat 20 k.toNat 16 i.toNat 11 s.toNat 9 o.toNat 0
  | .ldd d k i s o => word5 0x58000000 d.toNat 20 k.toNat 16 i.toNat 11 s.toNat 9 o.toNat 0
  | .ldk d k i s o => word5 0x5C000000 d.toNat 20 k.toNat 16 i.toNat 11 s.toNat 9 o.toNat 0
  | .stb d k i s o => word5 0x60000000 d.toNat 20 k.toNat 16 i.toNat 11 s.toNat 9 o.toNat 0
  | .sth d k i s o => word5 0x64000000 d.toNat 20 k.toNat 16 i.toNat 11 s.toNat 9 o.toNat 0
  | .stw d k i s o => word5 0x68000000 d.toNat 20 k.toNat 16 i.toNat 11 s.toNat 9 o.toNat 0
  | .std d k i s o => word5 0x6C000000 d.toNat 20 k.toNat 16 i.toNat 11 s.toNat 9 o.toNat 0
  | .stk d k i s o => word5 0x70000000 d.toNat 20 k.toNat 16 i.toNat 11 s.toNat 9 o.toNat 0
  | .amoAdd d k x s c w => word6 0x74000000 d.toNat 20 k.toNat 16 x.toNat 11 s.toNat 9 c.toNat 3 w.toNat 2
  | .amoSwap d k x s c w => word6 0x74000040 d.toNat 20 k.toNat 16 x.toNat 11 s.toNat 9 c.toNat 3 w.toNat 2
  | .amoCas d k x s c w => word6 0x74000080 d.toNat 20 k.toNat 16 x.toNat 11 s.toNat 9 c.toNat 3 w.toNat 2
  | .amoMax d k x s c w n => word7 0x740000C0 d.toNat 20 k.toNat 16 x.toNat 11 s.toNat 9 c.toNat 3 w.toNat 2 n.toNat 1
  | .amoMin d k x s c w n => word7 0x74000100 d.toNat 20 k.toNat 16 x.toNat 11 s.toNat 9 c.toNat 3 w.toNat 2 n.toNat 1
  | .amoAnd d k x s c w => word6 0x74000140 d.toNat 20 k.toNat 16 x.toNat 11 s.toNat 9 c.toNat 3 w.toNat 2
  | .amoOr d k x s c w => word6 0x74000180 d.toNat 20 k.toNat 16 x.toNat 11 s.toNat 9 c.toNat 3 w.toNat 2
  | .vld d k i s t o => word6 0x78000000 d.toNat 20 k.toNat 16 i.toNat 11 s.toNat 9 t.toNat 5 o.toNat 0
  | .vst d k i s t o => word6 0x7C000000 d.toNat 20 k.toNat 16 i.toNat 11 s.toNat 9 t.toNat 5 o.toNat 0
  | .vadd d a b t r q => word6 0x80000000 d.toNat 20 a.toNat 14 b.toNat 8 t.toNat 4 r.toNat 1 q.toNat 0
  | .vsub d a b t r q => word6 0x84000000 d.toNat 20 a.toNat 14 b.toNat 8 t.toNat 4 r.toNat 1 q.toNat 0
  | .vmul d a b t r q => word6 0x88000000 d.toNat 20 a.toNat 14 b.toNat 8 t.toNat 4 r.toNat 1 q.toNat 0
  | .vdiv d a b t r q => word6 0x8C000000 d.toNat 20 a.toNat 14 b.toNat 8 t.toNat 4 r.toNat 1 q.toNat 0
  | .vmin d a b t q => word5 0x90000000 d.toNat 20 a.toNat 14 b.toNat 8 t.toNat 4 q.toNat 0
  | .vmax d a b t q => word5 0x94000000 d.toNat 20 a.toNat 14 b.toNat 8 t.toNat 4 q.toNat 0
  | .vfma d a b t r q => word6 0x98000000 d.toNat 20 a.toNat 14 b.toNat 8 t.toNat 4 r.toNat 1 q.toNat 0
  | .vfms d a b t r q => word6 0x9C000000 d.toNat 20 a.toNat 14 b.toNat 8 t.toNat 4 r.toNat 1 q.toNat 0
  | .vsqrt d a t r q => word5 0xA0000000 d.toNat 20 a.toNat 14 t.toNat 4 r.toNat 1 q.toNat 0
  | .vrcp d a t r q => word5 0xA0000100 d.toNat 20 a.toNat 14 t.toNat 4 r.toNat 1 q.toNat 0
  | .vrsqrt d a t r q => word5 0xA0000200 d.toNat 20 a.toNat 14 t.toNat 4 r.toNat 1 q.toNat 0
  | .vexp d a t r q => word5 0xA0000300 d.toNat 20 a.toNat 14 t.toNat 4 r.toNat 1 q.toNat 0
  | .vlog d a t r q => word5 0xA0000400 d.toNat 20 a.toNat 14 t.toNat 4 r.toNat 1 q.toNat 0
  | .vsin d a t r q => word5 0xA0000500 d.toNat 20 a.toNat 14 t.toNat 4 r.toNat 1 q.toNat 0
  | .vcos d a t r q => word5 0xA0000600 d.toNat 20 a.toNat 14 t.toNat 4 r.toNat 1 q.toNat 0
  | .vtanh d a t r q => word5 0xA0000700 d.toNat 20 a.toNat 14 t.toNat 4 r.toNat 1 q.toNat 0
  | .vneg d a t q => word4 0xA0000800 d.toNat 20 a.toNat 14 t.toNat 4 q.toNat 0
  | .vabs d a t q => word4 0xA0000900 d.toNat 20 a.toNat 14 t.toNat 4 q.toNat 0
  | .vmov d a t q => word4 0xA0000A00 d.toNat 20 a.toNat 14 t.toNat 4 q.toNat 0
  | .vcmp d a b t r q => word6 0xA4000000 d.toNat 20 a.toNat 14 b.toNat 8 t.toNat 4 r.toNat 1 q.toNat 0
  | .vsel d a b t q => word5 0xA8000000 d.toNat 20 a.toNat 14 b.toNat 8 t.toNat 4 q.toNat 0
  | .vperm d a b t q => word5 0xAC000000 d.toNat 20 a.toNat 14 b.toNat 8 t.toNat 4 q.toNat 0
  | .vredAdd d a t r q => word5 0xB0000000 d.toNat 20 a.toNat 14 t.toNat 4 r.toNat 1 q.toNat 0
  | .vredMin d a t q => word4 0xB0000100 d.toNat 20 a.toNat 14 t.toNat 4 q.toNat 0
  | .vredMax d a t q => word4 0xB0000200 d.toNat 20 a.toNat 14 t.toNat 4 q.toNat 0
  | .vcvt d a x s t r q => word7 0xB4000000 d.toNat 20 a.toNat 14 x.toNat 12 s.toNat 8 t.toNat 4 r.toNat 1 q.toNat 0
  | .vcvtAmax d a m s t r q => word7 0xB8000000 d.toNat 20 a.toNat 14 m.toNat 12 s.toNat 8 t.toNat 4 r.toNat 1 q.toNat 0
  | .vand d a b t q => word5 0xBC000000 d.toNat 20 a.toNat 14 b.toNat 8 t.toNat 4 q.toNat 0
  | .vor d a b t q => word5 0xBC000002 d.toNat 20 a.toNat 14 b.toNat 8 t.toNat 4 q.toNat 0
  | .vxor d a b t q => word5 0xBC000004 d.toNat 20 a.toNat 14 b.toNat 8 t.toNat 4 q.toNat 0
  | .vsll d a b t q => word5 0xBC000006 d.toNat 20 a.toNat 14 b.toNat 8 t.toNat 4 q.toNat 0
  | .vsrl d a b t q => word5 0xBC000008 d.toNat 20 a.toNat 14 b.toNat 8 t.toNat 4 q.toNat 0
  | .vsra d a b t q => word5 0xBC00000A d.toNat 20 a.toNat 14 b.toNat 8 t.toNat 4 q.toNat 0
  | .vcopysign d a b t q => word5 0xBC00000C d.toNat 20 a.toNat 14 b.toNat 8 t.toNat 4 q.toNat 0
  | .jseed d a t => word3 0xC0000000 d.toNat 20 a.toNat 14 t.toNat 4
  | .jext d a k t r => word5 0xC0000100 d.toNat 20 a.toNat 14 k.toNat 11 t.toNat 4 r.toNat 1
  | .jcoef d a k t => word4 0xC0000200 d.toNat 20 a.toNat 14 k.toNat 11 t.toNat 4
  | .jset d a k t => word4 0xC0000300 d.toNat 20 a.toNat 14 k.toNat 11 t.toNat 4
  | .jshift d a t r => word4 0xC0000400 d.toNat 20 a.toNat 14 t.toNat 4 r.toNat 1
  | .jint d a t r => word4 0xC0000500 d.toNat 20 a.toNat 14 t.toNat 4 r.toNat 1
  | .mma a b c x y h m => word7 0xC4000000 a.toNat 21 b.toNat 16 c.toNat 12 x.toNat 6 y.toNat 4 h.toNat 3 m.toNat 0
  | .mzero c h => word2 0xC4000100 c.toNat 12 h.toNat 6
  | .mrd a c v d => word4 0xC4000200 a.toNat 21 c.toNat 12 v.toNat 6 d.toNat 0
  | .mwr a c v d => word4 0xC4000300 a.toNat 21 c.toNat 12 v.toNat 6 d.toNat 0
  | .mld a b c h f k => word6 0xC4000400 a.toNat 21 b.toNat 16 c.toNat 12 h.toNat 6 f.toNat 4 k.toNat 0
  | .mst a b c h f k => word6 0xC4000500 a.toNat 21 b.toNat 16 c.toNat 12 h.toNat 6 f.toNat 4 k.toNat 0
  | .mxsend a b k => word3 0xC4000600 a.toNat 21 b.toNat 16 k.toNat 0
  | .mstat a c => word2 0xC4000700 a.toNat 21 c.toNat 0
  | .ecopy a b => word2 0xC8000000 a.toNat 21 b.toNat 16
  | .eget a b => word2 0xC8000100 a.toNat 21 b.toNat 16
  | .eput a b => word2 0xC8000200 a.toNat 21 b.toNat 16
  | .egather a b => word2 0xC8000300 a.toNat 21 b.toNat 16
  | .escatter a b => word2 0xC8000400 a.toNat 21 b.toNat 16
  | .eremap a b => word2 0xC8000500 a.toNat 21 b.toNat 16
  | .epool a b => word2 0xC8000600 a.toNat 21 b.toNat 16
  | .emerge a b => word2 0xC8000700 a.toNat 21 b.toNat 16
  | .esend a b => word2 0xC8000800 a.toNat 21 b.toNat 16
  | .tread d l => word2 0xCC000000 d.toNat 21 l.toNat 16
  | .twait l a => word2 0xCC000400 l.toNat 21 a.toNat 16
  | .evret => 0xCC000800
  | .tissue d l => word2 0xCC000C00 d.toNat 21 l.toNat 16
  | .qopen q k m => word3 0xD0000000 q.toNat 21 k.toNat 6 m.toNat 2
  | .qadv q => word1 0xD0000400 q.toNat 21
  | .qend d q => word2 0xD0000800 d.toNat 21 q.toNat 16
  | .qclose q => word1 0xD0000C00 q.toNat 21
  | .ldt d k i t => word4 0xD4000000 d.toNat 20 k.toNat 16 i.toNat 11 t.toNat 5
  | .vldt d k i t => word4 0xD4000200 d.toNat 20 k.toNat 16 i.toNat 11 t.toNat 5
  | .rget k n => word2 0xD8000000 k.toNat 21 n.toNat 0
  | .rkey d f n => word3 0xD8000400 d.toNat 21 f.toNat 2 n.toNat 0
  | .talloc k i => word2 0xD8000800 k.toNat 21 i.toNat 0
  | .emit k => word1 0xD8000C00 k.toNat 16
  | .commit => 0xD8001000
  | .abort => 0xD8001400
  | .susp l a => word2 0xD8001800 l.toNat 21 a.toNat 16
  | .yield => 0xD8001C00
  | .part d a n => word3 0xD8002000 d.toNat 21 a.toNat 16 n.toNat 0
  | .crewid d => word1 0xD8002400 d.toNat 21
  | .crewrel => 0xD8002800
  | .wmem d a k n => word4 0xD8002C00 d.toNat 21 a.toNat 16 k.toNat 6 n.toNat 0
  | .pause => 0xD8003000
  | .barRow => 0xDC000000
  | .barCol => 0xDC000400
  | .barSg => 0xDC000800
  | .xmit a k => word2 0xDC000C00 a.toNat 16 k.toNat 6
  | .xsel d a => word2 0xDC001000 d.toNat 21 a.toNat 16
  | .ipf a n => word2 0xDC001400 a.toNat 16 n.toNat 0
  | .ipin a n => word2 0xDC001800 a.toNat 16 n.toNat 0
  | .iunpin a n => word2 0xDC001C00 a.toNat 16 n.toNat 0
  | .psplit a => word1 0xDC002000 a.toNat 16
  | .kbound d a k => word3 0xE0000000 d.toNat 21 a.toNat 16 k.toNat 6
  | .kperm d a k => word3 0xE0000400 d.toNat 21 a.toNat 16 k.toNat 6
  | .kaddr d a k => word3 0xE0000800 d.toNat 21 a.toNat 16 k.toNat 6
  | .kformat d a k => word3 0xE0000C00 d.toNat 21 a.toNat 16 k.toNat 6
  | .kbase d k => word2 0xE0001000 d.toNat 21 k.toNat 6
  | .kseal d k m => word3 0xE0001400 d.toNat 21 k.toNat 6 m.toNat 2
  | .kunseal d k m => word3 0xE0001800 d.toNat 21 k.toNat 6 m.toNat 2
  | .klease d a k => word3 0xE0001C00 d.toNat 21 a.toNat 16 k.toNat 6
  | .kgaddr d k => word2 0xE0002000 d.toNat 21 k.toNat 6
  | .kglen d k => word2 0xE0002400 d.toNat 21 k.toNat 6
  | .kgbase d k => word2 0xE0002800 d.toNat 21 k.toNat 6
  | .kgperm d k => word2 0xE0002C00 d.toNat 21 k.toNat 6
  | .kgspace d k => word2 0xE0003000 d.toNat 21 k.toNat 6
  | .kgtag d k => word2 0xE0003400 d.toNat 21 k.toNat 6
  | .ecall i => word1 0xE4000000 i.toNat 0
  | .tret => 0xE4000400
  | .srr d i => word2 0xE4000800 d.toNat 21 i.toNat 0
  | .srw a i => word2 0xE4000C00 a.toNat 16 i.toNat 0
  | .fence d c p u => word4 0xE4001000 d.toNat 21 c.toNat 7 p.toNat 4 u.toNat 1
  | .tlbw d a => word2 0xE4001400 d.toNat 21 a.toNat 16
  | .tlbflush a => word1 0xE4001800 a.toNat 16
  | .mboxSend d a => word2 0xE4001C00 d.toNat 21 a.toNat 16
  | .mboxBind d a => word2 0xE4001C00 d.toNat 21 a.toNat 16
  | .mboxUnbind d a => word2 0xE4001C00 d.toNat 21 a.toNat 16
  | .sdown a => word1 0xE4002000 a.toNat 16
  | .wfe => 0xE4002400
  | .halt => 0xE4002800
  | .jfl d x c => word3 0xE4002C00 d.toNat 21 x.toNat 3 c.toNat 0
  | .vldx d a k s t => word5 0xE8000000 d.toNat 20 a.toNat 14 k.toNat 10 s.toNat 8 t.toNat 4
  | .vstx d a k s t => word5 0xEC000000 d.toNat 20 a.toNat 14 k.toNat 10 s.toNat 8 t.toNat 4
  | .hint h => word1 0xF8000000 h.toNat 0
  | .launch _ _ => 0
  | .inject _ _ => 0
  | .drain _ _ => 0
  | .leaseGrant _ _ => 0
  | .leaseRevoke _ _ => 0
  | .leaseShardingEntry _ _ => 0
  | .leasePeer _ _ => 0
  | .cancel _ _ => 0
  | .queryLaunchState _ _ => 0
  | .queryVifWeirs _ _ => 0
  | .queryAttestation _ => 0
  | .leaseResident _ _ _ => 0
  | .injectRoomAccept _ => 0
  | .admission _ _ => 0
  | .matchDecision _ _ _ => 0
  | .tileArrival _ => 0
  | .backwaterReturn _ _ _ => 0
  | .transitEntry _ => 0
  | .reactionPickup _ => 0
  | .overlayLoadComplete _ _ _ => 0
  | .reactionCommit _ _ => 0
  | .reactionAbort _ _ => 0
  | .cycleLimit _ _ => 0
  | .slackWave _ _ => 0
  | .drainWrite _ _ => 0
  | .operationComplete _ => 0
  | .remoteStepApply _ => 0
  | .mmaStepComplete _ => 0
  | .eventTaken _ => 0
  | .storeCompletion _ => 0
  | .wmemTimeout _ _ => 0
  | .pauseExpiry _ => 0
  | .wfeTimeout _ => 0
  | .barrierRelease _ => 0
  | .barTimeout _ => 0
  | .xselTimeout _ => 0
  | .xmitArrival _ => 0
  | .mailboxDelivery _ => 0
  | .tlbFill _ => 0
  | .shootdownReceive _ => 0
  | .remoteRequest _ _ _ _ => 0
  | .interruptPreempt _ => 0
  | .interruptSwitch _ => 0
  | .interruptWind _ => 0
  | .interruptWake _ => 0
  | .eviction _ _ => 0
  | .restore _ _ => 0
  | .weirRefill _ => 0
  | .clockStepDown => 0
  | .clockStepUp => 0
  | .escrowLost _ _ => 0
  | .linkFailure _ => 0
  | .routerFailure _ => 0
  | .partitionSelftestDone _ _ => 0
  | .tileVifSwitch _ _ _ => 0
  | .vifCreate _ => 0
  | .vifDestroy _ => 0
  | .powerOn => 0
  | .verify _ => 0
  | .bringUp _ => 0
  | .priminReset => 0
  | .unassignedWord w => w.toNat
  | .powerLoss => 0
  | .coreRestore _ => 0

/-- The word of an instruction. -/
def Instr.encode (i : Instr) : BitVec 32 := BitVec.ofNat 32 i.encodeNat

/-- Minor map of major 0x01 (Table 4.14). -/
def decodeOp (w : Nat) : Instr :=
  match w / 2 ^ 6 % 2 ^ 5 with
  | 0 => .add (fieldAt w 21 5) (fieldAt w 16 5) (fieldAt w 11 5)
  | 1 => .sub (fieldAt w 21 5) (fieldAt w 16 5) (fieldAt w 11 5)
  | 2 => .and (fieldAt w 21 5) (fieldAt w 16 5) (fieldAt w 11 5)
  | 3 => .or (fieldAt w 21 5) (fieldAt w 16 5) (fieldAt w 11 5)
  | 4 => .xor (fieldAt w 21 5) (fieldAt w 16 5) (fieldAt w 11 5)
  | 5 => .sll (fieldAt w 21 5) (fieldAt w 16 5) (fieldAt w 11 5)
  | 6 => .srl (fieldAt w 21 5) (fieldAt w 16 5) (fieldAt w 11 5)
  | 7 => .sra (fieldAt w 21 5) (fieldAt w 16 5) (fieldAt w 11 5)
  | 8 => .sllImm (fieldAt w 21 5) (fieldAt w 16 5) (fieldAt w 0 6)
  | 9 => .srlImm (fieldAt w 21 5) (fieldAt w 16 5) (fieldAt w 0 6)
  | 10 => .sraImm (fieldAt w 21 5) (fieldAt w 16 5) (fieldAt w 0 6)
  | 11 => .mul (fieldAt w 21 5) (fieldAt w 16 5) (fieldAt w 11 5)
  | 12 => .mulh (fieldAt w 21 5) (fieldAt w 16 5) (fieldAt w 11 5)
  | 13 => .mulhn (fieldAt w 21 5) (fieldAt w 16 5) (fieldAt w 11 5)
  | 14 => .div (fieldAt w 21 5) (fieldAt w 16 5) (fieldAt w 11 5)
  | 15 => .divn (fieldAt w 21 5) (fieldAt w 16 5) (fieldAt w 11 5)
  | 16 => .rem (fieldAt w 21 5) (fieldAt w 16 5) (fieldAt w 11 5)
  | 17 => .remn (fieldAt w 21 5) (fieldAt w 16 5) (fieldAt w 11 5)
  | 18 => .slt (fieldAt w 21 5) (fieldAt w 16 5) (fieldAt w 11 5)
  | 19 => .sltn (fieldAt w 21 5) (fieldAt w 16 5) (fieldAt w 11 5)
  | 20 => .min (fieldAt w 21 5) (fieldAt w 16 5) (fieldAt w 11 5)
  | 21 => .max (fieldAt w 21 5) (fieldAt w 16 5) (fieldAt w 11 5)
  | 22 => .minn (fieldAt w 21 5) (fieldAt w 16 5) (fieldAt w 11 5)
  | 23 => .maxn (fieldAt w 21 5) (fieldAt w 16 5) (fieldAt w 11 5)
  | _ => .unassignedWord (BitVec.ofNat 32 w)

/-- Minor map of major 0x1D (Table 4.15). -/
def decodeAmo (w : Nat) : Instr :=
  match w / 2 ^ 6 % 2 ^ 3 with
  | 0 => .amoAdd (fieldAt w 20 5) (fieldAt w 16 4) (fieldAt w 11 5) (fieldAt w 9 2) (fieldAt w 3 3) (fieldAt w 2 1)
  | 1 => .amoSwap (fieldAt w 20 5) (fieldAt w 16 4) (fieldAt w 11 5) (fieldAt w 9 2) (fieldAt w 3 3) (fieldAt w 2 1)
  | 2 => .amoCas (fieldAt w 20 5) (fieldAt w 16 4) (fieldAt w 11 5) (fieldAt w 9 2) (fieldAt w 3 3) (fieldAt w 2 1)
  | 3 => .amoMax (fieldAt w 20 5) (fieldAt w 16 4) (fieldAt w 11 5) (fieldAt w 9 2) (fieldAt w 3 3) (fieldAt w 2 1) (fieldAt w 1 1)
  | 4 => .amoMin (fieldAt w 20 5) (fieldAt w 16 4) (fieldAt w 11 5) (fieldAt w 9 2) (fieldAt w 3 3) (fieldAt w 2 1) (fieldAt w 1 1)
  | 5 => .amoAnd (fieldAt w 20 5) (fieldAt w 16 4) (fieldAt w 11 5) (fieldAt w 9 2) (fieldAt w 3 3) (fieldAt w 2 1)
  | 6 => .amoOr (fieldAt w 20 5) (fieldAt w 16 4) (fieldAt w 11 5) (fieldAt w 9 2) (fieldAt w 3 3) (fieldAt w 2 1)
  | _ => .unassignedWord (BitVec.ofNat 32 w)

/-- Minor map of major 0x28 (Table 4.17). -/
def decodeVun (w : Nat) : Instr :=
  match w / 2 ^ 8 % 2 ^ 6 with
  | 0 => .vsqrt (fieldAt w 20 6) (fieldAt w 14 6) (fieldAt w 4 4) (fieldAt w 1 3) (fieldAt w 0 1)
  | 1 => .vrcp (fieldAt w 20 6) (fieldAt w 14 6) (fieldAt w 4 4) (fieldAt w 1 3) (fieldAt w 0 1)
  | 2 => .vrsqrt (fieldAt w 20 6) (fieldAt w 14 6) (fieldAt w 4 4) (fieldAt w 1 3) (fieldAt w 0 1)
  | 3 => .vexp (fieldAt w 20 6) (fieldAt w 14 6) (fieldAt w 4 4) (fieldAt w 1 3) (fieldAt w 0 1)
  | 4 => .vlog (fieldAt w 20 6) (fieldAt w 14 6) (fieldAt w 4 4) (fieldAt w 1 3) (fieldAt w 0 1)
  | 5 => .vsin (fieldAt w 20 6) (fieldAt w 14 6) (fieldAt w 4 4) (fieldAt w 1 3) (fieldAt w 0 1)
  | 6 => .vcos (fieldAt w 20 6) (fieldAt w 14 6) (fieldAt w 4 4) (fieldAt w 1 3) (fieldAt w 0 1)
  | 7 => .vtanh (fieldAt w 20 6) (fieldAt w 14 6) (fieldAt w 4 4) (fieldAt w 1 3) (fieldAt w 0 1)
  | 8 => .vneg (fieldAt w 20 6) (fieldAt w 14 6) (fieldAt w 4 4) (fieldAt w 0 1)
  | 9 => .vabs (fieldAt w 20 6) (fieldAt w 14 6) (fieldAt w 4 4) (fieldAt w 0 1)
  | 10 => .vmov (fieldAt w 20 6) (fieldAt w 14 6) (fieldAt w 4 4) (fieldAt w 0 1)
  | _ => .unassignedWord (BitVec.ofNat 32 w)

/-- Minor map of major 0x2C (Table 4.17). -/
def decodeVred (w : Nat) : Instr :=
  match w / 2 ^ 8 % 2 ^ 6 with
  | 0 => .vredAdd (fieldAt w 20 6) (fieldAt w 14 6) (fieldAt w 4 4) (fieldAt w 1 3) (fieldAt w 0 1)
  | 1 => .vredMin (fieldAt w 20 6) (fieldAt w 14 6) (fieldAt w 4 4) (fieldAt w 0 1)
  | 2 => .vredMax (fieldAt w 20 6) (fieldAt w 14 6) (fieldAt w 4 4) (fieldAt w 0 1)
  | _ => .unassignedWord (BitVec.ofNat 32 w)

/-- Minor map of major 0x2F (Table 4.16). -/
def decodeVlog (w : Nat) : Instr :=
  match w / 2 ^ 1 % 2 ^ 3 with
  | 0 => .vand (fieldAt w 20 6) (fieldAt w 14 6) (fieldAt w 8 6) (fieldAt w 4 4) (fieldAt w 0 1)
  | 1 => .vor (fieldAt w 20 6) (fieldAt w 14 6) (fieldAt w 8 6) (fieldAt w 4 4) (fieldAt w 0 1)
  | 2 => .vxor (fieldAt w 20 6) (fieldAt w 14 6) (fieldAt w 8 6) (fieldAt w 4 4) (fieldAt w 0 1)
  | 3 => .vsll (fieldAt w 20 6) (fieldAt w 14 6) (fieldAt w 8 6) (fieldAt w 4 4) (fieldAt w 0 1)
  | 4 => .vsrl (fieldAt w 20 6) (fieldAt w 14 6) (fieldAt w 8 6) (fieldAt w 4 4) (fieldAt w 0 1)
  | 5 => .vsra (fieldAt w 20 6) (fieldAt w 14 6) (fieldAt w 8 6) (fieldAt w 4 4) (fieldAt w 0 1)
  | 6 => .vcopysign (fieldAt w 20 6) (fieldAt w 14 6) (fieldAt w 8 6) (fieldAt w 4 4) (fieldAt w 0 1)
  | _ => .unassignedWord (BitVec.ofNat 32 w)

/-- Minor map of major 0x30 (Table 4.17). -/
def decodeJet (w : Nat) : Instr :=
  match w / 2 ^ 8 % 2 ^ 3 with
  | 0 => .jseed (fieldAt w 20 6) (fieldAt w 14 6) (fieldAt w 4 4)
  | 1 => .jext (fieldAt w 20 6) (fieldAt w 14 6) (fieldAt w 11 3) (fieldAt w 4 4) (fieldAt w 1 3)
  | 2 => .jcoef (fieldAt w 20 6) (fieldAt w 14 6) (fieldAt w 11 3) (fieldAt w 4 4)
  | 3 => .jset (fieldAt w 20 6) (fieldAt w 14 6) (fieldAt w 11 3) (fieldAt w 4 4)
  | 4 => .jshift (fieldAt w 20 6) (fieldAt w 14 6) (fieldAt w 4 4) (fieldAt w 1 3)
  | 5 => .jint (fieldAt w 20 6) (fieldAt w 14 6) (fieldAt w 4 4) (fieldAt w 1 3)
  | _ => .unassignedWord (BitVec.ofNat 32 w)

/-- Minor map of major 0x31 (Table 4.18). -/
def decodeMat (w : Nat) : Instr :=
  match w / 2 ^ 8 % 2 ^ 4 with
  | 0 => .mma (fieldAt w 21 5) (fieldAt w 16 5) (fieldAt w 12 4) (fieldAt w 6 1) (fieldAt w 4 2) (fieldAt w 3 1) (fieldAt w 0 3)
  | 1 => .mzero (fieldAt w 12 4) (fieldAt w 6 2)
  | 2 => .mrd (fieldAt w 21 5) (fieldAt w 12 4) (fieldAt w 6 2) (fieldAt w 0 6)
  | 3 => .mwr (fieldAt w 21 5) (fieldAt w 12 4) (fieldAt w 6 2) (fieldAt w 0 6)
  | 4 => .mld (fieldAt w 21 5) (fieldAt w 16 5) (fieldAt w 12 4) (fieldAt w 6 2) (fieldAt w 4 2) (fieldAt w 0 4)
  | 5 => .mst (fieldAt w 21 5) (fieldAt w 16 5) (fieldAt w 12 4) (fieldAt w 6 2) (fieldAt w 4 2) (fieldAt w 0 4)
  | 6 => .mxsend (fieldAt w 21 5) (fieldAt w 16 5) (fieldAt w 0 4)
  | 7 => .mstat (fieldAt w 21 5) (fieldAt w 0 1)
  | _ => .unassignedWord (BitVec.ofNat 32 w)

/-- Minor map of major 0x32 (Table 4.18). -/
def decodeEng (w : Nat) : Instr :=
  match w / 2 ^ 8 % 2 ^ 4 with
  | 0 => .ecopy (fieldAt w 21 5) (fieldAt w 16 5)
  | 1 => .eget (fieldAt w 21 5) (fieldAt w 16 5)
  | 2 => .eput (fieldAt w 21 5) (fieldAt w 16 5)
  | 3 => .egather (fieldAt w 21 5) (fieldAt w 16 5)
  | 4 => .escatter (fieldAt w 21 5) (fieldAt w 16 5)
  | 5 => .eremap (fieldAt w 21 5) (fieldAt w 16 5)
  | 6 => .epool (fieldAt w 21 5) (fieldAt w 16 5)
  | 7 => .emerge (fieldAt w 21 5) (fieldAt w 16 5)
  | 8 => .esend (fieldAt w 21 5) (fieldAt w 16 5)
  | _ => .unassignedWord (BitVec.ofNat 32 w)

/-- Minor map of major 0x33 (Table 4.19). -/
def decodeTime (w : Nat) : Instr :=
  match w / 2 ^ 10 % 2 ^ 6 with
  | 0 => .tread (fieldAt w 21 5) (fieldAt w 16 3)
  | 1 => .twait (fieldAt w 21 3) (fieldAt w 16 5)
  | 2 => .evret
  | 3 => .tissue (fieldAt w 21 5) (fieldAt w 16 3)
  | _ => .unassignedWord (BitVec.ofNat 32 w)

/-- Minor map of major 0x34 (Table 4.19). -/
def decodeStream (w : Nat) : Instr :=
  match w / 2 ^ 10 % 2 ^ 6 with
  | 0 => .qopen (fieldAt w 21 3) (fieldAt w 6 4) (fieldAt w 2 4)
  | 1 => .qadv (fieldAt w 21 3)
  | 2 => .qend (fieldAt w 21 5) (fieldAt w 16 3)
  | 3 => .qclose (fieldAt w 21 3)
  | _ => .unassignedWord (BitVec.ofNat 32 w)

/-- Minor map of major 0x35 (R79). -/
def decodeShard (w : Nat) : Instr :=
  match w / 2 ^ 9 % 2 ^ 2 with
  | 0 => .ldt (fieldAt w 20 5) (fieldAt w 16 4) (fieldAt w 11 5) (fieldAt w 5 4)
  | 1 => .vldt (fieldAt w 20 6) (fieldAt w 16 4) (fieldAt w 11 5) (fieldAt w 5 4)
  | _ => .unassignedWord (BitVec.ofNat 32 w)

/-- Minor map of major 0x36 (Table 4.19). -/
def decodeReact (w : Nat) : Instr :=
  match w / 2 ^ 10 % 2 ^ 6 with
  | 0 => .rget (fieldAt w 21 4) (fieldAt w 0 2)
  | 1 => .rkey (fieldAt w 21 5) (fieldAt w 2 3) (fieldAt w 0 2)
  | 2 => .talloc (fieldAt w 21 4) (fieldAt w 0 10)
  | 3 => .emit (fieldAt w 16 4)
  | 4 => .commit
  | 5 => .abort
  | 6 => .susp (fieldAt w 21 3) (fieldAt w 16 5)
  | 7 => .yield
  | 8 => .part (fieldAt w 21 5) (fieldAt w 16 5) (fieldAt w 0 2)
  | 9 => .crewid (fieldAt w 21 5)
  | 10 => .crewrel
  | 11 => .wmem (fieldAt w 21 5) (fieldAt w 16 5) (fieldAt w 6 4) (fieldAt w 0 2)
  | 12 => .pause
  | _ => .unassignedWord (BitVec.ofNat 32 w)

/-- Minor map of major 0x37 (Table 4.19). -/
def decodeSync (w : Nat) : Instr :=
  match w / 2 ^ 10 % 2 ^ 6 with
  | 0 => .barRow
  | 1 => .barCol
  | 2 => .barSg
  | 3 => .xmit (fieldAt w 16 5) (fieldAt w 6 4)
  | 4 => .xsel (fieldAt w 21 5) (fieldAt w 16 5)
  | 5 => .ipf (fieldAt w 16 5) (fieldAt w 0 2)
  | 6 => .ipin (fieldAt w 16 5) (fieldAt w 0 2)
  | 7 => .iunpin (fieldAt w 16 5) (fieldAt w 0 2)
  | 8 => .psplit (fieldAt w 16 5)
  | _ => .unassignedWord (BitVec.ofNat 32 w)

/-- Minor map of major 0x38 (Table 4.19). -/
def decodeCap (w : Nat) : Instr :=
  match w / 2 ^ 10 % 2 ^ 6 with
  | 0 => .kbound (fieldAt w 21 4) (fieldAt w 16 5) (fieldAt w 6 4)
  | 1 => .kperm (fieldAt w 21 4) (fieldAt w 16 5) (fieldAt w 6 4)
  | 2 => .kaddr (fieldAt w 21 4) (fieldAt w 16 5) (fieldAt w 6 4)
  | 3 => .kformat (fieldAt w 21 4) (fieldAt w 16 5) (fieldAt w 6 4)
  | 4 => .kbase (fieldAt w 21 4) (fieldAt w 6 4)
  | 5 => .kseal (fieldAt w 21 4) (fieldAt w 6 4) (fieldAt w 2 4)
  | 6 => .kunseal (fieldAt w 21 4) (fieldAt w 6 4) (fieldAt w 2 4)
  | 7 => .klease (fieldAt w 21 4) (fieldAt w 16 5) (fieldAt w 6 4)
  | 8 => .kgaddr (fieldAt w 21 5) (fieldAt w 6 4)
  | 9 => .kglen (fieldAt w 21 5) (fieldAt w 6 4)
  | 10 => .kgbase (fieldAt w 21 5) (fieldAt w 6 4)
  | 11 => .kgperm (fieldAt w 21 5) (fieldAt w 6 4)
  | 12 => .kgspace (fieldAt w 21 5) (fieldAt w 6 4)
  | 13 => .kgtag (fieldAt w 21 5) (fieldAt w 6 4)
  | _ => .unassignedWord (BitVec.ofNat 32 w)

/-- Minor map of major 0x39 (Table 4.19). -/
def decodeSys (w : Nat) : Instr :=
  match w / 2 ^ 10 % 2 ^ 6 with
  | 0 => .ecall (fieldAt w 0 10)
  | 1 => .tret
  | 2 => .srr (fieldAt w 21 5) (fieldAt w 0 10)
  | 3 => .srw (fieldAt w 16 5) (fieldAt w 0 10)
  | 4 => .fence (fieldAt w 21 5) (fieldAt w 7 3) (fieldAt w 4 3) (fieldAt w 1 3)
  | 5 => .tlbw (fieldAt w 21 5) (fieldAt w 16 5)
  | 6 => .tlbflush (fieldAt w 16 5)
  | 7 => .mboxSend (fieldAt w 21 5) (fieldAt w 16 5)
  | 8 => .sdown (fieldAt w 16 5)
  | 9 => .wfe
  | 10 => .halt
  | 11 => .jfl (fieldAt w 21 5) (fieldAt w 3 1) (fieldAt w 0 3)
  | _ => .unassignedWord (BitVec.ofNat 32 w)

/-- The instruction that the major and the minor of a word name, before its reserved codes are looked at (Table 4.12). -/
def candidate (w : Nat) : Instr :=
  match w / 2 ^ 26 with
  | 1 => decodeOp w
  | 2 => .addi (fieldAt w 21 5) (fieldAt w 16 5) (fieldAt w 0 16)
  | 3 => .lih (fieldAt w 21 5) (fieldAt w 16 5) (fieldAt w 0 16)
  | 4 => .andi (fieldAt w 21 5) (fieldAt w 16 5) (fieldAt w 0 16)
  | 5 => .ori (fieldAt w 21 5) (fieldAt w 16 5) (fieldAt w 0 16)
  | 6 => .xori (fieldAt w 21 5) (fieldAt w 16 5) (fieldAt w 0 16)
  | 8 => .beq (fieldAt w 21 5) (fieldAt w 16 5) (fieldAt w 0 16)
  | 9 => .bne (fieldAt w 21 5) (fieldAt w 16 5) (fieldAt w 0 16)
  | 10 => .blt (fieldAt w 21 5) (fieldAt w 16 5) (fieldAt w 0 16)
  | 11 => .bge (fieldAt w 21 5) (fieldAt w 16 5) (fieldAt w 0 16)
  | 12 => .bltn (fieldAt w 21 5) (fieldAt w 16 5) (fieldAt w 0 16)
  | 13 => .bgen (fieldAt w 21 5) (fieldAt w 16 5) (fieldAt w 0 16)
  | 14 => .jal (fieldAt w 21 5) (fieldAt w 0 21)
  | 15 => .jalr (fieldAt w 21 5) (fieldAt w 16 5) (fieldAt w 0 16)
  | 16 => .ldb (fieldAt w 20 5) (fieldAt w 16 4) (fieldAt w 11 5) (fieldAt w 9 2) (fieldAt w 0 9)
  | 17 => .ldbn (fieldAt w 20 5) (fieldAt w 16 4) (fieldAt w 11 5) (fieldAt w 9 2) (fieldAt w 0 9)
  | 18 => .ldh (fieldAt w 20 5) (fieldAt w 16 4) (fieldAt w 11 5) (fieldAt w 9 2) (fieldAt w 0 9)
  | 19 => .ldhn (fieldAt w 20 5) (fieldAt w 16 4) (fieldAt w 11 5) (fieldAt w 9 2) (fieldAt w 0 9)
  | 20 => .ldw (fieldAt w 20 5) (fieldAt w 16 4) (fieldAt w 11 5) (fieldAt w 9 2) (fieldAt w 0 9)
  | 21 => .ldwn (fieldAt w 20 5) (fieldAt w 16 4) (fieldAt w 11 5) (fieldAt w 9 2) (fieldAt w 0 9)
  | 22 => .ldd (fieldAt w 20 5) (fieldAt w 16 4) (fieldAt w 11 5) (fieldAt w 9 2) (fieldAt w 0 9)
  | 23 => .ldk (fieldAt w 20 4) (fieldAt w 16 4) (fieldAt w 11 5) (fieldAt w 9 2) (fieldAt w 0 9)
  | 24 => .stb (fieldAt w 20 5) (fieldAt w 16 4) (fieldAt w 11 5) (fieldAt w 9 2) (fieldAt w 0 9)
  | 25 => .sth (fieldAt w 20 5) (fieldAt w 16 4) (fieldAt w 11 5) (fieldAt w 9 2) (fieldAt w 0 9)
  | 26 => .stw (fieldAt w 20 5) (fieldAt w 16 4) (fieldAt w 11 5) (fieldAt w 9 2) (fieldAt w 0 9)
  | 27 => .std (fieldAt w 20 5) (fieldAt w 16 4) (fieldAt w 11 5) (fieldAt w 9 2) (fieldAt w 0 9)
  | 28 => .stk (fieldAt w 20 4) (fieldAt w 16 4) (fieldAt w 11 5) (fieldAt w 9 2) (fieldAt w 0 9)
  | 29 => decodeAmo w
  | 30 => .vld (fieldAt w 20 6) (fieldAt w 16 4) (fieldAt w 11 5) (fieldAt w 9 2) (fieldAt w 5 4) (fieldAt w 0 5)
  | 31 => .vst (fieldAt w 20 6) (fieldAt w 16 4) (fieldAt w 11 5) (fieldAt w 9 2) (fieldAt w 5 4) (fieldAt w 0 5)
  | 32 => .vadd (fieldAt w 20 6) (fieldAt w 14 6) (fieldAt w 8 6) (fieldAt w 4 4) (fieldAt w 1 3) (fieldAt w 0 1)
  | 33 => .vsub (fieldAt w 20 6) (fieldAt w 14 6) (fieldAt w 8 6) (fieldAt w 4 4) (fieldAt w 1 3) (fieldAt w 0 1)
  | 34 => .vmul (fieldAt w 20 6) (fieldAt w 14 6) (fieldAt w 8 6) (fieldAt w 4 4) (fieldAt w 1 3) (fieldAt w 0 1)
  | 35 => .vdiv (fieldAt w 20 6) (fieldAt w 14 6) (fieldAt w 8 6) (fieldAt w 4 4) (fieldAt w 1 3) (fieldAt w 0 1)
  | 36 => .vmin (fieldAt w 20 6) (fieldAt w 14 6) (fieldAt w 8 6) (fieldAt w 4 4) (fieldAt w 0 1)
  | 37 => .vmax (fieldAt w 20 6) (fieldAt w 14 6) (fieldAt w 8 6) (fieldAt w 4 4) (fieldAt w 0 1)
  | 38 => .vfma (fieldAt w 20 6) (fieldAt w 14 6) (fieldAt w 8 6) (fieldAt w 4 4) (fieldAt w 1 3) (fieldAt w 0 1)
  | 39 => .vfms (fieldAt w 20 6) (fieldAt w 14 6) (fieldAt w 8 6) (fieldAt w 4 4) (fieldAt w 1 3) (fieldAt w 0 1)
  | 40 => decodeVun w
  | 41 => .vcmp (fieldAt w 20 6) (fieldAt w 14 6) (fieldAt w 8 6) (fieldAt w 4 4) (fieldAt w 1 3) (fieldAt w 0 1)
  | 42 => .vsel (fieldAt w 20 6) (fieldAt w 14 6) (fieldAt w 8 6) (fieldAt w 4 4) (fieldAt w 0 1)
  | 43 => .vperm (fieldAt w 20 6) (fieldAt w 14 6) (fieldAt w 8 6) (fieldAt w 4 4) (fieldAt w 0 1)
  | 44 => decodeVred w
  | 45 => .vcvt (fieldAt w 20 6) (fieldAt w 14 6) (fieldAt w 12 1) (fieldAt w 8 4) (fieldAt w 4 4) (fieldAt w 1 3) (fieldAt w 0 1)
  | 46 => .vcvtAmax (fieldAt w 20 6) (fieldAt w 14 6) (fieldAt w 12 2) (fieldAt w 8 4) (fieldAt w 4 4) (fieldAt w 1 3) (fieldAt w 0 1)
  | 47 => decodeVlog w
  | 48 => decodeJet w
  | 49 => decodeMat w
  | 50 => decodeEng w
  | 51 => decodeTime w
  | 52 => decodeStream w
  | 53 => decodeShard w
  | 54 => decodeReact w
  | 55 => decodeSync w
  | 56 => decodeCap w
  | 57 => decodeSys w
  | 58 => .vldx (fieldAt w 20 6) (fieldAt w 14 6) (fieldAt w 10 4) (fieldAt w 8 2) (fieldAt w 4 4)
  | 59 => .vstx (fieldAt w 20 6) (fieldAt w 14 6) (fieldAt w 10 4) (fieldAt w 8 2) (fieldAt w 4 4)
  | 62 => .hint (fieldAt w 0 26)
  | _ => .unassignedWord (BitVec.ofNat 32 w)

/-- The instruction of a word. The three `mbox` operations share one word, and OP lies in a register (R337): the word
decodes to `mboxSend`, and every meaning of the three acts by OP (log 30). -/
def decode (w : BitVec 32) : Instr :=
  let c := candidate w.toNat
  if c.wellFormed && c.encode == w then c else .unassignedWord w

/-- Why bytes hold no instruction. -/
inductive DecodeError where
  /-- fewer than four bytes are left -/
  | truncated (left : Nat)
  deriving DecidableEq, Repr

/-- Four bytes as a word, the first the lowest (R71). -/
def wordOfBytes (a b c d : Byte) : BitVec 32 := d ++ c ++ b ++ a

/-- The instruction at the head of a list of bytes, with the rest. -/
def decodeBytes : List Byte → Except DecodeError (Instr × List Byte)
  | a :: b :: c :: d :: rest => .ok (decode (wordOfBytes a b c d), rest)
  | l => .error (.truncated l.length)

/-- The bytes of an instruction in memory (R71). -/
def Instr.bytes (i : Instr) : List Byte :=
  [i.encode.extractLsb' 0 8, i.encode.extractLsb' 8 8, i.encode.extractLsb' 16 8, i.encode.extractLsb' 24 8]

/-- The instruction that the decoder reads from a word numbered as the opcode table numbers it. -/
def decodeTableWord (_nbits w : Nat) : Option Instr :=
  let v := BitVec.ofNat 32 w
  match decodeBytes [v.extractLsb' 0 8, v.extractLsb' 8 8, v.extractLsb' 16 8, v.extractLsb' 24 8] with
  | .ok (i, _) => some i
  | .error _ => none

end Sys2Proof
end

