-- ==== Sys2Proof/Machine/Sha.lean ====
section
/-! DEFINITION. SHA-256, the delta die's hash (FIPS 180-4, which R316 and R318 name), over lists of bytes. Its constants are
computed as that standard defines them: fractions of roots of the first primes. -/

namespace Sys2Proof.Machine

/-- The first 64 primes. -/
def hashPrimes : List Nat :=
  (List.range 312).filter fun n => decide (2 ≤ n) && ((List.range n).drop 2).all fun d => n % d != 0

/-- The first 32 bits of the fraction of the `k`th root of `n`, the root being below 8: its bits are tried from the top,
and those of the whole part dropped. -/
def rootFraction (k n : Nat) : Nat :=
  let bit (r b : Nat) : Nat := if (r + 2 ^ b) ^ k ≤ n * 2 ^ (32 * k) then r + 2 ^ b else r
  (List.range 37).reverse.foldl bit 0 % 2 ^ 32

/-- The constants of the 64 rounds: cube roots. -/
def hashSalts : List Nat := hashPrimes.map (rootFraction 3)

/-- The hash of nothing yet: square roots of the first eight primes. -/
def hashSeed : List Nat := (hashPrimes.take 8).map (rootFraction 2)

/-- The exclusive or of a 32-bit word turned right by each of `turns` and, where `shift` is not zero, shifted right by it. -/
def mixBits (turns : List Nat) (shift x : Nat) : Nat :=
  let both := x * (2 ^ 32 + 1)
  turns.foldl (fun y n => y ^^^ both / 2 ^ n % 2 ^ 32) (if shift = 0 then 0 else x / 2 ^ shift)

/-- What a block is hashed with: the eight working words, and the next sixteen words of the message schedule. -/
structure HashRun where
  work : List Nat
  next : List Nat

/-- One round: the first word of the schedule is used up and the one sixteen places on is appended. -/
def HashRun.round (r : HashRun) (salt : Nat) : HashRun :=
  let v (i : Nat) : Nat := r.work.getD i 0
  let w (i : Nat) : Nat := r.next.getD i 0
  let choice := v 6 ^^^ (v 4 &&& (v 5 ^^^ v 6))
  let majority := (v 0 &&& v 1) ||| (v 2 &&& (v 0 ||| v 1))
  let feed := v 7 + mixBits [6, 11, 25] 0 (v 4) + choice + salt + w 0
  let head := feed + mixBits [2, 13, 22] 0 (v 0) + majority
  let coming := w 0 + mixBits [7, 18] 3 (w 1) + w 9 + mixBits [17, 19] 10 (w 14)
  { work := head % 2 ^ 32 :: (r.work.take 7).set 3 ((v 3 + feed) % 2 ^ 32)
    next := r.next.drop 1 ++ [coming % 2 ^ 32] }

/-- Bytes as a big-endian number. -/
def bigEndian (l : List Byte) : Nat := l.foldl (fun n b => n * 256 + b.toNat) 0

/-- The hash after one more block of 64 bytes. -/
def hashBlock (h : List Nat) (block : List Byte) : List Nat :=
  let start : HashRun := { work := h, next := (chunks 4 16 block).map bigEndian }
  List.zipWith (fun a b => (a + b) % 2 ^ 32) h (hashSalts.foldl HashRun.round start).work

/-- A message with its end marked and its length in bits in the last eight bytes of a block. -/
def hashPadded (m : List Byte) : List Byte :=
  m ++ 0x80 :: List.replicate ((119 - m.length % 64) % 64) 0 ++ (bytesOfNat 8 (8 * m.length)).reverse

/-- The digest, 32 bytes. -/
def sha256 (m : List Byte) : List Byte :=
  let p := hashPadded m
  ((chunks 64 (p.length / 64 + 1) p).foldl hashBlock hashSeed).flatMap fun w => (bytesOfNat 4 w).reverse

end Sys2Proof.Machine
end

