-- ==== Sys2Proof/Machine/Ops.lean ====
section
/-! DEFINITION. The named operations over registers, cores, reactions, launches and memory places. -/

namespace Sys2Proof.Machine

/-! ## Lists used as tables -/

/-- The first entry that `p` accepts is replaced by `a`; where there is none, `a` goes to the end. -/
def upsert {α : Type} (p : α → Bool) (a : α) : List α → List α
  | [] => [a]
  | b :: t => if p b then a :: t else b :: upsert p a t

namespace State

/-- A core; one that has not been written is as it leaves reset. -/
def core (s : State) (c : CoreId) : Core := ((s.cores.find? (·.1 == c)).map (·.2)).getD Core.init

/-- A core, replaced. -/
def setCore (s : State) (c : CoreId) (k : Core) : State := { s with cores := upsert (·.1 == c) (c, k) s.cores }

/-- The core whose instruction runs. -/
def me (s : State) : Core := s.core s.cur

/-- Its context. -/
def ctx (s : State) : Ctx := s.me.ctx

/-- The core whose instruction runs, replaced. -/
def setMe (s : State) (k : Core) : State := s.setCore s.cur k

/-- Its context, replaced. -/
def setCtx (s : State) (c : Ctx) : State := s.setMe { s.me with ctx := c }

/-- The unit of an SG; one that has not been used is empty. -/
def unit (s : State) (g : Nat) : CUnit :=
  (s.units.find? (·.sgn == g)).getD
    { sgn := g, tiles := [], nextStamp := 0, reactions := [], gens := [], launches := [], order := 0, reserve := []
      last := none }

/-- A unit, replaced. -/
def setUnit (s : State) (u : CUnit) : State := { s with units := upsert (·.sgn == u.sgn) u s.units }

/-- A launch of a VIF. -/
def launch (s : State) (vif lid : Nat) : Option Launch := s.launches.find? fun l => l.vif == vif && l.lid == lid

/-- A launch, replaced or added. -/
def setLaunch (s : State) (l : Launch) : State :=
  { s with launches := upsert (fun k => k.vif == l.vif && k.lid == l.lid) l s.launches }

/-- A VIF. -/
def vif (s : State) (v : Nat) : Option Vif := s.vifs.find? (·.p.id == v)

/-- A VIF, replaced or added. -/
def setVif (s : State) (v : Vif) : State := { s with vifs := upsert (·.p.id == v.p.id) v s.vifs }

/-- A reaction of an SG by its record index. -/
def reaction (s : State) (g x : Nat) : Option Reaction := (s.unit g).reactions.find? (·.x == x)

/-- A reaction, replaced. -/
def setReaction (s : State) (g : Nat) (r : Reaction) : State :=
  let u := s.unit g
  s.setUnit { u with reactions := upsert (·.x == r.x) r u.reactions }

/-- The reaction that the current core runs. -/
def myReaction (s : State) : Option Reaction := s.me.rx.bind (s.reaction s.cur.sgn)

/-- Its launch. -/
def myLaunch (s : State) : Option Launch := s.myReaction.bind fun r => s.launch r.vif r.lid

/-- The VIF that the current core runs for: that of its reaction, or else the owner of its pool (R291). -/
def myVif (s : State) : Option Nat := match s.myReaction with
  | some r => some r.vif
  | none => s.me.owner

end State

/-! ## Cores and places -/

/-- Group, tile and lane of a core index (R9). -/
def groupOf (i : Nat) : Nat := i / 64
def tileOf (i : Nat) : Nat := i / 4 % 16
def laneOf (i : Nat) : Nat := i % 4

/-- Mesh coordinates (Table 1.2). -/
def rowOf (i : Nat) : Nat := 8 * (groupOf i / 2) + 2 * (tileOf i / 4) + laneOf i / 2
def colOf (i : Nat) : Nat := 8 * (groupOf i % 2) + 2 * (tileOf i % 4) + laneOf i % 2

/-- The tile number of a core within its SG, as a LAUNCH's mask counts it (Table 13.13). -/
def tileIndex (i : Nat) : Nat := i / 4

/-- Where pool byte `off` of a core stands. -/
def poolAddr (c : CoreId) (off : Nat) : Nat := (c.sgn * 257 + c.idx) * 2 ^ 17 + off
/-- Where a physical HBM byte stands. -/
def hbmAddr (pa : Nat) : Nat := 2 ^ 64 + pa
/-- Where a physical capacity-tier byte stands. -/
def captAddr (pa : Nat) : Nat := 2 * 2 ^ 64 + pa
/-- Where a byte of a VIF's pinned record or save area stands (R267, R332; log 15). -/
def pinnedAddr (vif va : Nat) : Nat := 3 * 2 ^ 64 + vif * 2 ^ 56 + va
/-- Where a byte of a VIF's header window stands, for the records of one SG (R267). -/
def windowAddr (vif sgn va : Nat) : Nat := 32 * 2 ^ 64 + (vif * 32 + sgn) * 2 ^ 56 + va
/-- Where a byte of a tile's overlay slot stands (R13). -/
def slotAddr (sgn tile slot off : Nat) : Nat := 4 * 2 ^ 64 + ((sgn * 64 + tile) * 2 + slot) * 2 ^ 17 + off
/-- Where a byte of a core's handler memory stands (R320). -/
def handlerAddr (c : CoreId) (off : Nat) : Nat := 5 * 2 ^ 64 + (c.sgn * 257 + c.idx) * 2 ^ 13 + off
/-- Where what the module wrote to host memory or another device stands (log 21). -/
def foreignAddr (space vif va : Nat) : Nat := 8 * 2 ^ 64 + (space * 256 + vif) * 2 ^ 56 + va

/-- Where a byte stands that reads zero and keeps no store (R341). -/
def voidAddr (vif va : Nat) : Nat := 6 * 2 ^ 64 + vif * 2 ^ 56 + va

/-- Offset of a steward frame or context record of a core from SAVEBASE (R332): unit 0 and 1 the records, 2 the frame. -/
def saveOffset (c : CoreId) (unit : Nat) : Nat := 270336 * (256 * c.sgn + c.idx) + 131072 * unit
/-- Offset of the dead-letter ring from SAVEBASE (R332). -/
def ringOffset : Nat := 0x52800000
/-- The virtual address of the frame of record x of an SG (log 15). -/
def frameVa (p : VifParams) (sgn x : Nat) : Nat := p.recBase + (sgn * 16384 + x) * 4096
/-- The virtual address of the parameter snapshot of a launch (log 15). -/
def snapshotVa (p : VifParams) (lid : Nat) : Nat := p.recBase + 20 * 16384 * 4096 + lid * 2 ^ 17
/-- Bytes of the record area that the model lays out (log 15). -/
def recordAreaBytes : Nat := 20 * 16384 * 4096 + 2 ^ 16 * 2 ^ 17
/-- The virtual address of window slot m of record x under a generation (R267). -/
def windowVa (p : VifParams) (x gen m : Nat) : Nat := p.window + 4096 * (65536 * x + gen) + 64 * m

/-! ## Causes, and how an instruction stops short -/

/-- Trap causes (Table 14.3). -/
inductive Cause where
  | illegal | jetType | misalignedAtomic | formatReserved | formatNotAddressable | scaleSign | capTag | capBounds
  | capPerm | poisonUse | memUncorr | barTimeout | ecall | queueOverflow | leaseFault | escrowLost | routerReset | stale
  deriving DecidableEq, Repr, Inhabited

/-- Codes of Table 14.3. -/
def Cause.code : Cause → Nat
  | .illegal => 1 | .jetType => 2 | .misalignedAtomic => 3 | .formatReserved => 4 | .formatNotAddressable => 5
  | .scaleSign => 6 | .capTag => 7 | .capBounds => 8 | .capPerm => 9 | .poisonUse => 10 | .memUncorr => 11
  | .barTimeout => 12 | .ecall => 13 | .queueOverflow => 14 | .leaseFault => 15 | .escrowLost => 16
  | .routerReset => 17 | .stale => 18

/-- A piece of an access that has still to be read (R185): what it belongs to, its space, its address with the bits above it, and
its length; then the address and length of the whole access, and whether what it holds decides where the next access is. -/
structure Need where
  unit  : Nat
  space : Nat
  addr  : Nat
  len   : Nat
  whole : Word
  size  : Nat
  leads : Bool
  deriving DecidableEq, Repr, Inhabited

/-- Why an instruction does not complete: a trap with its value; an access outside every lease, with its address
(R303); a hold, with the state in which the core waits; a stop of the model. -/
inductive Stop where
  | trap (c : Cause) (value : Word)
  | lease (va : Nat)
  | hold (s : State)
  | fault (f : Fault)
  | refuse (r : Refusal)
  /-- a walk that goes by what has been read asks for these pieces (R185, R213, R229) -/
  | missing (ps : List Need)

/-- What a meaning computes with: a value, or why the instruction stops short. -/
abbrev Res (α : Type) : Type := Except Stop α

/-- A trap. -/
def trap {α : Type} (c : Cause) (v : Word) : Res α := .error (.trap c v)

/-- A trap unless a condition holds. -/
def guardTrap (ok : Bool) (c : Cause) (v : Word) : Res Unit := if ok then .ok () else .error (.trap c v)

/-- The encoding of an instruction, as `tvalue` holds it (R84). -/
def encodingOf (i : Instr) : Word := i.encode.zeroExtend 64

/-- ILLEGAL with the instruction's encoding unless a condition holds (R84). -/
def legal (i : Instr) (ok : Bool) : Res Unit := guardTrap ok .illegal (encodingOf i)

/-! ## Registers -/

namespace Ctx

/-- A scalar register (R66, R67): `x0` reads zero; a handler of user-level events has its own `x24` to `x31`. -/
def getX (c : Ctx) (i : Nat) : Word :=
  if i = 0 then 0 else if c.inev && 24 ≤ i then c.shadow.getD (i - 24) 0 else c.x.getD i 0

/-- A scalar register, written (R66): a write to `x0` is discarded. -/
def setX (c : Ctx) (i : Nat) (v : Word) : Ctx :=
  if i = 0 then c
  else if c.inev && 24 ≤ i then { c with shadow := c.shadow.setIfInBounds (i - 24) v }
  else { c with x := c.x.setIfInBounds i v }

/-- A capability register. -/
def getK (c : Ctx) (i : Nat) : Cap := c.k.getD i Cap.null

/-- A capability register, written whole with its tag (R66). -/
def setK (c : Ctx) (i : Nat) (v : Cap) : Ctx := { c with k := c.k.setIfInBounds i v }

/-- VREGS of `partition` (Table 2.2). -/
def vregs (c : Ctx) : Nat := bitsOf c.partition.toNat 12 2
/-- ACC of `partition`. -/
def acc (c : Ctx) : Nat := bitsOf c.partition.toNat 16 4
/-- How many vector registers there are. -/
def vcount (c : Ctx) : Nat := 16 * 2 ^ c.vregs
/-- First byte of the accumulator region (R155). -/
def accBase (c : Ctx) : Nat := 2048 * 2 ^ c.vregs
/-- First byte of scratch (R26). -/
def scratch (c : Ctx) : Nat := c.accBase + 4608 * c.acc
/-- ORDER of `jord`. -/
def order (c : Ctx) : Nat := bitsOf c.jord.toNat 0 3
/-- FLUSH of `round` (Table 5.4). -/
def flush (c : Ctx) : Bool := bit c.round.toNat 3
/-- MODE of `round`. -/
def mode (c : Ctx) : Nat := bitsOf c.round.toNat 0 3
/-- The MODE that an RM field selects (R99). -/
def rmode (c : Ctx) (rm : Nat) : Nat := if rm = 0 then c.mode else rm - 1

end Ctx

/-- The partition word of a split (R26). -/
def partitionWord (vregs acc : Nat) : Word :=
  BitVec.ofNat 64 (acc * 2 ^ 16 + vregs * 2 ^ 12 + (98304 - 2048 * 2 ^ vregs - 4608 * acc) / 256)

/-- The number of a level (R320). -/
def Level.num : Level → Nat
  | .user => 0 | .supervisor => 1 | .machine => 2

/-- The level of a number. -/
def Level.ofNum : Nat → Level
  | 0 => .user | 1 => .supervisor | _ => .machine

namespace State

def x (s : State) (i : Nat) : Word := s.ctx.getX i
def k (s : State) (i : Nat) : Cap := s.ctx.getK i
def setX (s : State) (i : Nat) (v : Word) : State := s.setCtx (s.ctx.setX i v)
def setK (s : State) (i : Nat) (v : Cap) : State := s.setCtx (s.ctx.setK i v)

/-- The next instruction in program order. -/
def advance (s : State) : State := s.setCtx { s.ctx with pc := s.ctx.pc + 4 }

/-- A scalar result, and on to the next instruction. -/
def retire (s : State) (d : Nat) (v : Word) : State :=
  s.setCtx { s.ctx.setX d v with pc := s.ctx.pc + 4 }

/-- A capability result, and on to the next instruction. -/
def retireK (s : State) (d : Nat) (v : Cap) : State :=
  s.setCtx { s.ctx.setK d v with pc := s.ctx.pc + 4 }

/-- The overlay slot of the current core's tile that holds its reaction's overlay (R63). -/
def mySlot (s : State) : Option Slot :=
  match s.myReaction, s.myLaunch with
  | some r, some l =>
    s.slots.find? fun t => t.sgn == s.cur.sgn && t.tile == tileIndex s.cur.idx && t.vif == r.vif && t.lid == r.lid
      && some t.ovl == (l.image.rules[r.rule]?).map (·.ovl) && !t.loading
  | _, _ => none

/-- The length of the current code space (R119, R320). -/
def codeLength (s : State) : Nat :=
  match s.ctx.space with
  | .handler => Config.handlerBytes
  | .overlay => (s.mySlot.map (·.len)).getD 0

/-- Where a byte of the current code space stands. -/
def codeAddr (s : State) (off : Nat) : Nat :=
  match s.ctx.space, s.ctx.level with
  | .handler, .machine => handlerAddr s.cur off
  | .handler, _ => handlerAddr s.cur (4096 + off)
  | .overlay, _ => match s.mySlot with
    | some t => slotAddr t.sgn t.tile t.slot off
    | none => 0

/-- The four bytes of the instruction at an offset of the current code space (R71). -/
def codeBytes (s : State) (off : Nat) : List Byte := s.mem.read (s.codeAddr off) 4

/-- Control goes on at a target, if it lies in the code space (R78, R119). -/
def jump (s : State) (i : Instr) (target : Int) : Res State :=
  if 0 ≤ target ∧ target < s.codeLength then .ok (s.setCtx { s.ctx with pc := target.toNat })
  else trap .illegal (encodingOf i)

end State

/-- The instruction at the PC of the current core. -/
def instrAt (s : State) : Option Instr :=
  match decodeBytes (s.codeBytes s.ctx.pc) with
  | .ok (i, _) => some i
  | .error _ => none

/-! ## Weirs (R293 to R295) -/

/-- Whether a weir of a VIF lets an activity issue. -/
def weirOpen (s : State) (v w : Nat) : Bool :=
  match s.vif v with
  | none => true
  | some f => f.p.budgets.getD w Config.unlimited == Config.unlimited || decide (0 < f.rem.getD w 0)

/-- A charge to a weir of a VIF; an unlimited one is never charged. -/
def charge (s : State) (v w n : Nat) : State :=
  match s.vif v with
  | none => s
  | some f =>
    if f.p.budgets.getD w Config.unlimited == Config.unlimited then s
    else s.setVif { f with rem := f.rem.set w (f.rem.getD w 0 - n) }

/-- A message to a host (R314), after those sent before, charged to the FAB weir of its VIF (R293). -/
def State.send (s : State) (vif : Nat) (m : List Byte) : State :=
  charge { s with sent := s.sent ++ [(vif, m)] } vif 3 m.length

/-! ## Capabilities (R86 to R90, R297) -/

namespace Cap

def otype (c : Cap) : Nat := bitsOf c.bits.toNat 108 20
def isSealed (c : Cap) : Bool := bit c.bits.toNat 107
def space (c : Cap) : Nat := bitsOf c.bits.toNat 103 4
/-- PERMS with its two reserved bits read as zero (R88). -/
def perms (c : Cap) : Nat := bitsOf c.bits.toNat 91 10
def exp (c : Cap) : Nat := bitsOf c.bits.toNat 86 5
def bm (c : Cap) : Nat := bitsOf c.bits.toNat 75 11
def lm (c : Cap) : Nat := bitsOf c.bits.toNat 64 11
def format (c : Cap) : Nat := bitsOf c.bits.toNat 60 4
def blog (c : Cap) : Nat := bitsOf c.bits.toNat 56 4
def va (c : Cap) : Nat := bitsOf c.bits.toNat 0 56
/-- The low 64 bits: FORMAT, BLOG and VA. -/
def addr (c : Cap) : Word := BitVec.ofNat 64 c.bits.toNat

/-- A field replaced. -/
def put (c : Cap) (lo len v : Nat) : Cap := { c with bits := BitVec.ofNat 128 (setBits c.bits.toNat lo len v) }

/-- Base of the bounds, decoded at an address (R87). It may be negative for an address below the first block. -/
def baseAt (c : Cap) (va : Nat) : Int :=
  let hi : Int := (va / 2 ^ (c.exp + 11) : Nat)
  let hi := if va / 2 ^ c.exp % 2 ^ 11 < c.bm then hi - 1 else hi
  hi * 2 ^ (c.exp + 11) + (c.bm * 2 ^ c.exp : Nat)

def base (c : Cap) : Int := c.baseAt c.va
/-- The exclusive top of the bounds. -/
def top (c : Cap) : Int := c.base + (c.lm * 2 ^ c.exp : Nat)

/-- A capability of given fields, tagged and unsealed, FORMAT 0 and BLOG 0. -/
def make (space perms e bm lm va : Nat) : Cap where
  tag := true
  bits := BitVec.ofNat 128
    (space % 16 * 2 ^ 103 + perms % 2 ^ 10 * 2 ^ 91 + e % 32 * 2 ^ 86 + bm % 2 ^ 11 * 2 ^ 75 + lm % 2 ^ 11 * 2 ^ 64
      + va % 2 ^ 56)

/-- The smallest exponent for a length (R299). -/
def expFor (len : Nat) : Option Nat := (List.range 32).find? fun e => len ≤ 2047 * 2 ^ e

/-- Whether a range is representable (R299). -/
def representable (base len : Nat) : Bool :=
  match expFor len with
  | none => false
  | some e => base % 2 ^ e == 0 && len % 2 ^ e == 0

/-- A capability to a range, with the smallest representable bounds that start at its base and cover it (R341, R349). -/
def range (space perms base len : Nat) : Cap :=
  let e := (expFor len).getD 31
  make space perms e (base / 2 ^ e) ((len + 2 ^ e - 1) / 2 ^ e) base

end Cap

/-- Permission bits (Table 4.21). -/
def permLoad : Nat := 1
def permStore : Nat := 2
def permLoadK : Nat := 4
def permStoreK : Nat := 8
def permAtomic : Nat := 16
def permEngine : Nat := 32
def permRemote : Nat := 64
def permSeal : Nat := 128
def permUnseal : Nat := 256
def permDerive : Nat := 512

/-- The effective address (Table 4.22): FORMAT and BLOG stay, the VA wraps at 2^56. -/
def effAddr (c : Cap) (i : Word) (scale : Nat) (d : Int) : Word :=
  BitVec.ofNat 64 (c.addr.toNat / 2 ^ 56 * 2 ^ 56 + wrap 56 ((c.va : Int) + (i.toNat * scale : Nat) + d))

/-- The checks of `CapCheck` other than bounds (Table 4.22). -/
def capRights (priv : Level) (c : Cap) (a : Word) (need : Nat) : Res Unit := do
  guardTrap c.tag .capTag a
  guardTrap (!c.isSealed && c.perms &&& need == need) .capPerm a
  guardTrap (c.space < 8 && (c.space != 7 || priv == .machine)) .capPerm a

/-- `CapCheck` (R90): an address whose decode differs from that of the capability's own VA is out of bounds (R297). -/
def capCheck (priv : Level) (c : Cap) (a : Word) (size need : Nat) : Res Unit := do
  capRights priv c a need
  let va := bitsOf a.toNat 0 56
  let base := c.baseAt va
  guardTrap (base == c.base && base ≤ va && decide ((va : Int) + size ≤ base + (c.lm * 2 ^ c.exp : Nat))) .capBounds a

/-! ## Where an access goes (R199, R291, R303, R306) -/

/-- A run of bytes on the line of addresses: its level seen from the accessing core (Table 9.1), its single-copy size
(Table 9.2), whether it is the core's own pool, whether it lies outside the module, the link it needs, and the TLB entry
through which it was found. -/
structure Loc where
  addr    : Nat
  len     : Nat
  level   : Nat
  granule : Nat
  own     : Bool
  foreign : Bool
  link    : Option Link
  entry   : Option TlbEntry
  deriving DecidableEq, Repr, Inhabited

/-- What an access is, as a miss message says it (Table 13.6): of the core, or of an engine on its behalf. -/
inductive Access where
  | load | store | engine | engineStore
  deriving DecidableEq, Repr, Inhabited

/-- KIND of Table 13.6. -/
def Access.code : Access → Nat
  | .load => 0 | .store => 1 | .engine => 2 | .engineStore => 2

/-- Whether an access writes. -/
def Access.writes : Access → Bool
  | .load => false | .store => true | .engine => false | .engineStore => true

/-- A run of pool bytes of a core. -/
def poolLoc (from' c : CoreId) (off n : Nat) : Loc where
  addr := poolAddr c off
  len := n
  level := if from' = c then 0 else if from'.sgn ≠ c.sgn then 4 else if tileIndex from'.idx = tileIndex c.idx then 1
    else if groupOf from'.idx = groupOf c.idx then 2 else 3
  granule := 64
  own := from' == c
  foreign := false
  link := if from' = c then none else some (.sg c.sgn)
  entry := none

/-- The reach, of the four, whose HBM stacks hold a physical address (R183, log 22). -/
def hbmStack (pa : Nat) : Nat := Config.hbmReach pa % 4

/-- A run of HBM bytes (R183, log 22). -/
def hbmLoc (from' : CoreId) (flat pa n : Nat) : Loc where
  addr := flat
  len := n
  level := if hbmStack pa = from'.sgn / 5 then 4 else 5
  granule := 32
  own := false
  foreign := false
  link := some (.reach (hbmStack pa))
  entry := none

/-- Whether stores to a run are discarded (R341). -/
def Loc.sink (l : Loc) : Bool := decide (6 * 2 ^ 64 ≤ l.addr ∧ l.addr < 7 * 2 ^ 64)

/-- Bytes stored to a run. -/
def Loc.put (l : Loc) (m : Memory) (bs : List Byte) (bad : List Nat) : Memory :=
  if l.sink then m else m.write l.addr bs bad

/-- Bytes of a granule of a space (R184, R185): what `memcap` gives, and 8 outside the module. -/
def granuleOf (space : Nat) : Nat := if space ≤ 1 then 64 else if space = 2 then 32 else if space = 3 then 16 else 8

/-- A range cut at the multiples of `g`: each piece with its first address. -/
def cutRange (g : Nat) : Nat → Nat → Nat → List (Nat × Nat)
  | 0, _, _ => []
  | f + 1, a, n =>
    if n = 0 then []
    else
      let here := min n (g - a % g)
      (a, here) :: cutRange g f (a + here) (n - here)

/-- Runs of capacity-tier bytes: each unit of 4 KiB is on the next of the 16 chips (R199). -/
def captLocs (pa n : Nat) : List Loc :=
  (cutRange 4096 (n / 4096 + 2) pa n).map fun p =>
    ⟨captAddr p.1, p.2, 5, 16, false, false, some (.mule (p.1 / 4096 % 16)), none⟩

/-- A run of bytes outside the module (R199), or of the MMIO space, which no link leads to: no rule describes a register of it, so
that a byte of it reads as a free value, and a store to it is kept apart as one to a device is (log 23). -/
def foreignLoc (space vif va n : Nat) : Loc :=
  ⟨foreignAddr space vif va, n, if space = 7 then 5 else 6, 8, false, true, if space = 7 then none else some .fabric, none⟩

/-- Whether a range is covered by others, each a first address and a length. -/
def covered (ranges : List (Nat × Nat)) : Nat → Nat → Nat → Bool
  | 0, _, n => n == 0
  | f + 1, va, n =>
    if n = 0 then true
    else match ranges.find? fun r => r.1 ≤ va && va < r.1 + r.2 with
      | none => false
      | some r => covered ranges f (r.1 + r.2) (n - (r.1 + r.2 - va))

/-- The ranges of the leases that a launch names in a space, for loads or for stores (R303). -/
def leaseRanges (v : Vif) (l : Launch) (space : Nat) (store : Bool) : List (Nat × Nat) :=
  l.leases.filterMap fun r =>
    if store && !bit r.perms.toNat 1 then none
    else (v.leases.find? fun e => e.id == r.id && e.space == space).map fun e => (e.va, e.len)

/-- Whether an access lies within the leases of a launch (R303). -/
def withinLeases (v : Vif) (l : Launch) (space va n : Nat) (store : Bool) : Bool :=
  let rs := leaseRanges v l space store
  covered rs (rs.length + 1) va n

/-- A page as a lookup finds it: its first address, its size, the physical address, and the TLB entry that holds it. -/
structure Page where
  va    : Nat
  size  : Nat
  pa    : Nat
  entry : Option TlbEntry

/-- A piece of a range within one page: its physical address, its length and its page's entry. -/
structure Mapped where
  pa    : Nat
  len   : Nat
  entry : Option TlbEntry

/-- A range cut at page ends, through a way to find a page; nothing where a page is missing. -/
def translate (page : Nat → Option Page) : Nat → Nat → Nat → Option (List Mapped)
  | 0, _, n => if n = 0 then some [] else none
  | f + 1, va, n =>
    if n = 0 then some []
    else match page va with
      | none => none
      | some p =>
        let here := min n (p.va + p.size - va)
        (translate page f (va + here) (n - here)).map fun t => ⟨p.pa + (va - p.va), here, p.entry⟩ :: t

/-- The page of a VIF's translation context that holds an address, as the delta die sees it (log 17). -/
def vifPage (v : Vif) (space va : Nat) : Option Page :=
  (v.pages.find? fun p => p.space == space && p.va ≤ va && va < p.va + p.size).map fun p => ⟨p.va, p.size, p.pa, none⟩

/-- The entry of a core's TLB that an access matches (R306). A store matches only an entry whose W permits stores (R307); where there is
only one that does not, no rule says what the store does: it misses, and the TSC is told of a store (DESIGN CHOICE, log 48). -/
def tlbPage (k : Core) (l : Launch) (vif space : Nat) (store : Bool) (va : Nat) : Option Page :=
  (k.tlb.find? fun e => e.vif == vif && e.space == space && e.va ≤ va && va < e.va + e.size && (e.write || !store)
    && l.leases.any (·.id == e.lease)).map fun e => ⟨e.va, e.size, e.pa, some e⟩

/-- Entries that accesses use become the most recently used: they go to the end of the TLB (R307). -/
def Core.useEntries (k : Core) (es : List TlbEntry) : Core :=
  { k with tlb := es.foldl (fun l e => if l.contains e then l.erase e ++ [e] else l) k.tlb }

/-- The same for the core whose instruction makes the accesses. -/
def State.useTlb (s : State) (es : List TlbEntry) : State := if es.isEmpty then s else s.setMe (s.me.useEntries es)

/-- Whether an address of space 2 lies in the pinned areas of a VIF (R267, R332; log 15). -/
def isPinned (p : VifParams) (va n : Nat) : Bool :=
  (p.saveBase ≤ va && va + n ≤ p.saveBase + ringOffset + 2 ^ 22)
    || (p.recBase ≤ va && va + n ≤ p.recBase + recordAreaBytes)

/-- The range that the steward's `k15` covers beyond the last dead letter (R341): its first address and the one past it. -/
def ringSlack (p : VifParams) : Nat × Nat :=
  let n := 64 + 32 * p.ringCap
  let u := 2 ^ (Cap.expFor n).getD 31
  (p.saveBase + ringOffset + n, p.saveBase + ringOffset + (n + u - 1) / u * u)

/-- The runs of a pinned area; the bytes set aside behind the ring read zero and keep no store (R341). -/
def pinnedLocs (from' : CoreId) (p : VifParams) (va n : Nat) : List Loc :=
  let (lo, hi) := ringSlack p
  let a := min (va + n) (max va lo)
  let b := min (va + n) (max a hi)
  let run := fun (flat first last : Nat) => if first < last then [hbmLoc from' (flat + first) (flat + first) (last - first)] else []
  run (pinnedAddr p.id 0) va a ++ run (voidAddr p.id 0) a b ++ run (pinnedAddr p.id 0) b (va + n)

/-- Whether an address of space 2 lies in the header window of a VIF (R267). -/
def inWindow (p : VifParams) (va : Nat) : Bool := p.window ≤ va && va < p.window + 2 ^ 42

/-- The window runs that a live member of record x under its generation may reach: its body, and no handler (R267, R179). -/
def windowLocs (from' : CoreId) (lv : Level) (p : VifParams) (r : Option Reaction) (a : Word) (va n : Nat) : Res (List Loc) :=
  let page := (va - p.window) / 4096
  match r with
  | some q =>
    if lv = .user ∧ q.x = page / 65536 ∧ q.gen = page % 65536 ∧ q.live.contains from'.idx then
      .ok [hbmLoc from' (windowAddr p.id from'.sgn va) (windowAddr p.id from'.sgn va) n]
    else trap .capPerm a
  | none => trap .capPerm a

/-- Runs of translated pieces. -/
def translatedLocs (from' : CoreId) (space : Nat) (ps : List Mapped) : List Loc :=
  ps.flatMap fun p => (if space = 2 then [hbmLoc from' (hbmAddr p.pa) p.pa p.len] else captLocs p.pa p.len).map fun l =>
    { l with entry := p.entry }

/-- The core waits for a fill, and its SG's TSC has the miss in its mailbox (R306). -/
def missHold (s : State) (vif va space : Nat) (kind : Access) : State :=
  let t : CoreId := ⟨s.cur.sgn, Config.tsc⟩
  let s := s.setMe { s.me with hold := .miss }
  let k := s.core t
  s.setCore t { k with mail := k.mail ++ [.miss s.cur.idx vif (BitVec.ofNat 56 va) space kind.code] }

/-- Space 2 or 3 for the current core (R303, R306). -/
def leasedLocs (s : State) (space : Nat) (va n : Nat) (kind : Access) : Res (List Loc) :=
  match s.myVif with
  | none => .error (.hold (missHold s 0 va space kind))
  | some v => match s.vif v, s.myLaunch with
    | some f, some l =>
      if withinLeases f l space va n kind.writes then
        match translate (tlbPage s.me l v space kind.writes) (n + 1) va n with
        | some ps =>
          if space = 2 ∧ ps.any (fun p => Config.hbmBytes < p.pa + p.len) then .error (.fault .noSuchMemory)
          else .ok (translatedLocs s.cur space ps)
        | none => .error (.hold (missHold s v va space kind))
      else .error (.lease va)
    | _, _ => .error (.hold (missHold s v va space kind))

/-- Where the `n` bytes at an address of a space are, for the current core (R199). A LEASE may be granted over a pinned area, which R332
has outside every lease and R369 does not refuse: there the pinned area goes before the lease (DESIGN CHOICE, log 85). -/
def locate (s : State) (space : Nat) (a : Word) (n : Nat) (kind : Access) : Res (List Loc) :=
  let va := bitsOf a.toNat 0 56
  match space with
  | 0 =>
    if s.cur.idx = Config.tsc then .error (.fault .tscHasNoPool)
    else if va + n ≤ Config.poolBytes then .ok [poolLoc s.cur s.cur va n] else trap .capBounds a
  | 1 =>
    let c : CoreId := ⟨s.cur.sgn, bitsOf va 17 8⟩
    if va < 2 ^ 25 ∧ bitsOf va 0 17 + n ≤ Config.poolBytes then
      if (s.core c).owner.isSome && (s.core c).owner == s.myVif then .ok [poolLoc s.cur c (bitsOf va 0 17) n]
      else trap .capPerm a
    else trap .capBounds a
  | 2 =>
    match s.myVif.bind s.vif with
    | none => leasedLocs s 2 va n kind
    | some f =>
      if inWindow f.p va then windowLocs s.cur s.ctx.level f.p s.myReaction a va n
      else if isPinned f.p va n then .ok (pinnedLocs s.cur f.p va n)
      else leasedLocs s 2 va n kind
  | 3 => leasedLocs s 3 va n kind
  | 4 => .ok [foreignLoc 4 (s.myVif.getD 0) va n]
  | 5 => .ok [foreignLoc 5 (s.myVif.getD 0) va n]
  | 7 => .ok [foreignLoc 7 (s.myVif.getD 0) va n]
  | _ => trap .capPerm a

/-- The weir that an access in a space is charged to (Table 13.2). -/
def weirOf (space : Nat) : Option Nat :=
  if space = 2 then some 1 else if space = 4 ∨ space = 5 then some 3 else none

/-- An access that an instruction makes: its space, its bytes, and the TLB entries that it uses. -/
structure Moved where
  space : Nat
  bytes : Nat
  used  : List TlbEntry
  deriving Inhabited

/-- The access of runs. -/
def movedTo (space n : Nat) (ls : List Loc) : Moved := ⟨space, n, ls.filterMap (·.entry)⟩

/-- Whether a link is dead, or its partition is being tested (R181, R344). -/
def linkDown (s : State) (l : Link) : Bool :=
  s.dead.contains l || match l with
    | .sg g => s.testing.contains (.sg g) || s.testing.contains (.reach (g / 5))
    | .reach r => s.testing.contains (.reach r)
    | _ => false

def locDown (s : State) (l : Loc) : Bool := (l.link.map (linkDown s)).getD false

/-! ## Memory as a core sees it (R179, R181, R185, R188; log 5) -/

/-- A piece of a store, performed (R186, R202, R203). -/
def InFlight.perform (f : InFlight) (m : Memory) : Memory := (m.write f.addr f.bytes f.poison).setTags f.tags

/-- Whether a piece in flight is a store of the agent that runs: the same core and level, and at user level the same
reaction (R179). -/
def isOwn (s : State) (f : InFlight) : Bool :=
  f.core == s.cur && f.priv == s.ctx.level && (f.priv != .user || f.x == s.me.rx)

/-- Whether the agent that runs has stores in flight. -/
def ownStores (s : State) : Bool := s.stores.any (isOwn s)

/-- Whether a piece in flight has a byte of a run. -/
def InFlight.meets (f : InFlight) (l : Loc) : Bool := f.addr < l.addr + l.len && l.addr < f.addr + f.bytes.length

/-- Whether a store of the agent that runs, older than a point of its program order, is in flight to a byte of runs. -/
def ownOut (s : State) (before : Nat) (ls : List Loc) : Bool :=
  s.stores.any fun f => isOwn s f && f.seq < before && ls.any f.meets

/-- The bytes of runs, as all agents see them; those outside the module are free (log 21). -/
def readLocs (s : State) (ls : List Loc) : List Byte :=
  ls.flatMap fun l =>
    if l.foreign then (List.range l.len).map fun i => Config.foreignByte s.tick (l.addr + i)
    else s.mem.read l.addr l.len

/-- For each byte of runs, whether it lies in a poisoned granule (R186). -/
def badBytes (s : State) (ls : List Loc) : List Bool :=
  ls.flatMap fun l =>
    let bad := s.mem.poisonIn l.addr l.len
    (List.range l.len).map fun i => !l.foreign && bad.contains ((l.addr + i) / 32)

/-- Whether runs touch a poisoned granule. -/
def anyBad (s : State) (ls : List Loc) : Bool := ls.any fun l => !l.foreign && !(s.mem.poisonIn l.addr l.len).isEmpty

/-- Offsets, from the first byte of runs, of the tagged 16-byte granules that they hold whole (R202). -/
def tagsOf (m : Memory) : List Loc → List Nat
  | [] => []
  | l :: t =>
    (if l.foreign then [] else ((m.tags.filter fun g => l.addr ≤ 16 * g && 16 * g + 16 ≤ l.addr + l.len).map fun g =>
      16 * g - l.addr)) ++ (tagsOf m t).map (l.len + ·)

/-- The granules of 32 bytes among bytes at `a` that hold a bad byte. -/
def badGranules (a : Nat) (bad : List Bool) : List Nat :=
  (blocksOf 32 a bad.length).filter fun g => (List.range bad.length).any fun i => bad.getD i false && (a + i) / 32 == g

/-- Bytes cut at the multiples of `g`, each piece with its first address. -/
def cutAt (g : Nat) : Nat → Nat → List Byte → List Bool → List (Nat × List Byte × List Bool)
  | 0, _, _, _ => []
  | f + 1, a, bs, bad =>
    if bs.isEmpty then []
    else
      let n := g - a % g
      (a, bs.take n, bad.take n) :: cutAt g f (a + n) (bs.drop n) (bad.drop n)

/-- Granules of 32 bytes that a store of bytes at `a` writes whole and good, and a piece of it in part (R186). -/
def partGranules (a : Nat) (bad : List Bool) (n : Nat) (p : Nat × List Byte × List Bool) : List Nat :=
  (blocksOf 32 p.1 p.2.1.length).filter fun g => a ≤ 32 * g && 32 * g + 32 ≤ a + n
    && !(p.1 ≤ 32 * g && 32 * g + 32 ≤ p.1 + p.2.1.length) && !(badGranules a bad).contains g

/-- A piece of a store of the agent that runs, as it goes in flight. -/
def inFlight (s : State) (l : Loc) (n : Nat) (bad : List Bool) (tags : List Nat) (p : Nat × List Byte × List Bool) : InFlight where
  core := s.cur
  x := s.me.rx
  priv := s.ctx.level
  seq := s.seq
  addr := p.1
  bytes := p.2.1
  poison := badGranules p.1 p.2.2
  tags := (tags.map fun o => (l.addr + o) / 16).filter fun g => p.1 ≤ 16 * g && 16 * g < p.1 + p.2.1.length
  clean := partGranules l.addr bad n p
  level := l.level
  link := l.link
  foreign := l.foreign

/-- A store of bytes to one run, with the granules at the offsets `tags` tagged: at once in the core's own pool, else in
flight piece by piece (R185; log 5). -/
def storeLoc (s : State) (l : Loc) (bs : List Byte) (bad : List Bool) (tags : List Nat) : State :=
  if l.sink then s
  else if l.own then
    { s with mem := (s.mem.write l.addr bs (badGranules l.addr bad)).setTags (tags.map fun o => (l.addr + o) / 16) }
  else
    { s with
      seq := s.seq + 1
      stores := s.stores ++ (cutAt l.granule (bs.length + 1) l.addr bs bad).map (inFlight s l bs.length bad tags) }

/-- Bytes stored at once to runs, with the granules at the offsets `tags` tagged. -/
def putLocs (m : Memory) : List Loc → List Byte → List Bool → List Nat → Memory
  | [], _, _, _ => m
  | l :: t, bs, bad, tags =>
    let n := if l.sink then m
      else (m.write l.addr (bs.take l.len) (badGranules l.addr (bad.take l.len))).setTags
        ((tags.filter (· < l.len)).map fun o => (l.addr + o) / 16)
    putLocs n t (bs.drop l.len) (bad.drop l.len) ((tags.filter (l.len ≤ ·)).map (· - l.len))

/-- A store of bytes to runs. -/
def storeLocs (s : State) : List Loc → List Byte → List Bool → List Nat → State
  | [], _, _, _ => s
  | l :: t, bs, bad, tags =>
    storeLocs (storeLoc s l (bs.take l.len) (bad.take l.len) (tags.filter (· < l.len))) t (bs.drop l.len) (bad.drop l.len)
      ((tags.filter (l.len ≤ ·)).map (· - l.len))

/-- Adjacent runs of one memory put together. -/
def mergeLocs : List Loc → List Loc
  | [] => []
  | l :: t =>
    match mergeLocs t with
    | k :: r =>
      if l.addr + l.len = k.addr ∧ { k with addr := l.addr, len := l.len } = l then { l with len := l.len + k.len } :: r
      else l :: k :: r
    | [] => [l]

/-- `n` bytes of runs from an offset. -/
def sliceLocs : List Loc → Nat → Nat → List Loc
  | [], _, _ => []
  | l :: t, off, n =>
    if n = 0 then []
    else if l.len ≤ off then sliceLocs t (off - l.len) n
    else
      let here := min n (l.len - off)
      { l with addr := l.addr + off, len := here } :: sliceLocs t 0 (n - here)

/-- A load whose target cannot be reached raises MEM_UNCORR (R181). -/
def reachable (s : State) (ls : List Loc) (a : Word) : Res Unit :=
  guardTrap (!ls.any (locDown s)) .memUncorr a

/-! ## Formats (R114, R201) -/

/-- Whether BLOG is one that Table 5.12 allows. -/
def blogOk (format blog : Nat) : Bool :=
  if format = 7 then 4 ≤ blog && blog ≤ 7 else if format = 10 ∨ format = 11 then blog ≤ 3 else blog == 0

/-- Check 3 of R201. -/
def formatCheck (c : Cap) (a : Word) : Res Unit := do
  guardTrap (c.format != 7) .formatNotAddressable a
  guardTrap (c.format < 12 && blogOk c.format c.blog) .formatReserved a

/-! ## The pool of the current core -/

/-- Bytes of the current core's pool. -/
def poolRead (s : State) (off n : Nat) : List Byte := s.mem.read (poolAddr s.cur off) n

/-- A vector register's 128 bytes as a number (R120). -/
def vget (s : State) (n : Nat) : Nat := natOfBytes (poolRead s (128 * n) 128)

/-- The poisoned granules of a range of the current core's pool, as pool offsets of their first bytes. -/
def poolPoison (s : State) (off n : Nat) : List Nat :=
  (s.mem.poisonIn (poolAddr s.cur off) n).map fun g => 32 * g - poolAddr s.cur 0

/-- A store to the current core's pool, with the bad granules given as pool offsets. -/
def poolWrite (s : State) (off : Nat) (bs : List Byte) (bad : List Nat) : State :=
  { s with mem := s.mem.write (poolAddr s.cur off) bs (bad.map fun o => (poolAddr s.cur 0 + o) / 32) }

/-- A vector register, written whole (R120). -/
def vset (s : State) (n v : Nat) (bad : List Nat) : State := poolWrite s (128 * n) (bytesOfNat 128 v) bad

/-! ## System registers that are computed (R11, R21, R184, R219) -/

/-- `coreid` (Table 1.3). -/
def coreidOf (c : CoreId) : Word :=
  let place := c.sgn * 2 ^ 24 + c.sgn / 5 * 2 ^ 11 + c.sgn % 5 * 2 ^ 8
  BitVec.ofNat 64 (if c.idx = Config.tsc then place + 2 ^ 31
    else place + rowOf c.idx * 2 ^ 20 + colOf c.idx * 2 ^ 16 + groupOf c.idx * 2 ^ 6 + tileOf c.idx * 2 ^ 2 + laneOf c.idx)

/-- How many SGs a mask enables. -/
def countEnabled (en : BitVec 20) : Nat := ((List.range 20).filter fun i => bit en.toNat i).length

/-- `sgenable` (Table 1.7). -/
def sgenableOf (s : State) : Word := BitVec.ofNat 64 (countEnabled s.enabled * 2 ^ 20 + s.enabled.toNat)

/-- `memcap` (R184). -/
def memcapValue : Word := 0x06543333

/-- Whether an SG is enabled (R21). -/
def sgEnabled (s : State) (g : Nat) : Bool := g < 20 && bit s.enabled.toNat g

/-- The engine of an ENG operation, as its BUSY bit in `estatus` numbers it (Table 10.6). -/
def engineBit (op : Nat) : Nat :=
  match op with
  | 0 => 0 | 1 => 1 | 2 => 1 | 3 => 1 | 4 => 1 | 5 => 1 | 6 => 2 | 7 => 3 | _ => 4

/-- Queue depth of an engine (R219). -/
def engineDepth (b : Nat) : Nat :=
  match b with
  | 0 => 8 | 1 => 8 | 2 => 4 | 3 => 16 | _ => 16

/-- The operations accepted and not started at the engine that a core's operation would use: shared by the tile for the
copy engine, by the SG for the merge tree, else the core's own (R219; log 16). -/
def engineQueue (s : State) (c : CoreId) (b : Nat) : Nat :=
  (s.ops.filter fun o => engineBit o.op == b && !o.begun && !o.deferred && o.core.sgn == c.sgn
    && (b == 3 || (b == 0 && tileIndex o.core.idx == tileIndex c.idx) || o.core.idx == c.idx)).length

/-- Whether an engine's queue is full (R219). -/
def engineBusy (s : State) (c : CoreId) (b : Nat) : Bool := engineDepth b ≤ engineQueue s c b

/-- Operations with EV = 1 that the reaction of a core has outstanding, and events that are queued (R231). -/
def eventsOut (s : State) (c : CoreId) : Nat :=
  (s.ops.filter fun o => o.core == c && (s.core c).rx == some o.x && ((s.reaction c.sgn o.x).map (·.gen)) == some o.gen
    && bit o.ctl.toNat 3).length + (s.core c).ctx.events.length

/-- Whether a message is one that the sender still waits with (R335). -/
def Mail.from (m : Mail) (c : CoreId) : Bool := m.held && m.sender == c
def Transfer.from (t : Transfer) (c : CoreId) : Bool := t.held && t.sender == c

/-- Whether the queue of remote commands of a core is full (R174). -/
def Core.cmdsFull (k : Core) : Bool := 8 ≤ k.cmds.length

/-- Whether the network interface of a core holds a command, or any message for a full spill ring (R335), or a queue of 8 in which
a command of the core waits is full (R174, R219; log 67). -/
def matrixBusy (s : State) (c : CoreId) : Bool :=
  (s.core c).cmdOut.isSome || s.mails.any (·.from c) || s.xfers.any (·.from c)
    || s.cores.any fun k => k.2.cmdsFull && k.2.cmds.any (·.sender == c)

/-- `estatus` (Table 10.6). -/
def estatusOf (s : State) (c : CoreId) : Word :=
  let k := s.core c
  let out := ((List.range 8).map fun i => if k.complete.getD i 0 < k.issued.getD i 0 then 2 ^ i else 0).sum
  let busy := ((List.range 5).map fun b => if engineBusy s c b then 2 ^ b else 0).sum
  BitVec.ofNat 64 (k.ctx.fault.toNat * 2 ^ 24 + k.ctx.events.length % 16 * 2 ^ 20 + (if k.ctx.inev then 2 ^ 19 else 0)
    + out * 2 ^ 8 + (if 8 ≤ eventsOut s c then 2 ^ 6 else 0) + (if matrixBusy s c then 2 ^ 5 else 0) + busy)

/-! ## The register block (Table 14.5) -/

/-- A list of bytes cut or padded with zeros to a length. -/
def padTo (n : Nat) (l : List Byte) : List Byte := (l ++ List.replicate (n - l.length) 0).take n

/-- A word's bytes. -/
def wordBytes (w : Word) : List Byte := bytesOfNat 8 w.toNat

def capBytes (c : Cap) : List Byte := bytesOfNat 16 c.bits.toNat

def boolNat (b : Bool) : Nat := if b then 1 else 0

/-- A stream's 96 bytes (log 14): a CF8 stream's cursor is saved where it stands at the block of the position. -/
def streamBytes (q : StreamReg) : List Byte :=
  let r := bytesOfNat 64 q.record.toNat
  let cursor := match q.cursor with
    | some (u, off) => if u = q.pos / 2 ^ q.base.blog then 4 + 2 ^ 8 * wrap 56 off else 0
    | none => 0
  r.take 8 ++ wordBytes q.fibres ++ r.drop 16 ++ capBytes q.base ++ bytesOfNat 8 q.pos
    ++ bytesOfNat 8 (boolNat q.isOpen + 2 * boolNat q.base.tag + 16 * q.listSpace + cursor)

/-- A stream read from its 96 bytes, at a point of program order, with nothing read ahead. -/
def streamOfBytes (seq : Nat) (l : List Byte) : StreamReg where
  since := seq
  ahead := []
  cursor := if bit (fieldOf l 88 8) 2 then
      some (fieldOf l 80 8 / 2 ^ bitsOf (fieldOf l 64 16) 56 4, (bitsOf (fieldOf l 88 8) 8 56 : Nat))
    else none
  isOpen := bit (fieldOf l 88 8) 0
  record := BitVec.ofNat 512 (natOfBytes (l.take 8 ++ List.replicate 8 0 ++ (l.drop 16).take 48))
  fibres := BitVec.ofNat 64 (fieldOf l 8 8)
  listSpace := bitsOf (fieldOf l 88 8) 4 4
  base := ⟨bit (fieldOf l 88 8) 1, BitVec.ofNat 128 (fieldOf l 64 16)⟩
  pos := fieldOf l 80 8

/-- Streams read from a register block: one whose bytes there are still those of the stream that was saved is that stream, with its
place in program order and what it has read ahead (R213; log 84). -/
def reloadStreams (saved block : Vector StreamReg 8) : Vector StreamReg 8 :=
  Vector.ofFn fun i : Fin 8 => if streamBytes saved[i] = streamBytes block[i] then saved[i] else block[i]

/-- A binding's 8 bytes (log 14). -/
def bindBytes : Option Binding → List Byte
  | none => bytesOfNat 8 0
  | some b => bytesOfNat 8 (2 ^ 63 + b.x + b.gen * 2 ^ 16 + b.qoff * 2 ^ 32 + b.qent * 2 ^ 48)

def bindOfBytes (l : List Byte) : Option Binding :=
  let n := fieldOf l 0 8
  if bit n 63 then some ⟨bitsOf n 0 16, bitsOf n 16 16, bitsOf n 32 11, bitsOf n 48 8⟩ else none

/-- The system registers 0x000 to 0x013 in number order, as SYSREG holds them. -/
def sysRegs (s : State) (c : CoreId) : List Word :=
  let k := s.core c
  let t := k.ctx
  [t.round, t.fflags, t.jord, t.jfl] ++ t.amax.toList ++ [t.partition, t.crewcoord, coreidOf c, sgenableOf s, k.cycle,
    memcapValue, t.bartimeout, estatusOf s c, t.evec, t.ecause, t.evalue, t.epc]

/-- The BARRIER field (log 14). -/
def barrierBytes (t : Ctx) : List Byte :=
  bytesOfNat 1 (match t.arrival with | some a => 128 + a.wire | none => 0)
    ++ bytesOfNat 5 ((t.arrival.map (·.episode)).getD 0) ++ bytesOfNat 4 t.phase ++ bytesOfNat 8 t.latchBad.toNat

/-- The REMAP field (R223). -/
def remapBytes : Option Remap → List Byte
  | none => List.replicate 64 0
  | some r => capBytes r.mapt ++ bytesOfNat 4 (1 + 2 * boolNat r.mapt.tag) ++ bytesOfNat 4 r.mode ++ bytesOfNat 4 r.m
      ++ bytesOfNat 4 r.seed.toNat ++ bytesOfNat 4 r.tlen ++ List.replicate 28 0

/-- Bits of a list packed into bytes, the first the lowest. -/
def packBits (l : List Bool) : List Byte :=
  bytesOfNat ((l.length + 7) / 8) (l.foldr (fun b n => 2 * n + boolNat b) 0)

/-- POOLMETA: the poison bits of the pool's granules, then the tag bits. -/
def poolMeta (m : Memory) (c : CoreId) : List Byte :=
  let bad := (m.poisonIn (poolAddr c 0) Config.poolBytes).map fun g => g - poolAddr c 0 / 32
  let tags := (m.tags.filter fun g => poolAddr c 0 / 16 ≤ g && g < poolAddr c 0 / 16 + 6144).map
    fun g => g - poolAddr c 0 / 16
  bytesOfNat 384 (bad.map fun g => 2 ^ g).sum ++ bytesOfNat 768 (tags.map fun g => 2 ^ g).sum

/-- The register block of a core, bytes 0 to 8,191 of Table 14.5, under a STATE word. -/
def blockBytes (s : State) (c : CoreId) (state : Nat) (merge : List Byte) : List Byte :=
  let k := s.core c
  let t := k.ctx
  bytesOfNat 8 state ++ List.replicate 56 0
    ++ (List.replicate 8 0 ++ (t.x.toList.drop 1).flatMap wordBytes) ++ t.shadow.toList.flatMap wordBytes
    ++ t.k.toList.flatMap capBytes ++ padTo 8 (packBits (t.k.toList.map (·.tag))) ++ List.replicate 8 0
    ++ (sysRegs s c).flatMap wordBytes ++ ([t.tcause, t.tvalue, t.tpc, t.tstatus]).flatMap wordBytes
    ++ bytesOfNat 8 (t.pc % 2 ^ 16 + t.level.num * 2 ^ 16 + (if t.space = .handler then 2 ^ 18 else 0))
    ++ wordBytes t.mstat ++ t.pending.toList.flatMap (fun p => bytesOfNat 2 p.toNat) ++ barrierBytes t
    ++ (List.range 8).flatMap (fun i => wordBytes (k.issued.getD i 0) ++ wordBytes (k.complete.getD i 0))
    ++ t.streams.toList.flatMap streamBytes
    ++ padTo 128 (t.events.flatMap fun e => wordBytes e.1 ++ wordBytes e.2)
    ++ t.binds.toList.flatMap bindBytes ++ bytesOfNat 2048 t.latch.toNat ++ padTo 384 merge ++ poolMeta s.mem c
    ++ remapBytes t.remap ++ List.replicate 2496 0

/-- The `i`-th word of a field of words. -/
def wordAt (l : List Byte) (off i : Nat) : Word := BitVec.ofNat 64 (fieldOf l (off + 8 * i) 8)

/-- `partition` from a context record: the split that its VREGS and ACC name, where they name one; else it stays as it was
(R4, R26, R330; log 51). -/
def reloadPartition (old new : Word) : Word :=
  let v := bitsOf new.toNat 12 2
  let a := bitsOf new.toNat 16 4
  if v = 3 ∨ 14 < a then old else partitionWord v a

/-- The bits of `ecause` and of `epc` that are not reserved (Tables 10.5, 10.14). -/
def causeMask : Word := 0x3FFFFFFF00
def returnMask : Word := 0xFFFC

/-- The context that bytes 0 to 4,479 of a register block hold (R325, R330), over what a block does not hold, the reserved bits of
its registers discarded (R4; log 51). A MODE of 5 to 7 in `round` stays, since R100 stops only an `srw` of it; Table 5.3 has no
such mode, and results then round as under mode 4 (DESIGN CHOICE, log 69). -/
def blockCtx (seq : Nat) (l : List Byte) (b : Ctx) : Ctx :=
  let es := fieldOf l 776 8
  let pcw := fieldOf l 848 8
  let bar := (l.drop 878).take 18
  { b with
    x := Vector.ofFn fun i : Fin 32 => if i.val = 0 then 0 else wordAt l 64 i
    shadow := Vector.ofFn fun i : Fin 8 => wordAt l 320 i
    k := Vector.ofFn fun i : Fin 16 => ⟨bit (fieldOf l 640 2) i, BitVec.ofNat 128 (fieldOf l (384 + 16 * i.val) 16)⟩
    round := wordAt l 656 0 &&& 0xF
    fflags := wordAt l 656 1 &&& 0x3F
    jord := wordAt l 656 2 &&& 7
    jfl := wordAt l 656 3 &&& 0xFFFFFFFFFF
    amax := Vector.ofFn fun i : Fin 4 => wordAt l 656 (4 + i) &&& 0xFFFFFFFF
    partition := reloadPartition b.partition (wordAt l 656 8)
    crewcoord := wordAt l 656 9 &&& 0x1FFFFFF
    bartimeout := wordAt l 656 14 &&& 0xFFFFFFFF
    fault := BitVec.ofNat 8 (bitsOf es 24 8)
    inev := bit es 19
    evec := wordAt l 656 16 &&& 0xFFFD
    ecause := wordAt l 656 17 &&& causeMask
    evalue := wordAt l 656 18
    epc := wordAt l 656 19 &&& returnMask
    pc := bitsOf pcw 0 16
    level := Level.ofNum (bitsOf pcw 16 2)
    space := if bit pcw 18 then .handler else .overlay
    mstat := wordAt l 856 0 &&& 0xF1FFFFFF0FFFFFFF
    pending := Vector.ofFn fun i : Fin 7 => BitVec.ofNat 16 (fieldOf l (864 + 2 * i.val) 2)
    arrival := if bit (fieldOf bar 0 1) 7 then some ⟨bitsOf (fieldOf bar 0 1) 0 2, fieldOf bar 1 5⟩ else none
    phase := fieldOf bar 6 4
    latchBad := BitVec.ofNat 64 (fieldOf bar 10 8)
    streams := Vector.ofFn fun i : Fin 8 => streamOfBytes seq ((l.drop (1024 + 96 * i.val)).take 96)
    events := (List.range (bitsOf es 20 4)).map fun i => (wordAt l 1792 (2 * i), wordAt l 1792 (2 * i + 1))
    binds := Vector.ofFn fun i : Fin 16 => bindOfBytes ((l.drop (1920 + 8 * i.val)).take 8)
    latch := BitVec.ofNat 16384 (fieldOf l 2048 2048) }

/-- The remap configuration of a register block. -/
def blockRemap (l : List Byte) : Option Remap :=
  if bit (fieldOf l 5648 1) 0 then
    some { mapt := ⟨bit (fieldOf l 5648 1) 1, BitVec.ofNat 128 (fieldOf l 5632 16)⟩, mode := fieldOf l 5652 4
           m := fieldOf l 5656 4, seed := BitVec.ofNat 32 (fieldOf l 5660 4), tlen := fieldOf l 5664 4 }
  else none

/-- The trap registers of a register block, their reserved bits discarded (R4, R322; log 51). -/
def blockTraps (l : List Byte) (b : Ctx) : Ctx :=
  { b with tcause := wordAt l 816 0 &&& 0x800000000000FFFF, tvalue := wordAt l 816 1, tpc := wordAt l 816 2
           tstatus := wordAt l 816 3 &&& 0x131 }

/-! ## Headers and tiles (R30, R36, R38, R244) -/

/-- A field of a header. -/
def hdrField (h : BitVec 512) (off len : Nat) : Nat := bitsOf h.toNat (8 * off) (8 * len)

/-- A field of a header, replaced. -/
def hdrPut (h : BitVec 512) (off len v : Nat) : BitVec 512 := BitVec.ofNat 512 (setBits h.toNat (8 * off) (8 * len) v)

/-- Fields 0 to 5: i, j, k, s, key0, key1 (Table 3.1, R36). -/
def matchField (h : BitVec 512) (f : Nat) : Nat :=
  if f < 4 then hdrField h (8 + 2 * f) 2 else hdrField h (16 + 8 * (f - 4)) 8

/-- The declaration of a species code. -/
def speciesOf (m : Image) (code : Nat) : Option Species := m.species.find? (·.code == code)

/-- The home unit's SGN (R36; in a channelled launch R257). -/
def homeOf (l : Launch) (h : BitVec 512) : Nat :=
  let sp := (speciesOf l.image (hdrField h 0 2)).getD ⟨0, 0, 0, false⟩
  let v := matchField h sp.home
  let n := ((l.vif * 65536 + sp.family) ^^^ (v % 2 ^ 32 ^^^ v / 2 ^ 32)) % max 1 l.units.length
  let byHash := l.units.getD n 0
  if l.channelled then
    ((l.stages.find? fun t => ((l.image.rules[t.rule]?).map (·.species)).getD []
      |>.any fun i => ((l.image.species[i]?).map (·.code)) == some sp.code).map (·.sgn)).getD byHash
  else byHash

/-- The youngest resident tile of a unit without a read-lock. -/
def youngestFree (ts : List Tile) : Option Tile :=
  ts.foldl (fun b t => if t.place = .resident ∧ t.locks = 0 then
    match b with
    | some c => if c.stamp < t.stamp then some t else b
    | none => some t
    else b) none

/-- Tiles that a unit holds resident. -/
def residents (u : CUnit) : Nat := (u.tiles.filter (·.place == .resident)).length

/-- The lowest index of a place of a unit that no tile has (log 52). -/
def freeSlot (u : CUnit) (p : Place) : Nat :=
  ((List.range Config.residentSlots).find? fun n => !u.tiles.any fun t => t.place == p && t.index == n).getD 0

/-- A tile put into a unit's store by R244: resident where there is room, else the youngest of the unlocked tiles and
this one goes to the backwater. -/
def putTile (u : CUnit) (t : Tile) : CUnit :=
  if residents u < Config.residentSlots then
    { u with tiles := u.tiles ++ [{ t with place := .resident, index := freeSlot u .resident }] }
  else match youngestFree u.tiles with
    | some y =>
      if t.stamp < y.stamp then
        { u with tiles := (u.tiles.map fun k => if k.id = y.id then { k with place := .backwater } else k)
            ++ [{ t with place := .resident, index := y.index }] }
      else { u with tiles := u.tiles ++ [{ t with place := .backwater }] }
    | none => { u with tiles := u.tiles ++ [{ t with place := .backwater }] }

/-- A tile back from escrow, with its stamp (R53): taken out of the list and put by R244. -/
def returnTile (u : CUnit) (id : Nat) : CUnit :=
  match u.tiles.find? (·.id == id) with
  | some t => putTile { u with tiles := u.tiles.filter (·.id != id) } t
  | none => u

/-- Tiles of a VIF in a unit's backwater. -/
def backwaterOf (u : CUnit) (v : Nat) : Nat := (u.tiles.filter fun t => t.place == .backwater && t.vif == v).length

/-- Headers of a VIF that find room at a unit: in the store or in the backwater (R246). -/
def roomFor (s : State) (v g : Nat) : Nat :=
  let u := s.unit g
  (Config.residentSlots - residents u) + (((s.vif v).map (·.p.bwCap)).getD 0 - backwaterOf u v)

/-- Consumed species of a rule. -/
def consumedSpecies (r : Rule) : List Nat :=
  ((List.range r.species.length).zip r.species).filterMap fun (p, i) => if bit r.cats p then none else some i

/-- Whether a channelled launch's queues let a header in: its number is below NEXT + QD of the stage that consumes its
species (R258). -/
def queueAdmits (l : Launch) (h : BitVec 512) : Bool :=
  !l.channelled || l.stages.all fun t =>
    match l.image.rules[t.rule]? with
    | some r => !((consumedSpecies r).any fun i => (l.image.species[i]?).map (·.code) == some (hdrField h 0 2))
        || decide (hdrField h 4 4 < t.next + r.qd)
    | none => true

/-- Whether one more tile of a VIF finds room at a unit, besides those on their way to it (R246). -/
def hasRoom (s : State) (v g : Nat) : Bool :=
  decide ((s.flying.filter fun f => f.sgn == g && f.held.isNone).length < roomFor s v g)

/-- Headers of a VIF in the transit buffer, and how many a VIF may still add (R247): from its reserve of 128, then from
the common 32,768. Headers of a held and acknowledged INJECT count too (R59). -/
def bufferUse (s : State) (v : Nat) : Nat :=
  (s.flying.filter fun f => f.held.isSome && f.vif == v).length
    + ((((s.vif v).map (·.injects)).getD []).map fun i => if i.acked then i.hdrs.length else 0).sum

def bufferFree (s : State) (v : Nat) : Nat :=
  let common := ((s.vifs.map fun f => bufferUse s f.p.id - 128)).sum
  (128 - bufferUse s v) + (32768 - common)

/-- Tiles set off for their home units (R36, R52, R59): each goes to its unit, or to the buffer where its unit or its queue
has no room for it (R247, R258). -/
def setOff (s : State) (l : Launch) (hs : List (BitVec 512 × Bool)) : State :=
  hs.foldl (fun s h =>
    let g := homeOf l h.1
    let held := if hasRoom s l.vif g && queueAdmits l h.1 then none else some s.seq
    { s with seq := s.seq + 1, flying := s.flying ++ [⟨l.vif, l.lid, h.1, h.2, g, held⟩] }) s

/-- What a unit keeps for a launch. -/
def unitLaunch (u : CUnit) (v lid : Nat) : UnitLaunch :=
  (u.launches.find? fun k => k.vif == v && k.lid == lid).getD ⟨v, lid, 0, 0, 0, false⟩

def setUnitLaunch (u : CUnit) (k : UnitLaunch) : CUnit :=
  { u with launches := upsert (fun j => j.vif == k.vif && j.lid == k.lid) k u.launches }

/-- ACT of a launch at a unit, set (R249). -/
def markAct (s : State) (g v lid : Nat) : State :=
  let u := s.unit g
  s.setUnit (setUnitLaunch u { unitLaunch u v lid with act := true })

/-! ## Device messages (R314, Tables 13.12, 13.13) -/

/-- A message: the 16-byte header, then the body. -/
def message (type : Nat) (tag : Word) (body : List Byte) : List Byte :=
  [BitVec.ofNat 8 type, 1, 0, 0] ++ bytesOfNat 4 body.length ++ wordBytes tag ++ body

/-- An ACK: the TYPE and TAG of the acknowledged message, the STATUS and the id. -/
def ackMessage (type status id : Nat) (tag : Word) : List Byte :=
  message 0x83 tag ([BitVec.ofNat 8 type, BitVec.ofNat 8 status] ++ bytesOfNat 2 id ++ List.replicate 4 0)

/-- An EVENT. -/
def eventMessage (kind lid value : Nat) : List Byte :=
  message 0x82 0 ([BitVec.ofNat 8 kind, 0] ++ bytesOfNat 2 lid ++ List.replicate 4 0 ++ bytesOfNat 8 value)

def Status.num : Status → Nat
  | .complete => 0 | .limit => 1 | .cancelled => 2 | .leaseFault => 3 | .routerReset => 4 | .aborted => 5

def LState.num : LState → Nat
  | .admitting => 1 | .running => 2 | .winding => 3 | .draining => 4 | .ended => 5

/-- Bytes of a VIF's memory in space 2 or 3, read by the delta die through the VIF's translation; nothing where a page
is missing. -/
def vifRead (s : State) (v : Vif) (space va n : Nat) : Option (List Byte) :=
  (translate (vifPage v space) (n + 1) va n).map fun ps =>
    ps.flatMap fun p => s.mem.read (if space = 2 then hbmAddr p.pa else captAddr p.pa) p.len

/-- The output digest (R316, R366). -/
def outputDigest (s : State) (v : Vif) (l : Launch) : List Byte :=
  let ls := (List.range l.leases.length).zip l.leases
  let out := ls.flatMap fun (n, r) =>
    if r.out then match v.leases.find? (·.id == r.id) with
      | some e =>
        let bs := ((vifRead s v e.space e.va e.len).getD [])
        let pads := l.image.pads.filter (·.1 == n)
        ((List.range bs.length).zip bs).filterMap fun (i, b) =>
          if pads.any fun p => p.2.1 ≤ i && i < p.2.1 + p.2.2 then none else some b
      | none => []
    else []
  sha256 out

/-- Bytes 0 to LENGTH − 1 of the rule image of a launch as memory has them (R365, R368). -/
def imageBytes (s : State) (v : Vif) (l : Launch) : List Byte :=
  (vifRead s v 2 l.imageVa (fieldOf ((vifRead s v 2 l.imageVa 64).getD []) 48 8)).getD []

/-- The hash of a launch's rule image (R368): that of the bytes that admission read, or of those that stand there when the launch
ends before (log 75). -/
def imageHashOf (s : State) (v : Vif) (l : Launch) : List Byte :=
  if l.imageHash.isEmpty then sha256 (imageBytes s v l) else l.imageHash

/-- COMPLETE (Table 13.13, R316). -/
def completeMessage (s : State) (v : Vif) (l : Launch) : List Byte :=
  let tail := if l.channelled then
      let d := outputDigest s v l
      d ++ sha256 (imageHashOf s v l ++ sha256 l.params ++ bytesOfNat 4 l.devices ++ d)
    else List.replicate 64 0
  message 0x81 l.tag (bytesOfNat 2 l.lid ++ [BitVec.ofNat 8 l.status.num] ++ List.replicate 5 0 ++ bytesOfNat 8 l.commits
    ++ bytesOfNat 8 l.drained ++ bytesOfNat 8 l.faultAddr ++ tail)

/-! ## Dead letters (R340, R341) -/

/-- A dead letter of a VIF: word, payload, reason, sender. The sender's core index has one byte, so that of a TSC, 256, reads 0 (log
44). -/
def deadLetter (s : State) (v : Nat) (word payload : Word) (reason : Nat) (sender : CoreId) : State :=
  match s.vif v with
  | none => s
  | some f =>
    let h := pinnedAddr v (f.p.saveBase + ringOffset)
    let written := s.mem.readNat h 8
    let rd := s.mem.readNat (h + 8) 8
    let full := (written + 2 ^ 64 - rd) % 2 ^ 64 == f.p.ringCap
    let entry := wordBytes word ++ wordBytes payload ++ bytesOfNat 2 reason ++ bytesOfNat 2 sender.sgn
      ++ padTo 12 (bytesOfNat 1 sender.idx)
    let m := if full then s.mem.writeNat (h + 16) 8 (s.mem.readNat (h + 16) 8 + 1)
      else s.mem.write (h + 64 + 32 * (written % f.p.ringCap)) entry []
    let s := { s with mem := m.writeNat h 8 (written + 1) }
    if written = rd then s.send v (eventMessage 2 0xFFFF (written + 1)) else s

/-! ## Numbers of timeline counters, and where failures are recorded (R197, R216, R220) -/

/-- One more failure, refusal or poisoned store in a fence record (R197): bit 0 dead link, 1 refused, 2 poison; the
first two count. -/
def pendingWith (p : BitVec 16) (b : Nat) : BitVec 16 :=
  let n := p.toNat
  let count := if b = 2 then n / 256 else min 255 (n / 256 + 1)
  BitVec.ofNat 16 (count * 256 + (n % 256 ||| 2 ^ b))

def markPending (c : Ctx) (level b : Nat) : Ctx :=
  { c with pending := c.pending.setIfInBounds level (pendingWith (c.pending.getD level 0) b) }

/-- C of a counter advanced over the numbers that have completed (R216). -/
def drainEarly : Nat → Nat → Word → List (Nat × Word) → Word × List (Nat × Word)
  | 0, _, c, l => (c, l)
  | f + 1, tl, c, l =>
    if l.contains (tl, c + 1) then drainEarly f tl (c + 1) (l.filter (· != (tl, c + 1))) else (c, l)

/-- Operation `n` of a counter completes, or is set aside (R216, R334). -/
def completeNum (k : Core) (tl : Nat) (n : Word) : Core :=
  let l := k.early ++ [(tl, n)]
  let (c, l) := drainEarly (l.length + 1) tl (k.complete.getD tl 0) l
  { k with complete := k.complete.setIfInBounds tl c, early := l }

/-- An operation is numbered and issued on a counter (R215 step 5). -/
def issueNum (k : Core) (tl : Nat) : Core × Word :=
  let n := k.issued.getD tl 0 + 1
  ({ k with issued := k.issued.setIfInBounds tl n }, n)

/-- Where the context record that holds record x of a core stands. -/
def evictedAt (s : State) (c : CoreId) (x : Nat) : Option Nat :=
  ((s.core c).evicted.find? (·.x == x)).bind fun e =>
    (s.vif e.vif).map fun f => pinnedAddr e.vif (f.p.saveBase + saveOffset c e.slot)

/-- A failure, refusal or poisoned store recorded for the agent that issued it (R197): in its core's context, or in its
context record while it is evicted; a reaction that has ended or is suspended keeps none. -/
def recordPending (s : State) (c : CoreId) (x : Option Nat) (level b : Nat) : State :=
  let k := s.core c
  if k.rx = x then s.setCore c { k with ctx := markPending k.ctx level b }
  else match x.bind (evictedAt s c) with
    | some a =>
      let off := a + 864 + 2 * level
      { s with mem := s.mem.writeNat off 2 (pendingWith (BitVec.ofNat 16 (s.mem.readNat off 2)) b).toNat }
    | none => s

/-- The same for a reaction under a generation; one that has ended has no record of it. -/
def recordFor (s : State) (c : CoreId) (x gen level b : Nat) : State :=
  if (s.reaction c.sgn x).map (·.gen) = some gen then recordPending s c (some x) level b else s

/-- FAULT bit TL of the reaction that issued a failed operation (R220): in `estatus` of its core's context, in its
context record, or in its reaction record. -/
def recordFault (s : State) (c : CoreId) (x gen tl : Nat) : State :=
  let k := s.core c
  let b : BitVec 8 := BitVec.ofNat 8 (2 ^ tl)
  match s.reaction c.sgn x with
  | none => s
  | some r =>
    if r.gen ≠ gen then s
    else if k.rx = some x then s.setCore c { k with ctx := { k.ctx with fault := k.ctx.fault ||| b } }
    else match evictedAt s c x with
      | some a => { s with mem := s.mem.writeNat (a + 779) 1 (s.mem.readNat (a + 779) 1 ||| 2 ^ tl) }
      | none => s.setReaction c.sgn { r with fault := r.fault ||| b }

/-! ## Messages that are settled, and spill rings (R175, R333, R335, R337, R340; log 53) -/

/-- A matrix command is settled: its number completes (R175). -/
def settleCmd (s : State) (m : MatrixCmd) : State :=
  if bit m.word.toNat 43 then
    s.setCore m.sender (completeNum (s.core m.sender) (bitsOf m.word.toNat 40 3) (BitVec.ofNat 64 m.num))
  else s

/-- A matrix command is refused (R175). -/
def refuseCmd (s : State) (m : MatrixCmd) : State :=
  let s := deadLetter s m.vif m.word m.word Cause.capPerm.code m.sender
  settleCmd (recordFor s m.sender m.x m.gen 3 1) m

/-- The status of a SEND whose core waits for it (R337). -/
def reply (s : State) (m : Mail) (status : Nat) : State :=
  let t := { s with cur := m.sender }
  if !bit m.word.toNat 61 || t.me.hold != .reply then s
  else match instrAt t with
    | some (.mboxSend d a) =>
      if t.x a.toNat = m.word then
        { (t.setMe { t.me with hold := .none }).retire d.toNat (BitVec.ofNat 64 status) with cur := s.cur }
      else s
    | _ => s

/-- What becomes of an item of a spill ring that its reaction can no longer take: with the context lost it is a dead letter
with ESCROW_LOST (R333); else a message is stale (R340), and a command or a transfer is refused (R175, R282). -/
def dropItem (lost : Bool) (s : State) : RingItem → State
  | .mail m => reply (deadLetter s m.vif m.word m.payload (if lost then Cause.escrowLost.code else Cause.stale.code) m.sender) m 1
  | .cmd m =>
    if lost then settleCmd (deadLetter s m.vif m.word m.word Cause.escrowLost.code m.sender) m else refuseCmd s m
  | .xfer t =>
    if lost then deadLetter s t.vif t.word (Config.openWord s.tick 5) Cause.escrowLost.code t.sender
    else recordFor s t.sender t.x t.gen 5 1

/-- Rows of a tile in a step mode (Table 8.1). -/
def tileRows (mode : Nat) : Nat := if mode = 7 then 16 else 32

/-- Bytes of an entry of a spill ring: a header of 64 bytes, and the payload rounded up to 64 (R335). -/
def itemBytes : RingItem → Nat
  | .mail _ => 128
  | .cmd m => 64 + 64 * tileRows (bitsOf m.word.toNat 45 3)
  | .xfer t => 64 + t.bytes.length

/-- Bytes of a spill ring (Table 14.5, SPILL). -/
def ringBytes : Nat := 24576

/-- Bytes that the spill ring of a core holds for record x, or would if the reaction were pre-empted now (R176). -/
def ringUse (k : Core) (x : Nat) : Nat :=
  ((k.ring.filter (·.x == x)).map fun e => itemBytes e.item).sum
    + ((k.cmds.filter (·.x == x)).map fun m => itemBytes (.cmd m)).sum

/-- The header of an entry of a spill ring (R335): which kind of message it is, who sent it for which VIF, its word, and what else
the kind has. Only its size is the spec's (DESIGN CHOICE, log 53). -/
def entryHeader (kind : Nat) (sender : CoreId) (vif : Nat) (w : Word) (rest : List Nat) : List Byte :=
  padTo 64 (bytesOfNat 8 (kind + vif * 2 ^ 8 + sender.sgn * 2 ^ 16 + sender.idx * 2 ^ 32) ++ wordBytes w ++ rest.flatMap (bytesOfNat 8))

/-- An entry of a spill ring as SPILL holds it: the header, then the payload. -/
def entryBytes : RingItem → List Byte
  | .mail m => entryHeader 1 m.sender m.vif m.word [] ++ padTo 64 (wordBytes m.payload)
  | .cmd m => entryHeader 2 m.sender m.vif m.word [m.x, m.gen, m.num, m.mode] ++ bytesOfNat (64 * tileRows (bitsOf m.word.toNat 45 3)) m.panel.toNat
  | .xfer t => entryHeader 3 t.sender t.vif t.word [t.x, t.gen, t.phase, t.seq] ++ t.bytes

/-- The place of SPILL in a context record (Table 14.5). -/
def spillOffset : Nat := 106496

/-- SPILL of the context record that holds an evicted reaction shows what its spill ring holds, in arrival order (Table 14.5, R335);
the rest of it reads zero. -/
def writeSpill (s : State) (c : CoreId) (x : Nat) : State :=
  match evictedAt s c x with
  | none => s
  | some a =>
    let bs := ((s.core c).ring.filter (·.x == x)).flatMap fun e => entryBytes e.item
    { s with mem := (s.mem.clear (a + spillOffset) ringBytes).write (a + spillOffset) (bs.take ringBytes) [] }

/-- A SEND that an interrupt ends is executed again whole (R337): the message that it waits for is taken back. -/
def takeBack (s : State) (c : CoreId) : State :=
  let mine := fun (m : Mail) => m.sender == c && bit m.word.toNat 61
  let kept := fun (e : RingEntry) => match e.item with
    | .mail m => !mine m
    | _ => true
  let t := { s with
    mails := s.mails.filter (!mine ·)
    cores := s.cores.map fun k => (k.1, { k.2 with ring := k.2.ring.filter kept }) }
  (s.cores.flatMap fun k => (k.2.ring.filter (!kept ·)).map fun e => (k.1, e.x)).foldl (fun t p => writeSpill t p.1 p.2) t

/-- An item goes to the spill ring of a core, for record x; nothing where the ring has no room (R335). -/
def ringPut (s : State) (c : CoreId) (x : Nat) (i : RingItem) : Option State :=
  let k := s.core c
  if ringUse k x + itemBytes i ≤ ringBytes then some (writeSpill (s.setCore c { k with ring := k.ring ++ [⟨x, i⟩] }) c x) else none

/-- The items that wait in the spill ring of a core for one reaction leave it so. -/
def dropRing (s : State) (c : CoreId) (x : Nat) (lost : Bool) : State :=
  let k := s.core c
  (k.ring.filter (·.x == x)).foldl (fun s e => dropItem lost s e.item) (s.setCore c { k with ring := k.ring.filter (·.x != x) })

/-! ## The end of reactions and launches (R52, R53, R61, R62) -/

/-- A core leaves its reaction: idle, unless it is out of use (R47, R50). -/
def Core.leave (k : Core) : Core :=
  { k with
    ctx := { Ctx.init with partition := k.ctx.partition, level := k.ctx.level, space := k.ctx.space, pc := k.ctx.pc }
    saved := none, rx := none, hold := .none, preempted := false, overflow := []
    run := if k.run = .outOfUse then .outOfUse else .idle }

/-- The resident handler has the core (R329). -/
def Core.inHandler (k : Core) : Bool := k.run == .running && k.ctx.level == .machine

/-- A core loses its reaction: a resident handler that has it goes on without one, and without its mailbox bindings (R336). -/
def Core.lose (k : Core) : Core :=
  if k.inHandler then
    { k with saved := none, rx := none, preempted := false, overflow := []
             ctx := { k.ctx with binds := Vector.replicate 16 none } }
  else k.leave

/-- Every core of an SG that holds record x loses it with its pinned lines and what waits for it, and context records that
hold it are free (R53, R286, R332, R340). -/
def freeCores (s : State) (g x : Nat) : State :=
  let gone := s.cores.flatMap fun c => if c.1.sgn = g then (c.2.evicted.filter (·.x == x)).map fun e => (c.1, e) else []
  let m := gone.foldl (fun m p => match s.vif p.2.vif with
    | some f => m.writeNat (pinnedAddr p.2.vif (f.p.saveBase + saveOffset p.1 p.2.slot)) 1 0
    | none => m) s.mem
  let s := { s with
    mem := m
    cores := s.cores.map fun (c : CoreId × Core) =>
      if c.1.sgn = g then
        let k := { c.2 with evicted := c.2.evicted.filter (·.x != x), ibufPins := c.2.ibufPins.filter (·.1 != x) }
        (c.1, if k.rx = some x then k.lose else k)
      else c }
  (s.cores.filter fun c => c.1.sgn == g && c.2.ring.any (·.x == x)).foldl (fun s c => dropRing s c.1 x false) s

/-- Whether stores of a reaction are in flight (R191). -/
def storesOut (s : State) (g : Nat) (r : Reaction) : Bool := s.stores.any fun f => f.core.sgn == g && f.x == some r.x

/-- Whether operations of a reaction are outstanding, matrix commands with TLE among them, and merges set
aside by an eviction not (R177, R191, R334). -/
def opsOut (s : State) (g : Nat) (r : Reaction) : Bool :=
  (s.ops.any fun o => o.core.sgn == g && o.x == r.x && o.gen == r.gen && !o.setAside)
    || s.cores.any fun c => c.1.sgn == g
      && (c.2.cmds ++ c.2.cmdOut.toList).any fun m => bit m.word.toNat 43 && m.x == r.x && m.gen == r.gen

/-- A record is free again, under the next generation (R44, R56). Merges of the reaction that an eviction set aside, which
only its resumption would have run (R334), are dropped with it: R191 has an abort wait for every operation, and no rule
says that it waits for these (log 16, DESIGN CHOICE). -/
def freeRecord (s : State) (g : Nat) (r : Reaction) : State :=
  let s := freeCores s g r.x
  let mine := fun (o : EngineOp) => o.core.sgn == g && o.x == r.x && o.gen == r.gen && o.setAside
  let s := { s with
    bars := s.bars.filter fun b => !(b.wire < 3 && b.sgn == g && b.x == r.x)
    ops := s.ops.filter (!mine ·) }
  let u := s.unit g
  s.setUnit { u with
    reactions := u.reactions.filter (·.x != r.x)
    gens := upsert (·.1 == r.x) (r.x, (r.gen + 1) % 2 ^ 16) u.gens }

/-- Read-locks of a reaction, released (R52, R53). -/
def unlock (u : CUnit) (r : Reaction) : CUnit :=
  let cats := (r.reactants.filter (·.cat)).map (·.tile)
  { u with tiles := u.tiles.map fun t => if cats.contains t.id then { t with locks := t.locks - 1 } else t }

/-- The moves to the backwater of a unit between two states, charged to the HBM weirs of their VIFs (R245). -/
def chargeMoves (was now : State) (g : Nat) : State :=
  was.vifs.foldl (fun s f =>
    charge s f.p.id 1 (64 * (backwaterOf (now.unit g) f.p.id - backwaterOf (was.unit g) f.p.id))) now

/-- Whether the HBM weir of a VIF lets its own moves to the backwater of a unit between two states be made (R295): what it sets
off for another VIF's tiles goes with it, and is charged (log 70). -/
def movesOpen (was now : State) (g v : Nat) : Bool :=
  backwaterOf (now.unit g) v ≤ backwaterOf (was.unit g) v || weirOpen was v 1

/-- A unit after the abort step of a reaction (R53): reactants and read-locks are as before the match. -/
def returnReactants (u : CUnit) (r : Reaction) : CUnit :=
  (r.reactants.filter (!·.cat)).foldl (fun u t => returnTile u t.tile) (unlock u r)

/-- Whether the abort step of a reaction makes no move to the backwater that its VIF's exhausted weir holds (R295). -/
def abortOpen (s : State) (g : Nat) (r : Reaction) : Bool := movesOpen s (s.setUnit (returnReactants (s.unit g) r)) g r.vif

/-- The abort step of a reaction (R53). -/
def abortStep (s : State) (g : Nat) (r : Reaction) : State :=
  let u := returnReactants (s.unit g) r
  markAct (freeRecord (chargeMoves s (s.setUnit u) g) g r) g r.vif r.lid

/-- Every reaction of a launch, with the SGN of its unit. -/
def reactionsOf (s : State) (v lid : Nat) : List (Nat × Reaction) :=
  s.units.flatMap fun u => (u.reactions.filter fun r => r.vif == v && r.lid == lid).map fun r => (u.sgn, r)

/-- Whether a core holds the reaction: it runs there, or is pre-empted in place. -/
def onCore (s : State) (g x : Nat) : Bool := s.cores.any fun c => c.1.sgn == g && c.2.rx == some x

/-- `tstatus` at an entry that leaves a context (Table 14.2). -/
def statusWord (c : Ctx) : Word :=
  BitVec.ofNat 64 (c.level.num + (if c.space = .handler then 2 ^ 4 else 0) + (if c.inev then 2 ^ 5 else 0))

/-- A core enters its resident handler (R321, R329): the register block goes to the context area, and machine level starts
at offset 0 with the registers as they are (log 11). -/
def Core.enterMachine (k : Core) (cause : Nat) (value : Word) : Core :=
  { k with
    saved := some k.ctx, hold := .none
    mcause := BitVec.ofNat 64 cause, mvalue := value, mpc := BitVec.ofNat 64 k.ctx.pc, mstatus := statusWord k.ctx
    ctx := { k.ctx with pc := 0, level := .machine, space := .handler, inev := false } }

/-- The code that `mcause` has for an interrupt (Table 14.2, Table 14.4). -/
def interruptCause (code : Nat) : Nat := 2 ^ 63 + code

/-- Interrupt codes (Table 14.4). -/
def preemptCode : Nat := 1
def switchCode : Nat := 2
def windCode : Nat := 3

/-- A `wfe` that ends (R345): the core goes on at the next instruction. -/
def Core.wake (k : Core) : Core :=
  if k.hold = .wfe then { k with hold := .none, ctx := { k.ctx with pc := k.ctx.pc + 4 } } else k

/-- What a core waits in ends for an interrupt: a waiting form will be executed again whole (R289, R329), a `commit` with
them while its reaction runs; a `wfe` or `pause` is over (R254, R345). The load of an overlay and a shoot-down go on. -/
def endWait (s : State) (c : CoreId) : State :=
  let k := s.core c
  let on := s.setCore c { k with hold := .none }
  match k.hold with
  | .none => s
  | .overlay => s
  | .sdown => s
  | .wfe => s.setCore c k.wake
  | .pause => s.setCore c { k with hold := .none, ctx := { k.ctx with pc := k.ctx.pc + 4 } }
  | .reply => takeBack on c
  | .ending => match k.rx.bind (s.reaction c.sgn) with
    | some r => if r.state = .running then on.setReaction c.sgn { r with committed := r.committed.filter (· != c.idx) } else on
    | none => on
  | _ => on

/-- A core is interrupted (R329). At machine level the interrupt is held, and ends a `wfe` (R345). -/
def interruptCore (s : State) (c : CoreId) (code : Nat) : State :=
  let k := s.core c
  if k.irqs.contains code then s
  else
    let s := s.setCore c { k with irqs := k.irqs ++ [code] }
    if k.ctx.level = .machine then s.setCore c (s.core c).wake else endWait s c

/-- Interrupt WIND reaches the cores that hold a reaction (Table 14.4, R344). -/
def windCores (s : State) (g x : Nat) : State :=
  (s.cores.filter fun c => c.1.sgn == g && c.2.rx == some x).foldl (fun s c => interruptCore s c.1 windCode) s

/-- A launch's tiles, discarded (R62). -/
def discardTiles (s : State) (v lid : Nat) : State :=
  { s with
    units := s.units.map fun u => { u with tiles := u.tiles.filter fun t => !(t.vif == v && t.lid == lid) }
    flying := s.flying.filter fun f => !(f.vif == v && f.lid == lid) }

/-- Whether a launch that has not ended names a lease of its VIF (R304). -/
def leaseInUse (s : State) (v id : Nat) : Bool :=
  s.launches.any fun l => l.vif == v && l.state != .ended && l.leases.any (·.id == id)

/-- Whether two ranges of a space have a common byte. -/
def rangesMeet (a n b m : Nat) : Bool := a < b + m && b < a + n

/-- Whether a page of a VIF backs a resident lease (R302). -/
def backsLease (ls : List Lease) (p : PageMap) : Bool :=
  ls.any fun e => e.resident && e.space == p.space && rangesMeet e.va e.len p.va p.size

/-- Revokes take effect once no launch names their lease (R304): its pages go, but for those that back a lease still held. -/
def settleRevokes (s : State) (v : Nat) : State :=
  match s.vif v with
  | none => s
  | some f =>
    let due := f.leases.filter fun e => e.resident && !e.revokes.isEmpty && !leaseInUse s v e.id
    let kept := f.leases.filter fun e => !(due.any (·.id == e.id))
    let f := { f with leases := kept, pages := f.pages.filter fun p => !backsLease due p || backsLease kept p }
    due.foldl (fun s e => e.revokes.foldl (fun s t => s.send v (ackMessage 4 0 e.id t)) s) (s.setVif f)

/-- The number of the newest version of a VIF's table. -/
def Vif.newest (f : Vif) : Nat := (f.shards.map (·.1)).foldl max 0

/-- A version of a VIF's table by its number. -/
def Vif.table (f : Vif) (n : Nat) : ShardTable := ((f.shards.find? (·.1 == n)).map (·.2)).getD ⟨[], []⟩

/-- Versions of the sharding table that a launch still reads, and the newest (R312). -/
def liveShards (s : State) (f : Vif) : List (Nat × ShardTable) :=
  let newest := f.newest
  f.shards.filter fun t => t.1 == newest
    || s.launches.any fun l => l.vif == f.p.id && l.shards == t.1 && l.state != .ended && l.state != .admitting

/-- A table with an update made (R310). -/
def ShardTable.put (t : ShardTable) : TableUpdate → ShardTable
  | .entry e => { t with entries := upsert (·.tensor == e.tensor) e t.entries }
  | .peer d w => { t with peers := upsert (·.1 == d) (d, w) t.peers }

/-- What the ACK of an update names. -/
def TableUpdate.id : TableUpdate → Nat
  | .entry e => e.tensor
  | .peer _ _ => 0

/-- One more version of a VIF's table, with an update made (R312). -/
def addShard (f : Vif) (u : TableUpdate) : Vif := { f with shards := f.shards ++ [(f.newest + 1, (f.table f.newest).put u)] }

/-- Sharding updates that wait are made and acknowledged in order while a version is free (R312). -/
def makeUpdates (s : State) (v : Nat) : Nat → State
  | 0 => s
  | n + 1 =>
    match s.vif v with
    | none => s
    | some f =>
      let f := { f with shards := liveShards s f }
      match f.updates with
      | (tag, u) :: rest =>
        if f.shards.length < 4 then
          makeUpdates ((s.setVif { addShard f u with updates := rest }).send v (ackMessage 4 0 u.id tag)) v n
        else s.setVif f
      | [] => s.setVif f

/-- The same for all that wait. -/
def settleShards (s : State) (v : Nat) : State := makeUpdates s v (((s.vif v).map (·.updates.length)).getD 0 + 1)

/-- INJECTs that wait for a launch are discarded when it ends; those not accepted are refused with ENDED (R61, R314). -/
def dropInjects (s : State) (v lid : Nat) : State :=
  match s.vif v with
  | none => s
  | some f =>
    let mine := f.injects.filter (·.lid == lid)
    let s := s.setVif { f with injects := f.injects.filter (·.lid != lid) }
    (mine.filter (!·.acked)).foldl (fun s i => s.send v (ackMessage 2 4 lid i.tag)) s

/-- The id that stands for no launch. -/
def noLid : Nat := 2 ^ 16

/-- Reactions of launches that have ended leave their records once their stores and operations are done (R191, R351). -/
def settleEnded (s : State) : State :=
  (s.units.flatMap fun u => (u.reactions.filter (·.lid == noLid)).map fun r => (u.sgn, r)).foldl (fun s p =>
    if storesOut s p.1 p.2 || opsOut s p.1 p.2 then s else freeRecord s p.1 p.2) s

/-- A reaction whose launch has ended stops without the step of R53: its cores take interrupt WIND at the boundary at which
they stand, and have no reaction any more (R344). Table 3.8 has no arrow for one that is still MATCHED as its launch ends at once
(LEASE_FAULT, ROUTER_RESET): its record is freed with it (DESIGN CHOICE, log 12). -/
def stopReaction (s : State) (g : Nat) (r : Reaction) : State :=
  let stop := fun (k : Core) =>
    if k.run = .running ∧ k.ctx.level ≠ .machine then (k.enterMachine (interruptCause windCode) 0).lose else k.lose
  let s : State := { s with cores := s.cores.map fun c => if c.1.sgn = g ∧ c.2.rx = some r.x then (c.1, stop c.2) else c }
  s.setReaction g { r with
    lid := noLid, state := if r.state = .matched then .matched else .ending, live := [], aborting := true }

/-- A launch ends (Table 3.10): its basin is discarded and its reactions stop (R344), COMPLETE goes out (R62), and what waited
for the end takes effect. -/
def finishLaunch (s : State) (l : Launch) (status : Status) (addr : Nat) : State :=
  let l := { l with state := .ended, status := status, faultAddr := addr, toDrain := [] }
  let s := discardTiles (s.setLaunch l) l.vif l.lid
  let s := settleEnded ((reactionsOf s l.vif l.lid).foldl (fun s p => stopReaction s p.1 p.2) s)
  let s := { s with
    units := s.units.map fun u => { u with launches := u.launches.filter fun k => !(k.vif == l.vif && k.lid == l.lid) }
    slots := s.slots.map fun t => if t.vif = l.vif ∧ t.lid = l.lid then { t with lid := noLid } else t
    xfers := s.xfers.filter fun x => !(x.vif == l.vif && x.lid == l.lid)
    bars := s.bars.filter fun b => !(b.vif == l.vif && b.lid == l.lid) }
  let s := dropInjects s l.vif l.lid
  let s := match s.vif l.vif with
    | some f => (s.setVif { f with buffers := f.buffers.filter (·.1 != l.lid) }).send l.vif (completeMessage s f l)
    | none => s
  settleShards (settleRevokes s l.vif) l.vif

/-- Tiles of a launch that a drain sends, in the order of R62. R62 orders a channelled drain by species and SEQ and leaves
open how tiles of one species with equal SEQ follow one another: here by unit number and then age (DESIGN CHOICE,
log 54). -/
def drainOrder (s : State) (l : Launch) : List (BitVec 512) :=
  let outlet := fun (h : BitVec 512) => ((speciesOf l.image (hdrField h 0 2)).map (·.outlet)).getD false
  let ofUnit := fun g => sortBy (fun a b => a.stamp ≤ b.stamp) ((s.unit g).tiles.filter fun t => t.vif == l.vif
    && t.lid == l.lid && t.place != .escrow && outlet t.hdr)
  if l.channelled then
    let all := l.units.flatMap ofUnit
    l.image.species.flatMap fun sp => (sortBy (fun a b => hdrField a.hdr 4 4 ≤ hdrField b.hdr 4 4)
      (all.filter fun t => hdrField t.hdr 0 2 == sp.code)).map (·.hdr)
  else (l.units.flatMap ofUnit).map (·.hdr)

/-- A launch enters DRAINING (R62); with nothing to drain it ends in the same step. -/
def startDrain (s : State) (l : Launch) : State :=
  let l := { l with state := .draining, toDrain := drainOrder s l }
  let s := discardTiles (s.setLaunch l) l.vif l.lid
  if l.toDrain.isEmpty then finishLaunch s l l.status l.faultAddr else s

/-- Whether a launch is in WINDING and its live reactions have all aborted (Table 3.10). -/
def woundDown (s : State) (l : Launch) : Bool := l.state == .winding && (reactionsOf s l.vif l.lid).isEmpty

/-- A launch bound for ABORTED ends once it has wound down; any other then drains, at a `DRAIN_WRITE` (Table 3.10). -/
def settleWinding (s : State) (v lid : Nat) : State :=
  match s.launch v lid with
  | some l => if woundDown s l ∧ l.status = .aborted then finishLaunch s l .aborted l.faultAddr else s
  | none => s

/-- A launch enters WINDING, bound for a status (R61). A reaction that a core holds aborts at its next instruction boundary,
by interrupt WIND (Table 14.4). One that is suspended or evicted aborts at once (R53), or once its operations are done
(R191) and its reactants find room (R295). One that is MATCHED is picked up first (Table 3.8). -/
def enterWinding (s : State) (l : Launch) (status : Status) (addr : Nat) : State :=
  let s := s.setLaunch { l with state := .winding, status := status, faultAddr := addr }
  let s := (reactionsOf s l.vif l.lid).foldl (fun s p =>
    if onCore s p.1 p.2.x then windCores s p.1 p.2.x
    else if p.2.state = .matched then s
    else if storesOut s p.1 p.2 || opsOut s p.1 p.2 || !abortOpen s p.1 p.2 then
      s.setReaction p.1 { p.2 with state := .ending, aborting := true }
    else abortStep s p.1 p.2) s
  settleWinding s l.vif l.lid

/-! ## Taking an exception and returning from it (R321 to R328) -/

/-- The register state of R46, over what a context keeps: `crewcoord` and `partition`. -/
def Ctx.fresh (c : Ctx) : Ctx := { Ctx.init with crewcoord := c.crewcoord, partition := c.partition }

/-- The steward's `k14`: its frame (R324). -/
def frameCap (p : VifParams) (c : CoreId) : Cap :=
  Cap.range 2 (permLoad + permStore + permLoadK + permStoreK) (p.saveBase + saveOffset c 2) 8192

/-- The steward's `k15`: the dead-letter ring (R324, R341). -/
def ringCap (p : VifParams) : Cap :=
  Cap.range 2 (permLoad + permStore + permLoadK + permStoreK + permDerive) (p.saveBase + ringOffset) (64 + 32 * p.ringCap)

/-- Where a register block holds a capability: `k0` to `k15`, then the base capabilities of `q0` to `q7`. -/
def capPlaces (t : Ctx) : List (Nat × Bool) :=
  ((List.range 16).map fun i => (384 + 16 * i, (t.getK i).tag))
    ++ (List.range 8).map fun i => (1088 + 96 * i, (t.streams.getD i StreamReg.closed).base.tag)

/-- Memory with a context's register block at `a`, and the tag of each of its capabilities beside it (R296; log 49). -/
def putBlock (m : Memory) (a : Nat) (block : List Byte) (t : Ctx) : Memory :=
  (capPlaces t).foldl (fun m p => if p.2 then m.setTag (a + p.1) else m) (m.write a block [])

/-- A context read from a register block at `a`, whose capabilities are tagged only where memory is (R296; log 49). -/
def Ctx.keepTags (t : Ctx) (m : Memory) (a : Nat) : Ctx :=
  let keep := fun (c : Cap) (off : Nat) => ({ c with tag := c.tag && m.tagAt (a + off) } : Cap)
  { t with
    k := Vector.ofFn fun i : Fin 16 => keep (t.getK i) (384 + 16 * i.val)
    streams := Vector.ofFn fun i : Fin 8 =>
      let q := t.streams.getD i StreamReg.closed
      { q with base := keep q.base (1088 + 96 * i.val) } }

/-- The STATE word of a context record (Table 14.5). -/
def recordState (c : CoreId) (r : Reaction) (state : Nat) : Nat :=
  state + r.gen * 2 ^ 16 + r.x * 2 ^ 32 + c.sgn * 2 ^ 48 + r.vif * 2 ^ 56

/-- The STATE word of the steward frame: that of a saved context of the running reaction (R324, R332; log 9). -/
def frameState (s : State) : Nat := (s.myReaction.map fun r => recordState s.cur r 1).getD 0

/-- Where the steward frame of the current core stands (R332). -/
def frameAddr (s : State) : Nat :=
  let p := ((s.myVif.bind s.vif).map (·.p)).getD default
  pinnedAddr p.id (p.saveBase + saveOffset s.cur 2)

/-- Entry to the steward (R324): the register block goes to the frame, and the supervisor starts at offset 0. The
pool, the counters, the mailbox bindings and the remap configuration stay with the core (log 9); all else is as R46 says, `jord`
and `jfl` with it (log 55). -/
def stewardEntry (s : State) (cause : Cause) (value : Word) : State :=
  let t := s.ctx
  let p := ((s.myVif.bind s.vif).map (·.p)).getD default
  let s := { s with mem := putBlock s.mem (frameAddr s) (blockBytes s s.cur (frameState s) []) t }
  s.setMe { s.me with hold := .none, ctx := { t.fresh with
    k := ((Vector.replicate 16 Cap.null).setIfInBounds 14 (frameCap p s.cur)).setIfInBounds 15 (ringCap p)
    tcause := BitVec.ofNat 64 cause.code, tvalue := value, tpc := BitVec.ofNat 64 t.pc, tstatus := statusWord t
    pc := 0, level := .supervisor, space := .handler, binds := t.binds, remap := t.remap
    below := some ⟨t.pc, t.space, t.streams⟩ } }

/-- Entry of the current core to its resident handler (R321, R329). -/
def machineEntry (s : State) (cause : Nat) (value : Word) : State := s.setMe (s.me.enterMachine cause value)

/-- Merges of a reaction on a core that the tree set aside rejoin its queue at the back (R334). -/
def rejoin (s : State) (c : CoreId) (x : Nat) : State :=
  let mine := fun (o : EngineOp) => o.core == c && o.x == x && o.deferred
  { s with ops := s.ops.filter (!mine ·) ++ (s.ops.filter mine).map fun (o : EngineOp) => { o with deferred := false } }

/-- A reaction begins to abort: every member stops at once, between two instructions (R51, R272); a resident handler that has
a member's core goes on. -/
def beginAbort (s : State) (g : Nat) (r : Reaction) : State :=
  let s := s.setReaction g { r with state := .ending, aborting := true }
  let mine := s.cores.filter fun c => c.1.sgn == g && c.2.rx == some r.x
  let s := mine.foldl (fun s c => rejoin s c.1 r.x) s
  { s with cores := s.cores.map fun c =>
      if c.1.sgn = g ∧ c.2.rx = some r.x ∧ !c.2.inHandler then (c.1, { c.2 with hold := .ending }) else c }

/-- A reaction whose context is lost ends with the step of R53, once its stores and operations are done (R333, R191). -/
def loseReaction (s : State) (g : Nat) (r : Reaction) : State :=
  if storesOut s g r || opsOut s g r || !abortOpen s g r then beginAbort s g r
  else settleWinding (abortStep s g r) r.vif r.lid

/-- A double trap (R328): the core stops and stays out of use, which its TSC reports to Primin; its reaction ends as a lost
context, with what its spill ring holds (R333). -/
def doubleTrap (s : State) : State :=
  let s' := s.setMe { s.me with run := .outOfUse, hold := .none }
  let s' := { s' with primin := { s'.primin with reports := s'.primin.reports ++ [s.cur] } }
  match s.myReaction with
  | some r => loseReaction (dropRing s' s.cur r.x true) s.cur.sgn r
  | none => s'

/-- Taking a trap: where it goes depends on the level at which it is raised (R321). R328 has PPRIV of `mstatus` show whether an entry is
unfinished; here every trap at machine level is a double trap, one on a TSC too that has run there since BRING-UP with no entry, since no
rule gives it another place to go (DESIGN CHOICE, log 86). -/
def takeTrap (s : State) (cause : Cause) (value : Word) : State :=
  match s.ctx.level with
  | .user => stewardEntry s cause value
  | .supervisor => machineEntry s cause.code value
  | .machine => doubleTrap s

/-- An access outside every lease (R303): the trap is taken at machine level, with the address in `mvalue`, and the
launch ends with LEASE_FAULT. -/
def takeLeaseFault (s : State) (va : Nat) : State :=
  let l := s.myLaunch
  let s := if s.ctx.level = .machine then doubleTrap s else machineEntry s Cause.leaseFault.code (BitVec.ofNat 64 va)
  match l with
  | some l => if l.state = .ended then s else finishLaunch s l .leaseFault va
  | none => s

/-- The spill-ring entries of commands that wait in the queue of a core for record x (R176). -/
def ringCmds (k : Core) (x : Nat) : List RingEntry := (k.cmds.filter (·.x == x)).map fun m => ⟨x, .cmd m⟩

/-- Commands that wait in the queue of a core for the reaction that it is interrupted in go to its spill ring (R176). -/
def Core.spillCmds (k : Core) (x : Nat) : Core :=
  { k with ring := k.ring ++ ringCmds k x, cmds := k.cmds.filter (·.x != x) }

/-- The current core's reaction is PRE-EMPTED (Table 3.8). -/
def preemptMe (s : State) : State :=
  match s.myReaction with
  | some r =>
    let s := if r.state = .running then s.setReaction s.cur.sgn { r with state := .preempted } else s
    s.setMe { s.me.spillCmds r.x with preempted := true }
  | none => s

/-- An interrupt with a code of Table 14.4 enters the resident handler (R329). WIND has the reaction abort (Table 3.10); any
other pre-empts it. -/
def takeInterrupt (s : State) (code : Nat) : State :=
  if code = windCode then
    let t := machineEntry s (interruptCause code) 0
    match t.myReaction with
    | some r => if r.aborting then t else beginAbort t s.cur.sgn r
    | none => t
  else machineEntry (preemptMe s) (interruptCause code) 0

/-- Whether a member of a reaction is pre-empted, in place or evicted. -/
def anyPreempted (s : State) (g x : Nat) : Bool :=
  s.cores.any fun c => c.1.sgn == g && ((c.2.rx == some x && c.2.preempted) || c.2.evicted.any (·.x == x))

/-- A reaction none of whose members is pre-empted runs again (Table 3.8). -/
def markRunning (s : State) (g x : Nat) : State :=
  match s.reaction g x with
  | some r => if r.state = .preempted && !anyPreempted s g x then s.setReaction g { r with state := .running } else s
  | none => s

/-- The current core goes on with the reaction that it was interrupted in: its merges rejoin the tree's queue (R334), and a
member of a reaction that ends meanwhile waits for that end (R51). -/
def resumeMe (s : State) : State :=
  let s := s.setMe { s.me with preempted := false }
  match s.myReaction with
  | some r =>
    let s := rejoin (markRunning s s.cur.sgn r.x) s.cur r.x
    if r.state = .ending && s.me.irqs.isEmpty then s.setMe { s.me with hold := .ending } else s
  | none => s

/-- What a meaning answers. -/
abbrev Out : Type := Host.Outcome State Fault Refusal

/-- How a meaning ends: a state, a trap taken, a hold, or a stop of the model. -/
def conclude (s : State) : Res State → Out
  | .ok t => .next t
  | .error (.trap c v) => .next (takeTrap s c v)
  | .error (.lease va) => .next (takeLeaseFault s va)
  | .error (.hold t) => .next t
  | .error (.fault f) => .fault f
  | .error (.refuse r) => .refused r
  | .error (.missing _) => .next s

/-- Two fence records put together (R197): bits by OR, counts by a given rule. -/
def mergePending (count : Nat → Nat → Nat) (a b : Vector (BitVec 16) 7) : Vector (BitVec 16) 7 :=
  Vector.ofFn fun i : Fin 7 =>
    let p := (a.getD i 0).toNat
    let q := (b.getD i 0).toNat
    BitVec.ofNat 16 ((p % 256 ||| q % 256) + min 255 (count (p / 256) (q / 256)) * 256)

/-- What a reload from the steward frame leaves as the core has it now: the failures, events and fence records that have arisen
since the entry are added to those of the block (log 9), and the split stays (R26). -/
def mergeFrame (t now : Ctx) : Ctx :=
  { t with fault := t.fault ||| now.fault, events := t.events ++ now.events
           pending := mergePending (· + ·) t.pending now.pending, partition := now.partition }

/-- The same for the context area, of which the core's context has gone on as a copy (log 9, log 11). -/
def mergeArea (t now : Ctx) : Ctx :=
  { t with fault := t.fault ||| now.fault, events := now.events, pending := mergePending max t.pending now.pending
           phase := now.phase }

/-- The level and code space that a status word returns to (Table 14.2). -/
def returnTo (status : Word) : Level × CodeSpace :=
  (Level.ofNum (bitsOf status.toNat 0 2), if bit status.toNat 4 then .handler else .overlay)

/-- The length of a code space for the current core. -/
def lengthOf (s : State) (sp : CodeSpace) : Nat := (s.setCtx { s.ctx with space := sp }).codeLength

/-- Whether the entry that a level holds was taken at an offset of a code space (R322). -/
def enteredAt (s : State) (target : Nat) (sp : CodeSpace) : Bool :=
  if s.ctx.level = .machine then s.me.saved.any fun t => t.pc == target && t.space == sp
  else s.ctx.below.any fun b => b.pc == target && b.space == sp

/-- Whether a return may go to an offset of a code space: inside it, or to its end where the entry was taken there, as the trap of a
run past the last word is: the trap is then taken again (R78, R119). -/
def returnOk (s : State) (target : Nat) (sp : CodeSpace) : Bool :=
  target < lengthOf s sp || (target == lengthOf s sp && enteredAt s target sp)

/-- Whether stores of the agent that runs are in flight to the steward frame, which a return would read or a later entry
overlay (R192). -/
def frameBusy (s : State) : Bool :=
  ownOut s s.seq [hbmLoc s.cur (frameAddr s) (frameAddr s) 8192]

/-- The return of `tret` with END = 0 (R325): from supervisor level the register block of the steward frame, from
machine level that of the context area; then PEV into INEV, and on at the saved pc in the saved level and space. -/
def returnFrom (s : State) (i : Instr) : Res State :=
  let now := s.ctx
  let (pcw, status) := if now.level = .machine then (s.me.mpc, s.me.mstatus) else (now.tpc, now.tstatus)
  let target := pcw.toNat / 4 * 4
  let (lv, sp) := returnTo status
  if !returnOk s target sp then trap .illegal (encodingOf i)
  else if frameBusy s then .error (.hold s)
  else if now.level = .machine then
    let t := match s.me.saved with
      | some t => mergeArea t now
      | none => now
    .ok (resumeMe (s.setMe { s.me with
      saved := none
      ctx := { t with inev := bit status.toNat 5, pc := target, level := lv, space := sp } }))
  else
    let a := frameAddr s
    let b := s.mem.read a 8192
    let t := mergeFrame (blockTraps b ((blockCtx s.seq b now).keepTags s.mem a)) now
    let t := { t with
      below := none
      streams := reloadStreams ((now.below.map Below.streams).getD (Vector.replicate 8 StreamReg.closed)) t.streams }
    .ok (s.setCtx { t with inev := bit status.toNat 5, pc := target, level := lv, space := sp })

end Sys2Proof.Machine
end

