-- ==== Sys2Proof/Machine/Flags.lean ====
section
/-! DEFINITION. Flags: `fflags`, `jfl`, the running maxima and the fence records. -/

namespace Sys2Proof.Machine

/-- Flags that an instruction raises are ORed into `fflags` (R101). -/
def setFlags (s : State) (f : Nat) : State :=
  s.setCtx { s.ctx with fflags := s.ctx.fflags ||| BitVec.ofNat 64 (f % 64) }

/-- Flags of jet coefficient positions, each with its position, ORed into `jfl` (R139). -/
def jflOf (fs : List (Nat × Nat)) : Word :=
  fs.foldl (fun w f => w ||| BitVec.ofNat 64 (f.2 % 32 * 2 ^ (5 * f.1))) 0

def setJfl (s : State) (w : Word) : State := s.setCtx { s.ctx with jfl := s.ctx.jfl ||| w }

/-- MAG and NAN of `amax` after source elements of a type (R108): each element after the flush of R104. -/
def amaxStep (t : Nat) (flush : Bool) (w : Word) (n : Nat) : Word :=
  let up := fun (x : Ex) => match x with
    | .nan => none
    | .inf _ => some 0x7F800000
    | .fin _ m e => some (roundEx fp32 2 false false (.fin false m e)).1
  let x := if isInt t then
      let i := intOf t n
      Ex.fin false i.natAbs 0
    else unpack (fmtOfType t) flush n
  match up x with
  | none => w ||| 0x80000000
  | some b => BitVec.ofNat 64 (w.toNat / 2 ^ 31 * 2 ^ 31 + Nat.max (w.toNat % 2 ^ 31) b)

/-- `amax` register N after some source elements. -/
def setAmax (s : State) (n t : Nat) (xs : List Nat) : State :=
  let w := xs.foldl (amaxStep t s.ctx.flush) (s.ctx.amax.getD n 0)
  s.setCtx { s.ctx with amax := s.ctx.amax.setIfInBounds n w }

/-- The flags of R101 as INFO places them (Table 10.5). -/
def infoWord (op tl cause flags : Nat) : Word :=
  BitVec.ofNat 64 (flags * 2 ^ 32 + cause * 2 ^ 16 + (if cause = 0 then 0 else 2 ^ 15) + tl * 2 ^ 12 + op * 2 ^ 8)

end Sys2Proof.Machine
end

