-- ==== Sys2Proof/Machine/Operands.lean ====
section
/-! DEFINITION. Operand forms: checked memory operands, stream registers and coded blocks, vector and jet operands. -/

namespace Sys2Proof.Machine

/-! ## Memory operands (R90, R201) -/

/-- A checked access through a capability: `CapCheck`, no sharded space, format, alignment, then its place. -/
def operand (s : State) (c : Cap) (a : Word) (n need align : Nat) (kind : Access) : Res (List Loc) := do
  capCheck s.ctx.level c a n need
  guardTrap (c.space != 6) .capPerm a
  formatCheck c a
  guardTrap (a.toNat % align == 0) .misalignedAtomic a
  locate s c.space a n kind

/-- Whether the weirs that accesses need let them issue (R293). -/
def movesOpenAt (s : State) (v : Nat) (moved : List Moved) : Bool :=
  moved.all fun m => ((weirOf m.space).map (weirOpen s v)).getD true

/-- Accesses charged to the weirs of a VIF (R293). -/
def chargeAll (s : State) (v : Nat) (moved : List Moved) : State :=
  moved.foldl (fun t m => match weirOf m.space with
    | some w => charge t v w m.bytes
    | none => t) s

/-- The accesses of an instruction are charged, and their translations are the most recently used: every weir that they need
must be open, or the instruction holds as it stands (R293, R307). -/
def issueAll (s t : State) (moved : List Moved) : Res State :=
  let t := t.useTlb (moved.flatMap (·.used))
  match s.myVif with
  | none => .ok t
  | some v => if movesOpenAt s v moved then .ok (chargeAll t v moved) else .error (.hold s)

/-- A store of the core, performed or in flight, with the granules at the offsets `tags` tagged; poison that it carries to
the core's own pool is recorded at once (R186, R197). -/
def coreStore (s : State) (ls : List Loc) (bs : List Byte) (bad : List Bool) (tags : List Nat) : State :=
  let t := storeLocs s ls bs bad tags
  if bad.any id && ls.any (·.own) then t.setCtx (markPending t.ctx 0 2) else t

/-! ## Coded FP8 blocks (R109 to R112) -/

/-- Code lengths of a book (Table 5.9). -/
def bookLengths (b : Nat) : List Nat :=
  match b with
  | 0 => [4, 4, 4, 4, 4, 4, 4, 4, 4, 4, 4, 4, 4, 4, 4, 4]
  | 1 => [8, 7, 6, 5, 4, 3, 2, 2, 3, 4, 5, 6, 7, 8, 8, 8]
  | 2 => [5, 4, 3, 2, 2, 3, 4, 5, 6, 6, 7, 7, 8, 8, 8, 8]
  | _ => [1, 8, 7, 6, 5, 4, 3, 3, 4, 5, 6, 7, 8, 8, 9, 9]

/-- Exponents whose codes have a given length. -/
def symbolsOf (b len : Nat) : List Nat := (List.range 16).filter fun e => (bookLengths b).getD e 0 == len

/-- The canonical codes of a book (R110): length, code and exponent. -/
def bookCodes (b : Nat) : List (Nat × Nat × Nat) :=
  ((List.range 9).foldl (fun (st : Nat × List (Nat × Nat × Nat)) k =>
    let first := (st.1 + (symbolsOf b k).length) * 2
    let syms := symbolsOf b (k + 1)
    (first, st.2 ++ (List.range syms.length).map fun i => (k + 1, first + i, syms.getD i 0))) (0, [])).2

/-- Exponents of a token stream; nothing where the last token is incomplete. -/
def tokens (codes : List (Nat × Nat × Nat)) : List Bool → Nat → Nat → Option (List Nat)
  | [], len, _ => if len = 0 then some [] else none
  | b :: t, len, code =>
    let c := 2 * code + (if b then 1 else 0)
    match codes.find? fun k => k.1 == len + 1 && k.2.1 == c with
    | some k => (tokens codes t 0 0).map (k.2.2 :: ·)
    | none => tokens codes t (len + 1) c

/-- Bytes of a block whose header word is known (R109). -/
def blockSize (blog hdr : Nat) : Nat := 4 + 2 ^ blog / 2 + 4 * ((hdr / 2 ^ 16 + 31) / 32)

/-- Bits of bytes, from bit 0 of the first upward. -/
def bitList (bs : List Byte) : List Bool := bs.flatMap fun b => (List.range 8).map fun i => bit b.toNat i

/-- What a block gives: its elements in BF16, or why it gives none (R93, R112). -/
inductive Coded where
  | elements (l : List Nat)
  | malformed
  | signedScale
  deriving DecidableEq, Repr, Inhabited

/-- A block decoded (R109 to R112, R93). A block that is malformed and whose scale has its sign set is malformed: no rule orders
the two traps (DESIGN CHOICE, log 63). -/
def decodeBlock (blog : Nat) (bs : List Byte) : Coded :=
  let hdr := fieldOf bs 0 4
  let n := 2 ^ blog
  let bits := bitList (bs.drop (4 + n / 2))
  let len := hdr / 2 ^ 16
  let scale := hdr % 2 ^ 8
  if blog < 4 || 7 < blog || bitsOf hdr 10 6 != 0 || (bits.drop len).any id || bs.length != blockSize blog hdr then .malformed
  else match tokens (bookCodes (bitsOf hdr 8 2)) (bits.take len) 0 0 with
    | none => .malformed
    | some es =>
      if es.length ≠ n then .malformed
      else if bit scale 7 then .signedScale
      else .elements ((List.range n).map fun i =>
        let nib := bitsOf (fieldOf bs (4 + i / 2) 1) (4 * (i % 2)) 4
        let e := nib / 8 * 128 + es.getD i 0 * 8 + nib % 8
        if scale = 0 then 0
        else (roundEx bf16 0 false false (exMul (unpack e4m3 false scale) (unpack e4m3 false e)).1).1)

/-! ## Stream registers (R209 to R212) -/

namespace StreamReg

def bytes (q : StreamReg) : List Byte := bytesOfNat 64 q.record.toNat
def rank (q : StreamReg) : Nat := bitsOf q.record.toNat 0 8
def kind (q : StreamReg) : Nat := bitsOf q.record.toNat 8 8
def elog (q : StreamReg) : Nat := bitsOf q.record.toNat 16 8
def dir (q : StreamReg) : Nat := bitsOf q.record.toNat 24 8
def flen (q : StreamReg) : Nat := bitsOf q.record.toNat 32 32
def ext (q : StreamReg) (d : Nat) : Nat := bitsOf q.record.toNat (8 * (16 + 12 * d)) 32
def str (q : StreamReg) (d : Nat) : Int := toSigned 64 (bitsOf q.record.toNat (8 * (20 + 12 * d)) 64)
/-- Whether a dimension goes through the fibre list. -/
def byFibre (q : StreamReg) (d : Nat) : Bool := q.kind == 1 && d + 1 == q.rank
/-- How many positions a dimension has. -/
def count (q : StreamReg) (d : Nat) : Nat := if q.byFibre d then q.flen else q.ext d
/-- The total count T. -/
def total (q : StreamReg) : Nat := (List.range q.rank).foldl (fun n d => n * q.count d) 1
/-- Elements of one read or write. -/
def chunk (q : StreamReg) : Nat := 128 / 2 ^ q.elog
/-- The index in a dimension of an element. -/
def index (q : StreamReg) (p d : Nat) : Nat := p / (List.range d).foldl (fun n e => n * q.count e) 1 % max 1 (q.count d)
/-- What an element is read with (R210): itself, or the block of a CF8 stream that holds it. -/
def unitOf (q : StreamReg) (p : Nat) : Nat := if q.base.format = 7 then p / 2 ^ q.base.blog else p
/-- The walk at a position; what was read ahead for elements behind it is no more. -/
def goTo (q : StreamReg) (p : Nat) : StreamReg := { q with pos := p, ahead := q.ahead.filter fun e => q.unitOf p ≤ e.unit }
/-- Where P stands after a read or a write. -/
def next (q : StreamReg) : StreamReg := q.goTo (Nat.min (q.pos + q.chunk) q.total)

/-- Whether a record keeps Table 10.3 and R209. -/
def sound (q : StreamReg) : Bool :=
  1 ≤ q.rank && q.rank ≤ 4 && q.kind ≤ 1 && q.elog ≤ 3 && q.dir ≤ 1
    && (if q.kind = 1 then 1 ≤ q.flen else q.flen == 0) && bitsOf q.record.toNat 64 64 == 0
    && (List.range 4).all fun d =>
      if d < q.rank then (if q.byFibre d then q.ext d == 0 else 1 ≤ q.ext d) else q.ext d == 0 && q.str d == 0

/-- The last unit that the walk needs an entry of the fibre list for. -/
def fibreEnd (q : StreamReg) (i : Nat) : Nat := q.unitOf ((i + 1) * ((List.range (q.rank - 1)).foldl (fun n d => n * q.count d) 1) - 1)

/-- The address in the base's space at an offset, with the bits above it (R89). -/
def at' (q : StreamReg) (off : Int) : Word := effAddr q.base 0 1 off

end StreamReg

/-- The part of a kept piece that a need asks for, where it has all of that. -/
def Ahead.part (e : Ahead) (w : Need) : Option Ahead :=
  let va := w.addr % 2 ^ 56
  if e.unit = w.unit ∧ e.space = w.space ∧ e.va ≤ va ∧ va + w.len ≤ e.va + e.bytes.length then
    let i := va - e.va
    some { e with
      va := va, bytes := (e.bytes.drop i).take w.len, bad := (e.bad.drop i).take w.len
      tags := (e.tags.filter fun t => i ≤ t && t + 16 ≤ i + w.len).map (· - i) }
  else none

/-- The pieces of an access for a unit, one for each granule (R185), and what has been read of each. -/
def piecesFor (kept : List Ahead) (unit space : Nat) (a : Word) (n : Nat) : List (Need × Option Ahead) :=
  (cutRange (granuleOf space) (n / granuleOf space + 2) a.toNat n).map fun p =>
    let w : Need := ⟨unit, space, p.1, p.2, a, n, false⟩
    (w, kept.findSome? (·.part w))

/-- What an access delivers whose pieces have all been read: bytes, the poison of each, and the offsets of tagged granules. -/
structure Got where
  bs   : List Byte
  bad  : List Bool
  tags : List Nat

/-- An access put together from its pieces, or what it still needs. -/
def assemble (kept : List Ahead) (unit space : Nat) (a : Word) (n : Nat) : Res Got :=
  let ps := piecesFor kept unit space a n
  let es := ps.filterMap (·.2)
  if es.length = ps.length then
    .ok ⟨es.flatMap (·.bytes), es.flatMap (·.bad), es.flatMap fun e => e.tags.map (e.va - a.toNat % 2 ^ 56 + ·)⟩
  else .error (.missing ((ps.filter (·.2.isNone)).map (·.1)))

/-- An access whose bytes decide where the walk goes next. -/
def leading {α : Type} : Res α → Res α
  | .error (.missing ps) => .error (.missing (ps.map fun w => { w with leads := true }))
  | r => r

/-- Two accesses that no order binds: what both still need is asked for together. -/
def together {α β γ : Type} (f : α → β → γ) (a : Res α) (b : Unit → Res β) : Res γ :=
  match a with
  | .ok x => (b ()).map (f x)
  | .error (.missing ps) => match b () with
    | .error (.missing qs) => .error (.missing (ps ++ qs))
    | _ => .error (.missing ps)
  | .error e => .error e

/-- The address of an entry of a fibre list. -/
def StreamReg.fibreAt (q : StreamReg) (i : Nat) : Word := BitVec.ofNat 64 (q.fibres.toNat + 8 * i)

/-- An entry of a fibre list, read once, as the walk reaches its fibre (R210). -/
def fibreEntry (q : StreamReg) (i : Nat) : Res Int := do
  let a := q.fibreAt i
  let g ← leading (assemble q.ahead (q.fibreEnd i) q.listSpace a 8)
  guardTrap (!g.bad.any id) .poisonUse a
  .ok (toSigned 64 (natOfBytes g.bs))

/-- Offset from the base of an element's dimensions from `d0` up (R209). -/
def walkOffset (q : StreamReg) (p d0 : Nat) : Res Int :=
  (List.range q.rank).foldlM (fun (off : Int) d =>
    if d < d0 then .ok off
    else if q.byFibre d then do
      let e ← fibreEntry q (q.index p d)
      .ok (off + e)
    else .ok (off + q.index p d * q.str d)) 0

/-- Poison met in a read: the place in the bytes delivered, and the address of the granule. -/
abbrev Hits := List (Nat × Nat)

/-- What a read delivers: bytes, the poison of each and where it lies, the register after the read and the charges. -/
structure Delivered where
  bytes : List Byte
  bad   : List Bool
  hits  : Hits
  after : StreamReg
  moved : List Moved

/-- What a walk gives of some elements: bytes, the poison of each and where it lies. -/
structure Elements where
  bytes : List Byte
  bad   : List Bool
  hits  : Hits

/-- The lowest address among hits. -/
def lowest (l : Hits) : Option Nat := (l.map (·.2)).min?

/-- The lowest poisoned granule of bytes at an address, as a hit at the first byte delivered. -/
def hitsOf (va : Nat) (bad : List Bool) : Hits :=
  match bad.findIdx? id with
  | some i => [(0, (va + i) / 32 * 32)]
  | none => []

/-- Hits, some bytes later. -/
def laterHits (n : Nat) (l : Hits) : Hits := l.map fun h => (n + h.1, h.2)

/-- Elements, and those behind them. -/
def Elements.followedBy (a b : Elements) : Elements :=
  ⟨a.bytes ++ b.bytes, a.bad ++ b.bad, a.hits ++ laterHits a.bytes.length b.hits⟩

/-- One element of a stream of plain elements, at a level. -/
def streamElement (lv : Level) (q : StreamReg) (p : Nat) : Res Elements := do
  let a := q.at' (← walkOffset q p 0)
  let n := 2 ^ q.elog
  capCheck lv q.base a n permLoad
  let g ← assemble q.ahead (q.unitOf p) q.base.space a n
  .ok ⟨g.bs, g.bad, hitsOf (bitsOf a.toNat 0 56) g.bad⟩

/-- A need widened to the end of its granule. -/
def Need.toEnd (w : Need) : Need := { w with len := granuleOf w.space - w.addr % granuleOf w.space }

/-- A block's header word, checked against the bounds (log 37). It comes with the rest of its granule, of which it is part (R185): the
granule is asked for to its end. -/
def blockHeader (lv : Level) (q : StreamReg) (unit : Nat) (a : Word) : Res Nat := do
  capCheck lv q.base a 4 permLoad
  match leading (assemble q.ahead unit q.base.space a 4) with
  | .ok g => .ok (natOfBytes g.bs)
  | .error (.missing ps) => .error (.missing (ps.map (·.toEnd)))
  | .error e => .error e

/-- The offset of the block `k` blocks beyond one at an offset (R210). -/
def seekBlock (lv : Level) (q : StreamReg) : Nat → Nat → Int → Res Int
  | 0, _, off => .ok off
  | k + 1, u, off => do
    let h ← blockHeader lv q u (q.at' off)
    seekBlock lv q k (u + 1) (off + blockSize q.base.blog h)

/-- The offset of the block that holds an element: from the block that the walk has reached, or from the start of its row
(R210). Where the one dimension is both that of the blocks and, by KIND 1, that of the fibres, no rule says which holds: the
blocks follow one another from the base, and the list is not read (DESIGN CHOICE, log 72). -/
def blockOffset (lv : Level) (q : StreamReg) (p : Nat) : Res Int := do
  let u := q.unitOf p
  let first := u - q.index p 0 / 2 ^ q.base.blog
  match q.cursor with
  | some (v, off) =>
    if first ≤ v ∧ v ≤ u then seekBlock lv q (u - v) v off
    else seekBlock lv q (u - first) first (← walkOffset q p 1)
  | none => seekBlock lv q (u - first) first (← walkOffset q p 1)

/-- A CF8 block that a read has decoded: its unit, its offset and its length. -/
structure Block where
  unit : Nat
  off  : Int
  len  : Nat

/-- Elements of a CF8 stream from position `p`, at most `n`, block by block (R210, R211), with the last block. Poison anywhere in a
block, its header and the parts that only other elements use among it, counts for each of its elements, since R122 does not say
which bytes of a block an element's poison is that of (DESIGN CHOICE, log 37). -/
def codedElements (lv : Level) (q : StreamReg) : Nat → Nat → Nat → Option Block → Res (Elements × Option Block)
  | 0, _, _, b => .ok (⟨[], [], []⟩, b)
  | f + 1, p, n, b =>
    if n = 0 then .ok (⟨[], [], []⟩, b)
    else do
      let size := 2 ^ q.base.blog
      let i := q.index p 0
      let off ← blockOffset lv q p
      let a := q.at' off
      guardTrap (4 ≤ q.base.blog && q.base.blog ≤ 7) .formatReserved a
      let len := blockSize q.base.blog (← blockHeader lv q (q.unitOf p) a)
      capCheck lv q.base a len permLoad
      let g ← assemble q.ahead (q.unitOf p) q.base.space a len
      match decodeBlock q.base.blog g.bs with
      | .malformed => trap .formatReserved a
      | .signedScale => trap .scaleSign a
      | .elements es =>
        let here := Nat.min n (size - i % size)
        let mine := (es.drop (i % size)).take here
        let hits := hitsOf (bitsOf a.toNat 0 56) g.bad
        let (r, b) ← codedElements lv q f (p + here) (n - here) (some ⟨q.unitOf p, off, len⟩)
        .ok (Elements.followedBy ⟨mine.flatMap (bytesOfNat 2), List.replicate (2 * here) (!hits.isEmpty), hits⟩ r, b)

/-- A register that goes on to a position after a read whose last block is known: the walk stands at that block, or behind it where it
is used up and its row goes on (R210, R213). -/
def StreamReg.afterBlock (q : StreamReg) (p : Nat) (b : Option Block) : StreamReg :=
  let n := q.goTo p
  match b with
  | none => n
  | some b =>
    if q.unitOf p = b.unit then { n with cursor := some (b.unit, b.off) }
    else { n with cursor := if q.index p 0 = 0 then none else some (b.unit + 1, b.off + b.len) }

/-- Elements of a plain stream from position `p`. -/
def plainElements (lv : Level) (q : StreamReg) : Nat → Nat → Res Elements
  | _, 0 => .ok ⟨[], [], []⟩
  | p, n + 1 => together Elements.followedBy (streamElement lv q p) fun _ => plainElements lv q (p + 1) n

/-- `n` elements from the position of a stream, of what it has read, with the last CF8 block (R211). -/
def nextElements (lv : Level) (q : StreamReg) (n : Nat) : Res (Elements × Option Block) :=
  if q.base.format = 7 then codedElements lv q (n + 1) q.pos n none
  else (plainElements lv q q.pos n).map (·, none)

/-! ## The loads of streams (R188, R189, R192, R213) -/

/-- The pieces that a stream has yet to read for a position, as far as it knows them: of a read stream those of the element or of its
block, of a write stream those of the fibre entry that its walk reaches (R210, R213). -/
def neededAhead (lv : Level) (q : StreamReg) (p : Nat) : List Need :=
  let got : Res Unit :=
    if q.dir = 1 then (walkOffset q p 0).map fun _ => ()
    else if q.base.format = 7 then (codedElements lv q 2 p 1 none).map fun _ => ()
    else (streamElement lv q p).map fun _ => ()
  match got with
  | .error (.missing ps) => ps
  | _ => []

/-- The positions of a stream at which it has loads still to make before that of a position: one for each element, or for each
block. -/
def StreamReg.positions (q : StreamReg) (last : Nat) : List Nat :=
  let size := if q.base.format = 7 then 2 ^ q.base.blog else 1
  (List.range (q.unitOf last - q.unitOf q.pos)).map fun i => Nat.max q.pos ((q.unitOf q.pos + i) * size)

/-- The loads that a stream has still to make for the positions before one (R213), as far as it knows them. -/
def unmade (lv : Level) (q : StreamReg) (last : Nat) : List Need := (q.positions last).flatMap (neededAhead lv q)

/-- A stream register of the current core. -/
def State.q (s : State) (n : Nat) : StreamReg := s.ctx.streams.getD n StreamReg.closed

/-- A stream register, replaced. -/
def State.setQ (s : State) (n : Nat) (q : StreamReg) : State :=
  s.setCtx { s.ctx with streams := s.ctx.streams.setIfInBounds n q }

/-- The open streams of the agent that runs: a resident handler has those that it has opened, and not those of what it interrupted
(R179; log 11). -/
def ownStreams (s : State) : List StreamReg :=
  ((List.range 8).map s.q).filter fun q => q.isOpen
    && (s.ctx.level != .machine || s.me.saved.all fun t => !t.streams.toList.any fun k => k.isOpen && k.since == q.since)

/-- Where a load of a stream would be made, in whichever TLB its page is. -/
def placesOf (s : State) (w : Need) : List Loc :=
  match locate s w.space (BitVec.ofNat 64 w.addr) w.len .load with
  | .ok ls => ls
  | .error (.hold _) => match s.myVif.bind s.vif with
    | some f => ((translate (vifPage f w.space) (w.len + 1) (w.addr % 2 ^ 56) w.len).map (translatedLocs s.cur w.space)).getD []
    | none => []
  | .error _ => []

/-- Whether a load of a stream can still be made: one that would trap, or whose memory cannot be reached, is no event (R181). -/
def canBeMade (s : State) (w : Need) : Bool :=
  let ls := placesOf s w
  !ls.isEmpty && !ls.any (locDown s)

/-- Whether a run lies in the memory that a space reaches. -/
def inMemoryOf (space : Nat) (l : Loc) : Bool :=
  if l.foreign then space == 4 || space == 5
  else if l.addr < 2 ^ 64 then space ≤ 1
  else if 2 * 2 ^ 64 ≤ l.addr && l.addr < 3 * 2 ^ 64 then space == 3
  else space == 2

/-- Whether a load of a stream touches runs, or decides where one lies that may (R188, R192; log 71). -/
def needMeets (s : State) (q : StreamReg) (ls : List Loc) (w : Need) : Bool :=
  ((placesOf s w).any fun p => ls.any fun l => p.addr < l.addr + l.len && l.addr < p.addr + p.len)
    || (w.leads && q.dir == 0 && ls.any (inMemoryOf q.base.space))

/-- The loads that streams of the agent opened before a point of its program order have still to make, and that a load of runs at that
point must not go before: they touch a common byte (R192). -/
def streamsMeet (s : State) (before : Nat) (ls : List Loc) : List Need :=
  (ownStreams s).flatMap fun q =>
    if q.since < before && ls.any (fun l => inMemoryOf q.base.space l || inMemoryOf q.listSpace l) then
      (unmade s.ctx.level q q.total).filter fun w => needMeets s q ls w && canBeMade s w
    else []

/-- The loads that open streams of the agent have still to make (R189, R196). -/
def streamsOut (s : State) : List Need := (ownStreams s).flatMap fun q => (unmade s.ctx.level q q.total).filter (canBeMade s)

/-- An instruction waits for a load of a stream to be made: for a fill, where its page is in no TLB entry. -/
def awaitNeed (s : State) (w : Need) : Stop :=
  match locate s w.space (BitVec.ofNat 64 w.addr) w.len .load with
  | .error (.hold t) => .hold t
  | _ => .hold s

/-- An instruction that every earlier load of its agent comes before waits for those of open streams (R188, R189, R213; log 59): they
stand in program order at the `qopen`. -/
def afterStreams (s : State) : Res Unit :=
  match (streamsOut s).head? with
  | some w => .error (awaitNeed s w)
  | none => .ok ()

/-- The point of program order at which the agent stands. -/
def State.here (s : State) : Nat := s.seq + 1

/-- Whether a load of the agent at a point of its program order waits: for an older store to its bytes, since no agent sees a store
early (R181, R188; log 5), or for the loads of streams to its bytes that come before it (R192, R213). -/
def loadHeld (s : State) (before : Nat) (ls : List Loc) : Bool := ownOut s before ls || !(streamsMeet s before ls).isEmpty

/-- A load of runs waits for the loads of streams that it must not go before. -/
def afterMeeting (s : State) (before : Nat) (ls : List Loc) : Res Unit :=
  match (streamsMeet s before ls).head? with
  | some w => .error (awaitNeed s w)
  | none => .ok ()

/-- A load of runs at a point of the agent's program order may be made: it does not wait, and its target can be reached. -/
def loadable (s : State) (before : Nat) (ls : List Loc) (a : Word) : Res Unit := do
  if ownOut s before ls then .error (.hold s) else afterMeeting s before ls
  reachable s ls a

/-- The same for the load of an instruction. -/
def readable (s : State) (ls : List Loc) (a : Word) : Res Unit := loadable s s.here ls a

/-- The bytes of a readable range, with the poison of each and their places (R181, R186). -/
def loadBytes (s : State) (space : Nat) (a : Word) (n : Nat) : Res (List Byte × List Bool × List Loc) := do
  let ls ← locate s space a n .load
  readable s ls a
  .ok (readLocs s ls, badBytes s ls, ls)

/-- A piece that a stream reads as its instruction consumes it: a load that stands at the `qopen` (R213). -/
def streamPiece (s : State) (q : StreamReg) (w : Need) : Res (Ahead × Moved) := do
  let ls ← locate s w.space w.whole w.size .load
  let mine := sliceLocs ls (w.addr - w.whole.toNat) w.len
  loadable s q.since mine w.whole
  .ok (⟨w.unit, w.space, w.addr % 2 ^ 56, readLocs s mine, badBytes s mine, []⟩, movedTo w.space w.len mine)

/-- A walk of a stream by an instruction: what it asks for is read, until it has all (R213): what it gives, the register with what it
has read, and what that moves (R293). -/
def walkStream {α : Type} (s : State) (f : StreamReg → Res α) : Nat → StreamReg → List Moved → Res (α × StreamReg × List Moved)
  | 0, _, _ => .error (.hold s)
  | n + 1, q, m =>
    match f q with
    | .ok a => .ok (a, q, m)
    | .error (.missing ps) => do
      let es ← ps.mapM (streamPiece s q)
      walkStream s f n { q with ahead := q.ahead ++ es.map (·.1) } (m ++ es.map (·.2))
    | .error e => .error e

/-- Rounds in which a walk asks for what it needs, more than any walk has. -/
def walkRounds : Nat := 2 ^ 64

/-- A signed scale has no `tvalue` of a rule where an instruction meets it (log 37). -/
def openScale {α : Type} (s : State) : Res α → Res α
  | .error (.trap .scaleSign _) => trap .scaleSign (Config.trapValue s.tick)
  | r => r

/-- What a read of a read stream delivers (R211). -/
def streamRead (s : State) (q : StreamReg) : Res Delivered := do
  let n := Nat.min q.chunk (q.total - q.pos)
  let ((e, last), r, moved) ← openScale s (walkStream s (nextElements s.ctx.level · n) walkRounds q [])
  .ok { bytes := padTo 128 e.bytes, bad := e.bad ++ List.replicate (128 - e.bad.length) false, hits := e.hits
        after := r.afterBlock r.next.pos last, moved := moved }

/-- The places of the elements that a write of a write stream stores (R211). -/
def streamPlaces (s : State) (q : StreamReg) : Nat → Nat → Res (List (List Loc))
  | _, 0 => .ok []
  | p, n + 1 => together List.cons
    (do let a := q.at' (← walkOffset q p 0)
        capCheck s.ctx.level q.base a (2 ^ q.elog) permStore
        locate s q.base.space a (2 ^ q.elog) .store)
    fun _ => streamPlaces s q (p + 1) n

/-- The places of the next `n` elements of a write stream, with the register that has read the fibre entries of its walk, and what
those reads move (R210, R211, R293). -/
def streamWrite (s : State) (q : StreamReg) (n : Nat) : Res (List (List Loc) × StreamReg × List Moved) :=
  walkStream s (fun r => streamPlaces s r r.pos n) walkRounds q []

/-- Elements stored at their places, in ascending order, each a separate piece (R206). -/
def storeElements (n : Nat) : State → List (List Loc) → List Byte → List Bool → State
  | s, [], _, _ => s
  | s, ls :: t, bs, bad =>
    storeElements n (coreStore s ls (bs.take n) (bad.take n) []) t (bs.drop n) (bad.drop n)

/-! ## Vector operands (R74, R120 to R123) -/

/-- Whether a field of a V-format word names a stream. -/
def isStream (sq n : Nat) : Bool := sq == 1 && 56 ≤ n

/-- The word-only checks of the stream window (R74, R123): `srcs` are the source fields, `d` the destination. -/
def windowCheck (i : Instr) (sq : Nat) (srcs : List Nat) (d : Nat) : Res Unit :=
  let all := if srcs.contains d then srcs else srcs ++ [d]
  let names := all.filter (isStream sq)
  legal i (sq == 0 || (!names.isEmpty && !(srcs.contains d && isStream sq d) && names.Nodup))

/-- The checks of step 3 of R121 with `jord` at zero: registers of the file, and streams open in the right direction. -/
def vectorCheck (s : State) (i : Instr) (sq : Nat) (srcs : List Nat) (d : Nat) : Res Unit := do
  let v := s.ctx.vcount
  legal i (s.ctx.order == 0)
  legal i ((srcs ++ [d]).all fun n => isStream sq n || n < v)
  legal i (srcs.all fun n => !isStream sq n || ((s.q (n - 56)).isOpen && (s.q (n - 56)).dir == 0))
  legal i (!isStream sq d || ((s.q (d - 56)).isOpen && (s.q (d - 56)).dir == 1))

/-- A source of 128 bytes: its value, the poison of its bytes, the `tvalue` of its lowest poisoned granule, the stream
register that it leaves and the charges. -/
structure Source where
  value : Nat
  bad   : List Bool
  low   : Option Word
  after : Option StreamReg
  moved : List Moved

/-- Poison of each byte of a vector register. -/
def vectorBad (s : State) (n : Nat) : List Bool :=
  let gs := poolPoison s (128 * n) 128
  (List.range 128).map fun i => gs.contains ((128 * n + i) / 32 * 32)

/-- A vector register as a source (R120, R122). -/
def vectorSource (s : State) (n : Nat) : Source where
  value := vget s n
  bad := vectorBad s n
  low := (poolPoison s (128 * n) 128).head?.map fun o => BitVec.ofNat 64 o
  after := none
  moved := []

/-- A source field, read once (R121 step 4). -/
def readSource (s : State) (sq n : Nat) : Res Source :=
  if isStream sq n then do
    let d ← streamRead s (s.q (n - 56))
    .ok ⟨natOfBytes d.bytes, d.bad, (lowest d.hits).map fun o => BitVec.ofNat 64 o, some d.after, d.moved⟩
  else .ok (vectorSource s n)

/-- Streams among the source fields, advanced. -/
def advanceSources (s : State) (srcs : List Nat) (xs : List Source) : State :=
  (srcs.zip xs).foldl (fun t p => match p.2.after with
    | some q => t.setQ (p.1 - 56) q
    | none => t) s

/-- The result of 128 bytes written to a register, or to the next elements of a write stream (R123, R211): the state,
with the charges. -/
def writeVector (s t : State) (sq d v : Nat) (bad : List Bool) : Res (State × List Moved) :=
  if isStream sq d then do
    let q := s.q (d - 56)
    let n := Nat.min q.chunk (q.total - q.pos)
    let (ps, r, moved) ← streamWrite s q n
    let t := coreStore t (mergeLocs ps.flatten) ((bytesOfNat 128 v).take (n * 2 ^ q.elog)) bad []
    .ok (t.setQ (d - 56) r.next, if n = 0 then [] else movedTo q.base.space (n * 2 ^ q.elog) ps.flatten :: moved)
  else
    .ok (vset t d v ((List.range 4).filterMap fun g => if ((bad.drop (32 * g)).take 32).any id then some (128 * d + 32 * g) else none), [])

/-- A V-format instruction with `jord` at zero (R121): `srcs` in field order, and what the result and its flags are.
`copies` is true for `vmov`, which carries poison and does not trap on it (R122). A register is examined whole: no rule says that
poison does not count in a granule whose lanes a form leaves unread, as R133 has a conversion leave the lanes past the n-th
(DESIGN CHOICE, log 73). -/
def vectorOp (s : State) (i : Instr) (sq d : Nat) (srcs : List Nat) (copies : Bool) (f : List Nat → Nat × Nat) : Res State := do
  windowCheck i sq srcs d
  vectorCheck s i sq srcs d
  let xs ← srcs.mapM (readSource s sq)
  match if copies then none else xs.findSome? (·.low) with
  | some a => trap .poisonUse a
  | none =>
    let (v, fl) := f (xs.map (·.value))
    let bad := if copies then (xs.flatMap (·.bad)).take 128 else []
    let (t, moved) ← writeVector s (advanceSources s srcs xs) sq d v bad
    let t ← issueAll s t (xs.flatMap (·.moved) ++ moved)
    .ok (setFlags t fl).advance

/-- Lanes of a result: each value with its flags (R124). -/
def packLanes (t : Nat) (l : List (Nat × Nat)) : Nat × Nat :=
  (joinLanes (widthOf t) (l.map (·.1)), l.foldl (fun f x => f ||| x.2) 0)

/-- The lanes of a register value. -/
def lanes (t v : Nat) : List Nat := splitLanes (widthOf t) (lanesOf t) v

/-! ## Jet operands (R68, R137, R146) -/

/-- The group size under an order (Table 4.2). -/
def groupSize (n : Nat) : Nat := if n = 0 then 1 else if n = 1 then 2 else if n ≤ 3 then 4 else 8

/-- Coefficients 0 to n of a jet: for each lane, its list. -/
def jetRead (s : State) (t N : Nat) : List (List Nat) :=
  let n := s.ctx.order
  let rows := (List.range (n + 1)).map fun c => lanes t (vget s (groupSize n * N + c))
  (List.range (lanesOf t)).map fun i => rows.map (·.getD i 0)

/-- A jet written from its coefficients, each the list of its lanes; the padding is zero (R29). -/
def jetWrite (s : State) (t N : Nat) (cs : List (List Nat)) : State :=
  let g := groupSize s.ctx.order
  (List.range g).foldl (fun u c => vset u (g * N + c) (joinLanes (widthOf t) (cs.getD c [])) []) s

/-- Whether a jet number names a whole group of the file (R27). -/
def jetFits (s : State) (N : Nat) : Bool := groupSize s.ctx.order * (N + 1) ≤ s.ctx.vcount

/-- `tvalue` of POISON_USE in a jet form (R146, Table 7.4): the lowest coefficient position that meets poison in any
source, and within it the lowest lane; where two sources meet it there, OFFSET is that of the first in field order, which no
rule says (DESIGN CHOICE, log 66). `regs c` are the registers that position c reads. -/
def jetPoison (s : State) (t : Nat) (cs : List Nat) (regs : Nat → List Nat) : Option Word :=
  let w := widthOf t / 8
  cs.findSome? fun c =>
    let hits := (regs c).flatMap fun r => (poolPoison s (128 * r) 128).map fun o => ((o - 128 * r) / w, o)
    (hits.foldl (fun (b : Option (Nat × Nat)) h => match b with
      | some k => if h.1 < k.1 then some h else b
      | none => some h) none).map fun h =>
        BitVec.ofNat 64 (2 ^ 63 + h.2 * 2 ^ 32 + h.1 * 2 ^ 8 + c)

/-- A jet instruction that rounds (R140, R145): `srcs` are jet numbers, `f` makes of each lane's operand coefficients
the result coefficients, each with the flags of its position. -/
def jetOp (s : State) (i : Instr) (t d : Nat) (srcs : List Nat) (f : List (List Nat) → List (Nat × Nat)) : Res State := do
  legal i ((srcs ++ [d]).all (jetFits s))
  let n := s.ctx.order
  let g := groupSize n
  match jetPoison s t (List.range (n + 1)) fun c => srcs.map (g * · + c) with
  | some a => trap .poisonUse a
  | none =>
    let ops := srcs.map (jetRead s t)
    let res := (List.range (lanesOf t)).map fun l => f (ops.map (·.getD l []))
    let cs := (List.range (n + 1)).map fun c => res.map fun r => (r.getD c (0, 0)).1
    let fl := (List.range (n + 1)).map fun c => (c, res.foldl (fun k r => k ||| (r.getD c (0, 0)).2) 0)
    .ok (setJfl (jetWrite s t d cs) (jflOf fl)).advance

/-- A form that R81 admits under jets: with `jord` above zero it is a jet instruction of TYPE 0 or 1, and JET_TYPE of
TYPE 2 to 8 (R121 step 2); otherwise the ordinary instruction. -/
def jetOrVector (s : State) (i : Instr) (t sq : Nat) (srcs : List Nat) (d : Nat) (jet vec : Res State) : Res State := do
  windowCheck i sq srcs d
  if s.ctx.order = 0 then vec
  else do
    guardTrap (t ≤ 1) .jetType (encodingOf i)
    legal i (sq == 0)
    jet

end Sys2Proof.Machine
end

