-- ==== Sys2Proof/Machine/LoadStore.lean ====
section
/-! DEFINITION. Scalar and capability loads and stores (R200 to R203, Table 10.1). -/

namespace Sys2Proof.Machine

/-- The effective address of format M (R200). -/
def scalarAddr (s : State) (k : BitVec 4) (i : BitVec 5) (c : BitVec 2) (o : BitVec 9) : Word :=
  effAddr (s.k k.toNat) (s.x i.toNat) (2 ^ c.toNat) o.toInt

/-- A scalar load of `n` bytes (R200, R201, R186). -/
def loadOp (n : Nat) (widen : Nat → Word) (d : BitVec 5) (k : BitVec 4) (i : BitVec 5) (c : BitVec 2) (o : BitVec 9)
    (s : State) : Out :=
  conclude s do
    let key := s.k k.toNat
    let a := scalarAddr s k i c o
    let ls ← operand s key a n permLoad 1 .load
    readable s ls a
    guardTrap (!anyBad s ls) .poisonUse a
    issueAll s (s.retire d.toNat (widen (natOfBytes (readLocs s ls)))) [movedTo key.space n ls]

/-- A scalar store of `n` bytes (R200, R201). -/
def storeOp (n : Nat) (d : BitVec 5) (k : BitVec 4) (i : BitVec 5) (c : BitVec 2) (o : BitVec 9) (s : State) : Out :=
  conclude s do
    let key := s.k k.toNat
    let ls ← operand s key (scalarAddr s k i c o) n permStore 1 .store
    issueAll s (coreStore s ls (bytesOfNat n (s.x d.toNat).toNat) [] []).advance [movedTo key.space n ls]

/-- Whether a granule's tag passes through a capability with a permission (R203). -/
def tagPasses (key : Cap) (perm : Nat) : Bool := key.perms &&& perm == perm && key.space ≤ 3

/-- `ldb` (Table 10.1). -/
def execLdb (d : BitVec 5) (k : BitVec 4) (i : BitVec 5) (c : BitVec 2) (o : BitVec 9) (s : State) : Out :=
  loadOp 1 (signExtend 8) d k i c o s

/-- `ldbn` (Table 10.1). -/
def execLdbn (d : BitVec 5) (k : BitVec 4) (i : BitVec 5) (c : BitVec 2) (o : BitVec 9) (s : State) : Out :=
  loadOp 1 (BitVec.ofNat 64) d k i c o s

/-- `ldh` (Table 10.1). -/
def execLdh (d : BitVec 5) (k : BitVec 4) (i : BitVec 5) (c : BitVec 2) (o : BitVec 9) (s : State) : Out :=
  loadOp 2 (signExtend 16) d k i c o s

/-- `ldhn` (Table 10.1). -/
def execLdhn (d : BitVec 5) (k : BitVec 4) (i : BitVec 5) (c : BitVec 2) (o : BitVec 9) (s : State) : Out :=
  loadOp 2 (BitVec.ofNat 64) d k i c o s

/-- `ldw` (Table 10.1). -/
def execLdw (d : BitVec 5) (k : BitVec 4) (i : BitVec 5) (c : BitVec 2) (o : BitVec 9) (s : State) : Out :=
  loadOp 4 (signExtend 32) d k i c o s

/-- `ldwn` (Table 10.1). -/
def execLdwn (d : BitVec 5) (k : BitVec 4) (i : BitVec 5) (c : BitVec 2) (o : BitVec 9) (s : State) : Out :=
  loadOp 4 (BitVec.ofNat 64) d k i c o s

/-- `ldd` (Table 10.1). -/
def execLdd (d : BitVec 5) (k : BitVec 4) (i : BitVec 5) (c : BitVec 2) (o : BitVec 9) (s : State) : Out :=
  loadOp 8 (BitVec.ofNat 64) d k i c o s

/-- `stb` (Table 10.1). -/
def execStb (d : BitVec 5) (k : BitVec 4) (i : BitVec 5) (c : BitVec 2) (o : BitVec 9) (s : State) : Out :=
  storeOp 1 d k i c o s

/-- `sth` (Table 10.1). -/
def execSth (d : BitVec 5) (k : BitVec 4) (i : BitVec 5) (c : BitVec 2) (o : BitVec 9) (s : State) : Out :=
  storeOp 2 d k i c o s

/-- `stw` (Table 10.1). -/
def execStw (d : BitVec 5) (k : BitVec 4) (i : BitVec 5) (c : BitVec 2) (o : BitVec 9) (s : State) : Out :=
  storeOp 4 d k i c o s

/-- `std` (Table 10.1). -/
def execStd (d : BitVec 5) (k : BitVec 4) (i : BitVec 5) (c : BitVec 2) (o : BitVec 9) (s : State) : Out :=
  storeOp 8 d k i c o s

/-- `ldk` (R201, R203). -/
def execLdk (d k : BitVec 4) (i : BitVec 5) (c : BitVec 2) (o : BitVec 9) (s : State) : Out :=
  conclude s do
    let key := s.k k.toNat
    let a := scalarAddr s k i c o
    let ls ← operand s key a 16 permLoad 16 .load
    readable s ls a
    guardTrap (!anyBad s ls) .poisonUse a
    let tag := ls.all fun l => !l.foreign && s.mem.tagAt l.addr
    let v : Cap := ⟨tag && tagPasses key permLoadK, BitVec.ofNat 128 (natOfBytes (readLocs s ls))⟩
    issueAll s (s.retireK d.toNat v) [movedTo key.space 16 ls]

/-- `stk` (R201, R203). -/
def execStk (d k : BitVec 4) (i : BitVec 5) (c : BitVec 2) (o : BitVec 9) (s : State) : Out :=
  conclude s do
    let key := s.k k.toNat
    let v := s.k d.toNat
    let ls ← operand s key (scalarAddr s k i c o) 16 permStore 16 .store
    issueAll s (coreStore s ls (capBytes v) [] (if v.tag && tagPasses key permStoreK then [0] else [])).advance [movedTo key.space 16 ls]

end Sys2Proof.Machine
end

