-- ==== Sys2Proof/Machine/Turn.lean ====
section
/-! DEFINITION. What surrounds an instruction: whose turn it is, what a core takes at an instruction boundary, the
fetch, the cycles it is charged, and the conditions that waiting reactions and members meet. -/

namespace Sys2Proof.Machine

/-! ## Waiting (R253, R273 to R275) -/

/-- The relation of `wmem` (R275). -/
def wmemHolds (n : Nat) (w x : Word) : Bool :=
  match n with
  | 0 => w == x
  | 1 => w != x
  | 2 => x.toNat ≤ w.toNat
  | _ => w.toNat < x.toNat

/-- The 8-byte word that a reaction of a VIF in an SG awaits; nothing while it cannot be read (R275, log 17). -/
def awaitedWord (s : State) (g v space addr : Nat) : Option Word :=
  if space = 1 then
    let c : CoreId := ⟨g, bitsOf addr 17 8⟩
    if (s.core c).owner = some v then some (BitVec.ofNat 64 (s.mem.readNat (poolAddr c (bitsOf addr 0 17)) 8)) else none
  else match s.vif v with
    | none => none
    | some f =>
      if inWindow f.p addr then some (BitVec.ofNat 64 (s.mem.readNat (windowAddr v g addr) 8))
      else if isPinned f.p addr 8 then some (BitVec.ofNat 64 (s.mem.readNat (pinnedAddr v addr) 8))
      else (vifRead s f 2 addr 8).map fun l => BitVec.ofNat 64 (natOfBytes l)

/-- Whether the wait condition of a suspended reaction is met (Table 3.5, Table 12.2). -/
def waitMet (s : State) (g : Nat) (r : Reaction) : Bool :=
  match r.wait with
  | .nothing => true
  | .timeline tl c target =>
    let v := (s.core ⟨g, c⟩).complete.getD tl 0
    ((v.toNat + 2 ^ 51 - target.toNat) % 2 ^ 51) < 2 ^ 50
  | .word space addr _ =>
    match awaitedWord s g r.vif space addr with
    | none => false
    | some w =>
      let frame := pinnedAddr r.vif r.base
      wmemHolds (s.mem.readNat (frame + 9) 1 % 4) w (BitVec.ofNat 64 (s.mem.readNat frame 8))

/-- Suspended reactions of a unit whose condition has just been met take the next order numbers, in ascending record
index (R253, R353). -/
def settleUnit (s : State) (u : CUnit) : CUnit :=
  (sortBy (fun a b => a.x ≤ b.x) u.reactions).foldl (fun u r =>
    if r.state = .suspended ∧ r.ready = none ∧ waitMet s u.sgn r then
      { u with order := u.order + 1
               reactions := upsert (·.x == r.x) { r with ready := some u.order, outcome := true } u.reactions }
    else u) u

/-- Whether the load of a word that the current core awaits stands behind its agent's own accesses (R192). -/
def awaitsOwn (s : State) (key : Cap) : Bool :=
  match locate s key.space (BitVec.ofNat 64 key.va) 8 .load with
  | .ok ls => loadHeld s s.here ls
  | .error _ => ownStores s || !(streamsOut s).isEmpty

/-- A member that waits in `wmem` and whose relation is met retires with outcome 1 (R275). -/
def settleMember (s : State) (c : CoreId) : State :=
  let t := { s with cur := c }
  match instrAt t, t.myReaction with
  | some (.wmem d a k n), some r =>
    let key := t.k k.toNat
    match awaitedWord t c.sgn r.vif key.space key.va with
    | some w => if wmemHolds n.toNat w (t.x a.toNat) && !awaitsOwn t key then
        { (t.setMe { t.me with hold := .none }).retire d.toNat 1 with cur := s.cur }
      else s
    | none => s
  | _, _ => s

/-- The conditions that waiting reactions and members meet. -/
def settleWaits (s : State) : State :=
  let s := { s with units := s.units.map (settleUnit s) }
  (s.cores.filter fun c => c.2.hold == .wmem).foldl (fun s c => settleMember s c.1) s

/-! ## At an instruction boundary -/

/-- Whether the core takes a queued user-level event now (R231). Past the last word of its code space it takes the trap of R119
first. -/
def eventDue (s : State) : Bool :=
  let t := s.ctx
  !t.events.isEmpty && bit t.evec.toNat 0 && !t.inev && t.level == .user && !bit t.mstat.toNat 63 && decide (t.pc < s.codeLength)

/-- Whether the CORE weir holds the core (Table 13.3): a body or its steward, and not the resident handler, which is machine level's
own (R295; log 25). -/
def coreHeld (s : State) : Bool :=
  s.ctx.level != .machine && (s.myReaction.map fun r => !weirOpen s r.vif 0).getD false

/-- Cycles of the current core's turn: its counter (R14; log 6). -/
def tickCore (s : State) : State := s.setMe { s.me with cycle := s.me.cycle + BitVec.ofNat 64 (1 + Config.extraCycles s.tick) }

/-- The same, charged to the CORE weir of its VIF (R293; log 25). -/
def spend (s : State) : State :=
  match s.myVif with
  | some v => charge (tickCore s) v 0 (1 + Config.extraCycles s.tick)
  | none => tickCore s

/-- Whether merges that an eviction set aside still hold the body (R334). -/
def asideOut (s : State) : Bool :=
  s.ops.any fun o => o.setAside && o.core == s.cur && s.me.rx == some o.x

/-- The interrupt that a core takes at this boundary: WIND before the others (R329, Table 14.4). -/
def nextIrq (k : Core) : Option Nat :=
  if k.ctx.level = .machine then none
  else if k.irqs.contains windCode then some windCode else k.irqs.head?

/-- Bytes of an overlay with its relocations applied (R367). -/
def relocated (m : Image) (o : Nat × Nat) (bs : List Byte) : List Byte :=
  (m.relocs.filter fun r => o.1 ≤ r.1 && r.1 < o.1 + o.2).foldl (fun bs r =>
    let i := r.1 - o.1
    let v := (m.va + r.2.2) / 2 ^ (16 * r.2.1) % 2 ^ 16
    bs.take i ++ bytesOfNat 4 (setBits (fieldOf bs i 4) 0 16 v) ++ bs.drop (i + 4)) bs

/-- Poisoned granules of bytes of a VIF, as offsets of 32 bytes from the first. -/
def vifPoison (s : State) (f : Vif) (va n : Nat) : List Nat :=
  (List.range ((n + 31) / 32)).filter fun g => match translate (vifPage f 2) 33 (va + 32 * g) 32 with
    | some ps => ps.any fun p => !(s.mem.poisonIn (hbmAddr p.pa) p.len).isEmpty
    | none => false

/-- The line of 64 bytes of an overlay at an offset, from HBM (R342): nothing where it is poisoned there, or cannot be read. -/
def overlayLine (s : State) (f : Vif) (l : Launch) (ovl line : Nat) : Option (List Byte) :=
  let o := l.image.overlays.getD ovl (0, 0)
  if !(vifPoison s f (l.image.va + o.1 + line) 64).isEmpty then none
  else (vifRead s f 2 (l.image.va + o.1) o.2).map fun bs => ((relocated l.image o bs).drop line).take 64

/-- The line of the overlay that the current core fetches from, which an error has spoilt in instruction memory, refetched from the
overlay in HBM (Table 14.10). -/
def refetched (s : State) (line : Nat) : Option State :=
  match s.mySlot, s.myLaunch, s.myVif.bind s.vif with
  | some k, some l, some f => (overlayLine s f l k.ovl line).map fun bs =>
      { s with mem := (s.mem.clear (s.codeAddr line) 64).write (s.codeAddr line) bs [] }
  | _, _, _ => none

/-- The fetch at a boundary, past the entries: an event, a hold, a trap of the fetch, or the instruction (R231, R295, R334,
R342). -/
def fetchNext (s : State) : State × Option Instr :=
  let pc := s.ctx.pc
  if s.ctx.level = .user && asideOut s then (spend s, none)
  else if eventDue s then (s, some (.eventTaken s.cur))
  else if coreHeld s then (tickCore s, none)
  else if s.ctx.space = .overlay && !(s.mem.poisonIn (s.codeAddr (pc / 64 * 64)) 64).isEmpty then
    match refetched s (pc / 64 * 64) with
    | some t => (t, instrAt t)
    | none => (takeTrap s .memUncorr (BitVec.ofNat 64 (pc / 64 * 64)), none)
  else (s, instrAt s)

/-- Whether the current core's reaction ends: its overlay's slot may hold another overlay by then (R63), and it executes no more. -/
def ends (s : State) : Bool := s.ctx.level == .user && s.myReaction.any (·.state == .ending)

/-- The instruction that a core which may issue runs, or what it takes in place of one: first the trap of a run past the last
word, which belongs to the instruction before (R119), then an interrupt (R329), then a queue overflow (R339). -/
def boundary (s : State) : State × Option Instr :=
  let k := s.me
  let len := s.codeLength
  if len ≤ s.ctx.pc && !ends s then (takeTrap (s.setCtx { s.ctx with pc := len }) .illegal (BitVec.ofNat 64 len), none)
  else match nextIrq k, k.overflow with
    | some code, _ => (takeInterrupt (s.setMe { k with irqs := k.irqs.erase code }) code, none)
    | none, v :: rest =>
      if k.ctx.level = .user then (takeTrap (s.setMe { k with overflow := rest }) .queueOverflow v, none) else fetchNext s
    | none, [] => fetchNext s

/-- Whether an instruction is a word of code, assigned or not, and no event of another agent. -/
def isCode (i : Instr) : Bool :=
  match i with
  | .unassignedWord _ => true
  | i => i.isWord

/-- The turn of a core (R14, R47, R329): what it runs, in which state; an idle core counts its cycle. -/
def coreTurn (s : State) : State × Option Instr :=
  match s.me.run with
  | .running => if s.me.hold != .none then (spend s, none) else boundary s
  | .idle => (tickCore s, none)
  | _ => (s, none)

/-- What a turn runs, in which state: an event or an instruction, or nothing where the turn is over already. -/
def begin' (s : State) : Turn → State × Option Instr
  | .event i => if isCode i then (s, none) else (s, some i)
  | .core c => coreTurn { s with cur := c }
  | _ => (s, none)

/-- The wait timers after a turn: what each counts meanwhile is free (R14, R275; log 68). -/
def State.tickTimers (s : State) : State :=
  { s with timers := Vector.ofFn fun g : Fin 20 => s.timers[g] + Config.timerCycles s.tick g }

/-- The turn that comes next, taken off the agenda (log 1), while the wait timers count. -/
def nextTurn (s : State) : State × Turn :=
  let t := s.tickTimers
  match s.agenda with
  | n :: rest => ({ t with agenda := rest, tick := s.tick + 1 }, n)
  | [] => ({ t with tick := s.tick + 1 }, Config.schedule s.tick)

/-! ## A state in which one instruction runs next (log 2) -/

/-- A VIF with unlimited weirs, its areas apart from one another. -/
def probeVif : Vif where
  p := { id := 1, per := 4096, budgets := List.replicate 5 Config.unlimited, mask := [], saveBase := 2 ^ 40
         recBase := 2 ^ 41, window := 2 ^ 42, bwCap := 4096, ringCap := 64, steward := [] }
  rem := List.replicate 5 (Config.unlimited : Int)
  leases := []
  pages := []
  gen := 0
  shards := [(0, ⟨[], []⟩)]
  injects := []
  buffers := []
  updates := []

/-- A launch with one rule of shape `core` and one overlay. -/
def probeLaunch : Launch where
  vif := 1
  lid := 0
  tag := 0
  state := .running
  status := .complete
  imageVa := 0
  plen := 0
  params := []
  channelled := false
  devices := 1
  reactLimit := 0
  cycleLimit := 0
  mask := [0]
  leases := []
  imageHash := []
  image := { va := 0, length := 0, species := [], relocs := [], pads := [], overlays := [(0, 65532)]
             rules := [{ cats := 0, cls := 0, crew := 0, products := 0, vregs := 2, acc := 14, frame := 4096, ovl := 0
                         entry := 0, species := [], joins := [], guard := [], consts := [], sc := 0, qd := 0 }] }
  units := [0]
  last := false
  injected := 0
  commits := 0
  drained := 0
  faultAddr := 0
  wave := none
  shards := 0
  stages := []
  phase := 0
  toDrain := []

/-- A reaction of that launch, running on core 0 of SG 0. -/
def probeReaction (base : Nat) : Reaction where
  x := 0
  gen := 0
  vif := 1
  lid := 0
  rule := 0
  state := .running
  shape := 0
  base := base
  first := 0
  live := [0]
  committed := []
  offset := 0
  fault := 0
  wait := .nothing
  ready := none
  outcome := false
  reactants := []
  taken := 0
  emitted := []
  products := []
  order := 0
  started := true
  aborting := false

/-- A state with an instruction's bytes at the start of the overlay of a running reaction, whose core has the next
turn. -/
def probe (s : State) (bs : List Byte) : State :=
  let c : CoreId := ⟨0, 0⟩
  let s := { s with
    stage := .ready, enabled := 1, agenda := [.core c], cur := c
    mem := s.mem.write (slotAddr 0 0 0 0) bs []
    vifs := [probeVif], launches := [probeLaunch]
    units := [{ sgn := 0, tiles := [], nextStamp := 0, reactions := [probeReaction (frameVa probeVif.p 0 0)], gens := []
                launches := [], order := 0, reserve := [], last := none }]
    slots := [⟨0, 0, 0, 1, 0, 0, 65532, 0, false, []⟩] }
  let k := Core.init
  s.setCore c { k with run := .running, rx := some 0, owner := some 1, lastVif := some 1
                       ctx := { k.ctx with partition := partitionWord 2 14, level := .user, space := .overlay, pc := 0 } }

end Sys2Proof.Machine
end

