-- ==== Sys2Proof/Machine/React.lean ====
section
/-! DEFINITION. The reaction forms (R266 to R279, R287). -/

namespace Sys2Proof.Machine

/-! ## The reaction of the current core -/

/-- The reaction that a form of this chapter acts for: at user level, on a core that runs one (R266). -/
def reacting (s : State) (i : Instr) : Res Reaction :=
  match s.myReaction with
  | some r => if s.ctx.level = .user then .ok r else trap .illegal (encodingOf i)
  | none => trap .illegal (encodingOf i)

/-- The rule of a reaction. -/
def ruleOf (s : State) (r : Reaction) : Option Rule := (s.launch r.vif r.lid).bind fun l => l.image.rules[r.rule]?

/-- Members of a crew at its start, and the side of its square (R49). -/
def crewSize (shape : Nat) : Nat := match shape with
  | 0 => 1 | 1 => 4 | 2 => 64 | _ => 256
def crewSide (shape : Nat) : Nat := match shape with
  | 0 => 1 | 1 => 2 | 2 => 8 | _ => 16

/-- Whether an operation with EV = 1 of the current core is outstanding, or an event is queued (R231). -/
def eventPending (s : State) : Bool := 0 < eventsOut s s.cur

/-! ## The record of a reaction (R44, Table 3.5) -/

/-- STATE, KIND with its operands, and a HANDLE, as Table 3.5 numbers them. -/
def RState.num : RState → Nat
  | .matched => 1 | .running => 2 | .suspended => 3 | .preempted => 4 | .ending => 5

def Wait.num : Wait → Nat
  | .nothing => 0
  | .timeline tl c target => 2 ^ 62 + tl * 2 ^ 59 + c * 2 ^ 51 + target.toNat
  | .word space addr _ => 2 ^ 63 + (if space = 2 then 2 ^ 61 else 0) + addr / 8 * 8

def Reactant.num (q : Reactant) : Nat := 2 ^ 47 + (if q.cat then 2 ^ 46 else 0) + q.slot

/-- The 64 bytes of a reaction's record (R44, Table 3.5). Only the K4 writes it and nothing can address it, so that it stands in
State as the fields of `Reaction` and its bytes are read off here. -/
def recordBytes (s : State) (r : Reaction) : List Byte :=
  let rule := (ruleOf s r).getD default
  let frame := Cap.range 2 (permLoad + permStore + permLoadK + permStoreK) r.base rule.frame
  let live := if r.live.isEmpty then crewSize r.shape else r.live.length
  let fault := if r.state = .suspended then r.fault.toNat else 0
  bytesOfNat 8 (r.state.num * 2 ^ 60 + rule.ovl * 2 ^ 44 + fault * 2 ^ 16 + r.offset) ++ capBytes frame
    ++ bytesOfNat 8 (if r.state = .suspended then r.wait.num else 0)
    ++ (List.range 4).flatMap (fun n => bytesOfNat 6 (((r.reactants[n]?).map Reactant.num).getD 0))
    ++ bytesOfNat 2 r.rule ++ bytesOfNat 2 r.gen ++ bytesOfNat 4 (r.shape * 2 ^ 30 + live * 2 ^ 8 + r.first)

/-! ## Reading reactants and building products (R267 to R270) -/

/-- The capability to a window slot of a reaction (R267, R269). -/
def windowCap (p : VifParams) (r : Reaction) (m perms : Nat) : Cap := Cap.range 2 perms (windowVa p r.x r.gen m) 64

/-- `rget` (R267). -/
def execRget (k : BitVec 4) (n : BitVec 2) (s : State) : Out :=
  conclude s do
    let i : Instr := .rget k n
    let r ← reacting s i
    legal i (n.toNat < r.reactants.length)
    let p := ((s.vif r.vif).map (·.p)).getD default
    .ok (s.retireK k.toNat (windowCap p r n.toNat (permLoad + permLoadK)))

/-- `rkey` (R268). -/
def execRkey (d : BitVec 5) (f : BitVec 3) (n : BitVec 2) (s : State) : Out :=
  conclude s do
    let i : Instr := .rkey d f n
    let r ← reacting s i
    legal i (f.toNat < 6)
    match r.reactants[n.toNat]? with
    | none => trap .illegal (encodingOf i)
    | some t => .ok (s.retire d.toNat (BitVec.ofNat 64 (matchField t.hdr f.toNat)))

/-- The header that `talloc` makes (R269). -/
def newHeader (l : Launch) (r : Reaction) (sp : Species) : BitVec 512 :=
  let h := hdrPut (hdrPut 0 0 2 sp.code) 3 1 l.vif
  if l.channelled then hdrPut h 4 4 ((r.reactants.head?.map fun t => hdrField t.hdr 4 4).getD 0) else h

/-- `talloc` (R269): the header is written in HBM, and charged as that (R293). -/
def execTalloc (k : BitVec 4) (n : BitVec 10) (s : State) : Out :=
  conclude s do
    let i : Instr := .talloc k n
    let r ← reacting s i
    match s.myLaunch, s.myLaunch.bind fun l => l.image.species[n.toNat]? with
    | some l, some sp =>
      legal i (r.taken < 16)
      let p := ((s.vif r.vif).map (·.p)).getD default
      let a := windowAddr r.vif s.cur.sgn (windowVa p r.x r.gen (4 + r.taken))
      let m := (s.mem.clear a 64).write a (bytesOfNat 64 (newHeader l r sp).toNat) []
      let u := ({ s with mem := m }).setReaction s.cur.sgn { r with taken := r.taken + 1 }
      issueAll s (u.retireK k.toNat (windowCap p r (4 + r.taken) (permLoad + permStore + permLoadK + permStoreK))) [movedTo 2 64 []]
    | _, _ => trap .illegal (encodingOf i)

/-- The header slot of a reaction that a capability names (R270), taken or not. -/
def slotNamed (p : VifParams) (r : Reaction) (c : Cap) : Option Nat :=
  if c.isSealed || c.space != 2 then none
  else (List.range 16).find? fun n => windowVa p r.x r.gen (4 + n) ≤ c.va && c.va < windowVa p r.x r.gen (4 + n) + 64

/-- `emit` (R270): the header is read from HBM, and charged as that (R293). -/
def execEmit (k : BitVec 4) (s : State) : Out :=
  conclude s do
    let i : Instr := .emit k
    let r ← reacting s i
    let c := s.k k.toNat
    guardTrap c.tag .capTag c.addr
    let p := ((s.vif r.vif).map (·.p)).getD default
    match slotNamed p r c with
    | none => trap .capPerm c.addr
    | some n =>
      legal i (!r.emitted.contains n)
      legal i (r.products.length < ((ruleOf s r).map (·.products)).getD 0)
      let a := windowAddr r.vif s.cur.sgn (windowVa p r.x r.gen (4 + n))
      readable s [hbmLoc s.cur a a 64] c.addr
      let h : BitVec 512 := BitVec.ofNat 512 (s.mem.readNat a 64)
      legal i ((s.myLaunch.bind fun l => speciesOf l.image (hdrField h 0 2)).isSome)
      guardTrap ((s.mem.poisonIn a 64).isEmpty) .poisonUse c.addr
      let r := { r with emitted := r.emitted ++ [n], products := r.products ++ [(h, s.mem.tagAt (a + 32))] }
      issueAll s (s.setReaction s.cur.sgn r).advance [movedTo 2 64 []]

/-! ## Ending the reaction (R271, R272, R279) -/

/-- Whether every live member of a reaction waits in `commit` (R51, R271). -/
def allCommitted (r : Reaction) : Bool := !r.live.isEmpty && r.live.all r.committed.contains

/-- `commit` (R271): the member waits for the step of R52, which is an event of its own, with its write streams closed. What is queued
of events goes as it leaves the core, once every operation is done (R231). -/
def execCommit (s : State) : Out :=
  conclude s do
    let r ← reacting s .commit
    legal .commit (!s.ctx.inev)
    let u := s.setReaction s.cur.sgn { r with committed := insertNat s.cur.idx r.committed }
    .ok (u.setMe { u.me with
      hold := .ending, ctx := { u.ctx with streams := u.ctx.streams.map fun q => if q.dir = 1 then StreamReg.closed else q } })

/-- `abort` (R272): the step of R53 is an event of its own. -/
def execAbort (s : State) : Out :=
  conclude s do
    let r ← reacting s .abort
    legal .abort (!s.ctx.inev)
    .ok (beginAbort s s.cur.sgn r)

/-- `crewrel` (R50, R279): messages for the bindings that the member drops are dead letters (R336, R340). -/
def execCrewrel (s : State) : Out :=
  conclude s do
    let r ← reacting s .crewrel
    legal .crewrel (!s.ctx.inev && 1 < r.live.length)
    let u := s.setReaction s.cur.sgn
      { r with live := r.live.filter (· != s.cur.idx), committed := r.committed.filter (· != s.cur.idx) }
    .ok (dropRing (u.setMe u.me.leave) s.cur r.x false)

/-! ## Suspension and waiting (R273 to R276) -/

/-- A reaction of shape `core` is suspended, and its core becomes idle (R47, R273) without bindings (R336). -/
def suspend (s : State) (r : Reaction) (w : Wait) : State :=
  let r := { r with
    state := .suspended, wait := w, offset := s.ctx.pc + 4, fault := s.ctx.fault, ready := none, outcome := false
    live := [] }
  let u := s.setReaction s.cur.sgn r
  dropRing (u.setMe u.me.leave) s.cur r.x false

/-- What the three forms that suspend ask first (R231). -/
def mayWait (s : State) (i : Instr) : Res Reaction := do
  let r ← reacting s i
  legal i (!s.ctx.inev)
  legal i (r.shape != 0 || !eventPending s)
  .ok r

/-- `susp` (R274). -/
def execSusp (l : BitVec 3) (a : BitVec 5) (s : State) : Out :=
  conclude s do
    let i : Instr := .susp l a
    let r ← mayWait s i
    let t := s.x a.toNat
    legal i (t ≤ s.me.issued.getD l.toNat 0)
    if r.shape = 0 then
      if storesOut s s.cur.sgn r then .error (.hold s)
      else .ok (suspend s r (.timeline l.toNat s.cur.idx (BitVec.ofNat 51 t.toNat)))
    else if t ≤ s.me.complete.getD l.toNat 0 then .ok s.advance
    else .error (.hold s)

/-- The core holds issue for a while from now on. -/
def holdFrom (s : State) (h : Hold) : State := s.setMe { s.me with hold := h, since := s.me.cycle }

/-- `yield` (R252, R48). -/
def execYield (s : State) : Out :=
  conclude s do
    let r ← mayWait s .yield
    if r.shape = 0 then
      if storesOut s s.cur.sgn r || opsOut s s.cur.sgn r then .error (.hold s) else .ok (suspend s r .nothing)
    else .ok (holdFrom s .pause)

/-- The count of the wait timer of an SG (R275). -/
def timerOf (s : State) (g : Nat) : Nat := s.timers.getD g 0

/-- `wmem` (R275). Its load is charged whether or not the relation holds, and the words that it leaves in the frame are (R293); it
holds while the weir is exhausted (R295). Through a capability of FORMAT 7 it reads the word as it stands: R113 does not list it
among what raises FORMAT_NOT_ADDRESSABLE, and R275 names no check of the format (DESIGN CHOICE, log 74). -/
def execWmem (d a : BitVec 5) (k : BitVec 4) (n : BitVec 2) (s : State) : Out :=
  conclude s do
    let i : Instr := .wmem d a k n
    let r ← mayWait s i
    let key := s.k k.toNat
    let w : Word := BitVec.ofNat 64 key.va
    capCheck s.ctx.level key w 8 permLoad
    guardTrap (key.format < 12 && blogOk key.format key.blog) .formatReserved w
    guardTrap (key.space == 1 || key.space == 2) .capPerm w
    guardTrap (key.va % 8 == 0) .misalignedAtomic w
    let ls ← locate s key.space w 8 .load
    readable s ls w
    guardTrap (!anyBad s ls) .poisonUse w
    legal i (r.shape != 0 || 16 ≤ ((ruleOf s r).map (·.frame)).getD 0)
    let v : Word := BitVec.ofNat 64 (natOfBytes (readLocs s ls))
    let x := s.x a.toNat
    if wmemHolds n.toNat v x then issueAll s (s.retire d.toNat 1) [movedTo key.space 8 ls]
    else if r.shape = 0 then
      if storesOut s s.cur.sgn r || opsOut s s.cur.sgn r then .error (.hold s)
      else
        let bs := wordBytes x ++ bytesOfNat 4 (d.toNat + 2 ^ 8 * n.toNat) ++ bytesOfNat 4 (bitsOf (s.x d.toNat).toNat 0 32)
        let u := { s with mem := s.mem.write (pinnedAddr r.vif r.base) bs [] }
        issueAll s (suspend u r (.word key.space key.va (timerOf s s.cur.sgn))) [movedTo key.space 8 ls, movedTo 2 16 []]
    else issueAll s (s.setMe { s.me with hold := .wmem, since := BitVec.ofNat 64 (timerOf s s.cur.sgn) }) [movedTo key.space 8 ls]

/-- `pause` (R254, R276). -/
def execPause (s : State) : Out :=
  conclude s do
    let _ ← reacting s .pause
    .ok (holdFrom s .pause)

/-! ## Crews and the pool split (R277, R278, R287) -/

/-- `part` (R277). -/
def execPart (d a : BitVec 5) (n : BitVec 2) (s : State) : Out :=
  conclude s do
    let i : Instr := .part d a n
    let r ← reacting s i
    legal i (n != 3)
    let e := bitsOf (s.x a.toNat).toNat 0 32
    let c := s.ctx.crewcoord.toNat
    let (p, m) : Nat × Nat := if n = 0 then (crewSide r.shape, bitsOf c 4 4) else if n = 1 then (crewSide r.shape, bitsOf c 0 4)
      else (bitsOf c 16 9, bitsOf c 8 8)
    let q := e / p
    let rest := e % p
    let start := m * q + min m rest
    let len := q + (if m < rest then 1 else 0)
    .ok (s.retire d.toNat (BitVec.ofNat 64 (len * 2 ^ 32 + start)))

/-- `crewid` (R278). -/
def execCrewid (d : BitVec 5) (s : State) : Out :=
  conclude s do
    let r ← reacting s (.crewid d)
    .ok (s.retire d.toNat (BitVec.ofNat 64 (s.cur.sgn * 2 ^ 32 + r.x * 2 ^ 16 + r.gen)))

/-- `psplit` (R287). -/
def execPsplit (a : BitVec 5) (s : State) : Out :=
  conclude s do
    let i : Instr := .psplit a
    let r ← reacting s i
    let w := (s.x a.toNat).toNat
    let v := bitsOf w 12 2
    let acc := bitsOf w 16 4
    legal i (v != 3 && acc ≤ 14 && bitsOf w 9 3 == 0 && bitsOf w 14 2 == 0 && bitsOf w 20 44 == 0)
    legal i (r.shape == 0 && !bit s.ctx.mstat.toNat 63)
    .ok (s.setCtx { s.ctx with partition := partitionWord v acc }).advance

end Sys2Proof.Machine
end

