-- ==== Sys2Proof/Machine/Host.lean ====
section
/-! DEFINITION. Messages from the host and their answers (R58, R59, R61, R302 to R304, R310, R312, R314, R315, R319,
R369). -/

namespace Sys2Proof.Machine

/-! ## Messages (Table 13.12) -/

/-- TYPE, TAG and body of a message. -/
def msgType (m : List Byte) : Nat := fieldOf m 0 1
def msgTag (m : List Byte) : Word := BitVec.ofNat 64 (fieldOf m 8 8)
def msgBody (m : List Byte) : List Byte := m.drop 16

/-- Whether VERSION, the zero bytes and LENGTH of a message are as Table 13.12 says. -/
def headerOk (m : List Byte) : Bool := fieldOf m 1 1 == 1 && zeroAt m 2 2 && fieldOf m 4 4 == m.length - 16

/-- The VIF that a message reaches; no endpoint exists before READY (R346). -/
def endpoint (s : State) (v : Nat) : Option Vif :=
  if s.stage = .ready ∨ s.stage = .degraded then s.vif v else none

/-- An ACK with a status of R314. -/
def answer (s : State) (v : Nat) (m : List Byte) (status id : Nat) : State :=
  s.send v (ackMessage (msgType m) status id (msgTag m))

/-- A message reaches its VIF: its bytes are charged to the FAB weir (R293). It is not taken while an INJECT that came before
it waits for room (R314); the fabric then keeps it (log 21). -/
def received (s : State) (v : Nat) (m : List Byte) : Option (State × Vif) :=
  match endpoint s v with
  | none => none
  | some f =>
    if f.injects.any (!·.acked) then none
    else
      let t := charge s v 3 m.length
      (t.vif v).map fun g => (t, g)

def accepted : Nat := 0
def malformed : Nat := 1
def noLaunch : Nat := 2
def lidInUse : Nat := 3
def hasEnded : Nat := 4

/-! ## LAUNCH (R58) -/

/-- Lease entries of a LAUNCH (Table 13.13). -/
def launchEntries (b : List Byte) : List LeaseRef :=
  (List.range (fieldOf b 23 1)).map fun n =>
    let w := fieldOf b (208 + 4 * n) 4
    ⟨bitsOf w 0 16, BitVec.ofNat 12 (bitsOf w 16 12), bit w 28⟩

/-- The LAUNCH cases of R369. -/
def launchMalformed (f : Vif) (m : List Byte) : Bool :=
  let b := msgBody m
  let n := fieldOf b 23 1
  let plen := fieldOf b 16 4
  let granted := (f.leases.filter fun e => e.resident && e.space == 2).map fun e => (e.va, e.len)
  !(headerOk m && b.length == 208 + 4 * n && zeroAt b 28 4 && fieldOf b 22 1 ≤ 1 && plen ≤ 65536 && n ≤ 64
    && 1 ≤ fieldOf b 24 4 && fieldOf b 24 4 ≤ 4096
    && ((List.range n).all fun i => fieldOf b (208 + 4 * i) 4 / 2 ^ 29 == 0)
    && ((launchEntries b).all fun e => !(e.out && 0xFFFE ≤ e.id))
    && (plen == 0 || covered granted (granted.length + 1) (fieldOf b 8 8) plen))

/-- A launch as a LAUNCH starts it: in ADMITTING, with its parameter block read (R58). -/
def newLaunch (s : State) (f : Vif) (m : List Byte) : Launch :=
  let b := msgBody m
  { vif := f.p.id, lid := fieldOf b 20 2, tag := msgTag m, state := .admitting, status := .complete
    imageVa := fieldOf b 0 8, plen := fieldOf b 16 4
    params := (vifRead s f 2 (fieldOf b 8 8) (fieldOf b 16 4)).getD []
    channelled := fieldOf b 22 1 == 1, devices := fieldOf b 24 4, reactLimit := fieldOf b 32 8
    cycleLimit := fieldOf b 40 8
    mask := (List.range Config.sgs).map fun g => fieldOf b (48 + 8 * g) 8 &&& f.p.mask.getD g 0
    leases := launchEntries b, image := default, imageHash := [], units := [], last := false, injected := 0, commits := 0, drained := 0
    faultAddr := 0, wave := none, shards := 0, stages := [], phase := 0, toDrain := [] }

/-- `LAUNCH` (R58). A message of no TYPE of Table 13.12 is answered here too (R369). -/
def execLaunch (v : Nat) (m : List Byte) (s : State) : Out :=
  if 2 ≤ msgType m ∧ msgType m ≤ 6 then .next s
  else match received s v m with
    | none => .next s
    | some (s, f) =>
      let lid := fieldOf (msgBody m) 20 2
      if msgType m ≠ 1 then .next (answer s v m malformed 0)
      else if launchMalformed f m then .next (answer s v m malformed lid)
      else if ((s.launch v lid).map (·.state != .ended)).getD false then .next (answer s v m lidInUse lid)
      else .next (answer (s.setLaunch (newLaunch s f m)) v m accepted lid)

/-! ## INJECT (R59, R247) -/

/-- Headers of an INJECT. -/
def injectHeaders (b : List Byte) : List (BitVec 512) :=
  (List.range (fieldOf b 4 4)).map fun n => BitVec.ofNat 512 (fieldOf b (8 + 64 * n) 64)

/-- A header as the K4 fixes it: VIF, INJ and the reserved FLAGS bits (R31, R32). -/
def fixHeader (v inj : Nat) (h : BitVec 512) : BitVec 512 := hdrPut (hdrPut h 3 1 v) 2 1 (hdrField h 2 1 % 2 + 2 * inj)

/-- Whether a species code is available to programs (R33). -/
def speciesOk (c : Nat) : Bool := 1 ≤ c && c ≤ 0xFEFF

/-- Whether an image declares the species of every header. -/
def declared (m : Image) (hs : List (BitVec 512)) : Bool := hs.all fun h => (speciesOf m (hdrField h 0 2)).isSome

/-- The INJECT cases of R369. -/
def injectMalformed (l : Option Launch) (m : List Byte) : Bool :=
  let b := msgBody m
  let hs := injectHeaders b
  !(headerOk m && b.length == 8 + 64 * fieldOf b 4 4 && fieldOf b 2 1 ≤ 1 && zeroAt b 3 1 && fieldOf b 4 4 ≤ 1024
    && (hs.all fun h => hdrField h 2 1 < 4 && speciesOk (hdrField h 0 2))
    && match l with
      | some l => l.state != .running || declared l.image hs
      | none => true)

/-- Headers that set out, if those that find no room at their units fit the buffer (R247). -/
def tryPlace (s : State) (l : Launch) (hs : List (BitVec 512 × Bool)) : Option State :=
  let u := setOff s l hs
  if bufferUse u l.vif ≤ bufferUse s l.vif + bufferFree s l.vif then some u else none

/-- An INJECT is accepted by its launch: the inject count, LAST and its ACK (R59, R249). -/
def countInject (s : State) (l : Launch) (i : HeldInject) : State :=
  (s.setLaunch { l with injected := l.injected + i.hdrs.length, last := l.last || i.last }).send l.vif
    (ackMessage 2 accepted l.lid i.tag)

/-- An INJECT whose launch has a state in which it may enter: taken, or nothing while there is no room (R59, R247). -/
def takeInject (s : State) (l : Launch) (i : HeldInject) : Option State :=
  match l.state with
  | .admitting =>
    if i.hdrs.length ≤ bufferFree s l.vif then
      match s.vif l.vif with
      | some f => some (countInject (s.setVif { f with injects := f.injects ++ [{ i with acked := true }] }) l i)
      | none => none
    else none
  | .running => (tryPlace s l (i.hdrs.map (·, false))).map fun u => countInject u l i
  | _ => none

/-- `INJECT` (R59): one that finds no room waits (R247). -/
def execInject (v : Nat) (m : List Byte) (s : State) : Out :=
  if msgType m ≠ 2 then .next s
  else match received s v m with
    | none => .next s
    | some (s, f) =>
      let b := msgBody m
      let lid := fieldOf b 0 2
      if injectMalformed (s.launch v lid) m then .next (answer s v m malformed lid)
      else match s.launch v lid with
        | none => .next (answer s v m noLaunch lid)
        | some l =>
          if l.state ≠ .admitting ∧ l.state ≠ .running then .next (answer s v m hasEnded lid)
          else
            let i : HeldInject := ⟨msgTag m, lid, bit (fieldOf b 2 1) 0, (injectHeaders b).map (fixHeader v 1), false⟩
            .next ((takeInject s l i).getD (s.setVif { f with injects := f.injects ++ [i] }))

/-- `INJECT_ROOM_ACCEPT` (R247): the first INJECT of a VIF that waits is accepted if it now finds room. A launch that
has left RUNNING refuses it (R59), and one that has entered RUNNING first checks its species. -/
def execInjectRoomAccept (v : Nat) (s : State) : Out :=
  match s.vif v with
  | none => .next s
  | some f => match f.injects.find? (!·.acked) with
    | none => .next s
    | some i =>
      let u := s.setVif { f with injects := f.injects.erase i }
      match s.launch v i.lid with
      | none => .next (u.send v (ackMessage 2 noLaunch i.lid i.tag))
      | some l =>
        if l.state ≠ .admitting ∧ l.state ≠ .running then .next (u.send v (ackMessage 2 hasEnded i.lid i.tag))
        else if l.state = .running ∧ !declared l.image i.hdrs then .next (u.send v (ackMessage 2 malformed i.lid i.tag))
        else .next ((takeInject u l i).getD s)

/-! ## DRAIN and CANCEL (R61, R315) -/

/-- `DRAIN` (R315): a buffer for a launch that has not ended; one that has ended has no more use for it. -/
def execDrain (v : Nat) (m : List Byte) (s : State) : Out :=
  if msgType m ≠ 3 then .next s
  else match received s v m with
    | none => .next s
    | some (s, f) =>
      let b := msgBody m
      let lid := fieldOf b 0 2
      let addr := fieldOf b 8 8
      let cap := fieldOf b 16 4
      if !(headerOk m && b.length == 20 && zeroAt b 2 6 && addr % 64 == 0 && cap != 0) then
        .next (answer s v m malformed lid)
      else match s.launch v lid with
        | none => .next (answer s v m noLaunch lid)
        | some l =>
          let u := if l.state = .ended then s else s.setVif { f with buffers := f.buffers ++ [(lid, addr, cap)] }
          .next (answer u v m accepted lid)

/-- What a CANCEL does to a launch that has not ended (R61). -/
def cancelLaunch (s : State) (l : Launch) : State :=
  match l.state with
  | .admitting => finishLaunch s l .cancelled 0
  | .running => enterWinding s l .cancelled 0
  | .draining => finishLaunch s l l.status l.faultAddr
  | _ => s

/-- `CANCEL` (R61): taken also past the INJECT that waits for room of its own launch, for which nothing frees room before it ends
(R247, R251; log 57); behind an INJECT of another launch it waits as every message does (R314). -/
def execCancel (v : Nat) (m : List Byte) (s : State) : Out :=
  if msgType m ≠ 5 then .next s
  else match endpoint s v with
    | none => .next s
    | some f =>
      let b := msgBody m
      let lid := fieldOf b 0 2
      let formed := headerOk m && b.length == 2
      if f.injects.any fun i => !i.acked && !(formed && i.lid == lid) then .next s
      else
        let s := charge s v 3 m.length
        if !formed then .next (answer s v m malformed lid)
        else match s.launch v lid with
          | none => .next (answer s v m noLaunch lid)
          | some l =>
            if l.state = .ended then .next (answer s v m hasEnded lid) else .next (cancelLaunch (answer s v m accepted lid) l)

/-! ## LEASE (R302 to R304, R310, R312) -/

/-- OP, SPACE, id, VA and length of a LEASE. -/
def leaseOp (m : List Byte) : Nat := fieldOf (msgBody m) 0 1
def leaseSpace (m : List Byte) : Nat := fieldOf (msgBody m) 1 1
def leaseId (m : List Byte) : Nat := fieldOf (msgBody m) 2 2
def leaseVa (m : List Byte) : Nat := fieldOf (msgBody m) 8 8
def leaseLen (m : List Byte) : Nat := fieldOf (msgBody m) 16 8

/-- The cases of R369 that every grant and revoke shares. -/
def leaseMalformed (m : List Byte) : Bool :=
  !(headerOk m && (msgBody m).length == 24 && zeroAt (msgBody m) 4 4 && leaseOp m ≤ 3 && leaseId m < 0xFFFE
    && (leaseSpace m == 2 || leaseSpace m == 3))

/-- The grant cases of R369. -/
def grantMalformed (f : Vif) (m : List Byte) : Bool :=
  leaseMalformed m || leaseVa m % 2 ^ 16 != 0 || leaseLen m % 2 ^ 16 != 0 || leaseLen m == 0
    || 2 ^ 56 < leaseVa m + leaseLen m || !Cap.representable (leaseVa m) (leaseLen m) || f.leases.any (·.id == leaseId m)

/-- `LEASE` with OP 0 (R302), and with an OP that there is not (R369): the ACK of a grant goes out at `LEASE_RESIDENT`. -/
def execLeaseGrant (v : Nat) (m : List Byte) (s : State) : Out :=
  if msgType m ≠ 4 ∨ (1 ≤ leaseOp m ∧ leaseOp m ≤ 3) then .next s
  else match received s v m with
    | none => .next s
    | some (s, f) =>
      if grantMalformed f m then .next (answer s v m malformed (leaseId m))
      else .next (s.setVif { f with
        leases := f.leases ++ [⟨leaseId m, leaseSpace m, leaseVa m, leaseLen m, false, msgTag m, []⟩] })

/-- `LEASE` with OP 1 (R304). -/
def execLeaseRevoke (v : Nat) (m : List Byte) (s : State) : Out :=
  if msgType m ≠ 4 ∨ leaseOp m ≠ 1 then .next s
  else match received s v m with
    | none => .next s
    | some (s, f) =>
      if leaseMalformed m || !f.leases.any (·.id == leaseId m) then .next (answer s v m malformed (leaseId m))
      else
        let ls := f.leases.map fun e => if e.id = leaseId m then { e with revokes := e.revokes ++ [msgTag m] } else e
        .next (settleRevokes (s.setVif { f with leases := ls }) v)

/-- Whether pages map a whole lease in its space. -/
def pagesCover (e : Lease) (ps : List PageMap) : Bool :=
  covered ((ps.filter (·.space == e.space)).map fun p => (p.va, p.size)) (ps.length + 1) e.va e.len

/-- Whether a page has one of the three sizes, is aligned to it and lies in its memory (R306, R15). -/
def pageOk (p : PageMap) : Bool :=
  (p.size == 2 ^ 16 || p.size == 2 ^ 21 || p.size == 2 ^ 30) && p.va % p.size == 0 && p.pa % p.size == 0
    && p.va + p.size ≤ 2 ^ 56 && p.pa + p.size ≤ (if p.space = 2 then Config.hbmBytes else 2 ^ 41)

/-- `LEASE_RESIDENT` (R302): every page of the range is resident, and the ACK goes out. Where two page maps meet, the later one holds;
an earlier one goes when a later covers it, and else stays for the leases that it backs
(DESIGN CHOICE, log 83). -/
def execLeaseResident (v id : Nat) (ps : List PageMap) (s : State) : Out :=
  match s.vif v with
  | none => .next s
  | some f => match f.leases.find? fun e => e.id == id && !e.resident with
    | none => .next s
    | some e =>
      if !(ps.all pageOk && pagesCover e ps) then .next s
      else
        let u := s.setVif { f with
          leases := f.leases.map fun k => if k.id = id then { k with resident := true } else k
          pages := ps ++ f.pages.filter fun k => !ps.any fun p => p.space == k.space && p.va ≤ k.va && k.va + k.size ≤ p.va + p.size }
        .next (settleRevokes (u.send v (ackMessage 4 accepted id e.tag)) v)

/-- The sharding entry of a LEASE with OP 2: its bytes 24 to 71 are entry bytes 16 to 63 (Table 13.13). -/
def shardOf (m : List Byte) : Shard :=
  let b := (msgBody m).drop 24
  { tensor := leaseId m, space := leaseSpace m, va := leaseVa m, devBase := fieldOf b 0 2, rank := fieldOf b 2 1
    esl := fieldOf b 3 1, valid := bit (fieldOf b 4 1) 0
    ext := (List.range 4).map fun d => fieldOf b (8 + 4 * d) 4
    blk := (List.range 4).map fun d => fieldOf b (24 + 2 * d) 2
    pg := (List.range 4).map fun d => fieldOf b (32 + 2 * d) 2 }

/-- Bytes of the local block store of an entry (R310, R311). -/
def localExtent (e : Shard) : Nat :=
  (List.range 4).foldl (fun n d =>
    let k := e.blk.getD d 1 * e.pg.getD d 1
    n * ((e.ext.getD d 1 + k - 1) / k * e.blk.getD d 1)) (2 ^ e.esl)

/-- The sharding cases of R369: what Table 13.10 and R310 ask of an entry (log 45). -/
def shardMalformed (m : List Byte) : Bool :=
  let b := (msgBody m).drop 24
  let e := shardOf m
  !(headerOk m && (msgBody m).length == 72 && zeroAt (msgBody m) 4 4 && e.tensor < 1024 && e.devBase < 4096
    && 1 ≤ e.rank && e.rank ≤ 4 && e.esl ≤ 3 && fieldOf b 4 1 ≤ 1 && zeroAt b 5 3 && zeroAt b 40 8
    && (e.ext.all fun n => 1 ≤ n && n ≤ 65536) && (e.blk.all (1 ≤ ·)) && (e.pg.all (1 ≤ ·))
    && e.pg.foldl (· * ·) 1 ≤ 4096
    && ((List.range 4).all fun d => d < e.rank || (e.ext.getD d 0 == 1 && e.blk.getD d 0 == 1 && e.pg.getD d 0 == 1))
    && e.space < 8 && leaseVa m < 2 ^ 56 && Cap.representable (leaseVa m) (localExtent e))

/-- `LEASE` with OP 2 (R310, R312): an update that needs a fifth version waits, and so do those after it. -/
def execLeaseShardingEntry (v : Nat) (m : List Byte) (s : State) : Out :=
  if msgType m ≠ 4 ∨ leaseOp m ≠ 2 then .next s
  else match received s v m with
    | none => .next s
    | some (s, f) =>
      if shardMalformed m then .next (answer s v m malformed (leaseId m))
      else .next (settleShards (s.setVif { f with updates := f.updates ++ [(msgTag m, .entry (shardOf m))] }) v)

/-- `LEASE` with OP 3 (R310, R312): the endpoint of a device, an update of the same table. -/
def execLeasePeer (v : Nat) (m : List Byte) (s : State) : Out :=
  if msgType m ≠ 4 ∨ leaseOp m ≠ 3 then .next s
  else match received s v m with
    | none => .next s
    | some (s, f) =>
      if !(headerOk m && (msgBody m).length == 24 && zeroAt (msgBody m) 4 4 && leaseId m < 0xFFFE) then
        .next (answer s v m malformed 0)
      else .next (settleShards (s.setVif { f with
        updates := f.updates ++ [(msgTag m, .peer (leaseId m) (BitVec.ofNat 64 (leaseVa m)))] }) v)

/-! ## QUERY (R314, R319) -/

/-- A REPLY. -/
def replyMessage (m body : List Byte) : List Byte := message 0x84 (msgTag m) body

/-- REPLY of KIND 0 (Table 13.13). -/
def stateReply (lid : Nat) (l : Option Launch) : List Byte :=
  match l with
  | none => [0, 0] ++ bytesOfNat 2 lid ++ List.replicate 28 0
  | some l =>
    [0, BitVec.ofNat 8 l.state.num] ++ bytesOfNat 2 lid
      ++ [BitVec.ofNat 8 (if l.state = .ended then l.status.num else 0), 0, 0, 0]
      ++ bytesOfNat 8 l.commits ++ bytesOfNat 8 l.drained ++ bytesOfNat 8 l.injected

/-- `QUERY` of KIND 0, and of a KIND that there is not (R369). -/
def execQueryLaunchState (v : Nat) (m : List Byte) (s : State) : Out :=
  let b := msgBody m
  let lid := fieldOf b 2 2
  if msgType m ≠ 6 ∨ fieldOf b 0 1 = 1 ∨ fieldOf b 0 1 = 2 then .next s
  else match received s v m with
    | none => .next s
    | some (s, _) =>
      if !headerOk m || b.length < 4 || fieldOf b 0 1 != 0 then .next (answer s v m malformed lid)
      else .next (s.send v (replyMessage m (stateReply lid (s.launch v lid))))

/-- REPLY of KIND 1 (Table 13.13). -/
def weirReply (f : Vif) : List Byte :=
  [1] ++ List.replicate 7 0 ++ bytesOfNat 4 f.p.per ++ bytesOfNat 4 f.p.bwCap
    ++ (List.range 5).flatMap fun w => bytesOfNat 8 (f.p.budgets.getD w 0) ++ bytesOfNat 8 (wrap 64 (f.rem.getD w 0))

/-- `QUERY` of KIND 1. -/
def execQueryVifWeirs (v : Nat) (m : List Byte) (s : State) : Out :=
  let b := msgBody m
  if msgType m ≠ 6 ∨ fieldOf b 0 1 ≠ 1 then .next s
  else match received s v m with
    | none => .next s
    | some (s, f) =>
      if !headerOk m || b.length < 4 then .next (answer s v m malformed (fieldOf b 2 2))
      else .next (s.send v (replyMessage m (weirReply f)))

/-- What Primin reports of itself: the digests of the running images, and the failure of a self-test that keeps the module in
SAFE (R20, R319; log 56). -/
def Primin.report (p : Primin) : List (BitVec 256) :=
  p.measured ++ (match p.failed with
    | some passed => [Config.selfTestReport passed]
    | none => [])

/-- What an attestation signs: bytes 0 to 111 + 32·NMEAS of its REPLY. -/
def attested (p : Primin) (b : List Byte) : List Byte :=
  [2, 0, 0, 0] ++ bytesOfNat 4 p.report.length ++ bytesOfNat 8 Config.serial.toNat ++ padTo 32 (b.drop 8)
    ++ bytesOfNat 60 Config.publicKey.toNat ++ List.replicate 4 0 ++ p.report.flatMap fun d => bytesOfNat 32 d.toNat

/-- The port that identity and attestation go through; `sent` names it by a number that no VIF has (R319). -/
def portZero : Nat := 256

/-- `QUERY` of KIND 2 (R317, R319): from SAFE on; the one-time index is committed before it signs. -/
def execQueryAttestation (m : List Byte) (s : State) : Out :=
  let b := msgBody m
  if msgType m ≠ 6 ∨ fieldOf b 0 1 ≠ 2 ∨ s.stage = .off ∨ s.stage = .cold then .next s
  else if !headerOk m || b.length != 40 then .next (answer s portZero m malformed 0)
  else if 2 ^ 40 ≤ s.primin.hssIndex then .next (answer s portZero m (1 + Config.spentStatus % 4) 0)
  else
    let t := attested s.primin b
    let sig := bytesOfNat 3604 (Config.signature s.primin.hssIndex (natOfBytes t)).toNat
    let u : State := { s with primin := { s.primin with hssIndex := s.primin.hssIndex + 1 } }
    .next (u.send portZero (replyMessage m (t ++ sig)))

end Sys2Proof.Machine
end

