-- ==== Sys2Proof/Machine/Admit.lean ====
section
/-! DEFINITION. Rule images and admission (R33, R35, R36, R39, R40, R63, R249, R256, R288, R305, R350, R354, R364 to
R367). -/

namespace Sys2Proof.Machine

/-! ## The parts of an image (Table 20.5, R365, R366) -/

/-- Counts and offsets of an image header. -/
def nSpecies (b : List Byte) : Nat := fieldOf b 8 2
def nRules (b : List Byte) : Nat := fieldOf b 10 2
def nOverlays (b : List Byte) : Nat := fieldOf b 12 2
def nRelocs (b : List Byte) : Nat := fieldOf b 14 2
def nPads (b : List Byte) : Nat := fieldOf b 44 2
def speciesOff (b : List Byte) : Nat := fieldOf b 16 4
def rulesOff (b : List Byte) : Nat := fieldOf b 20 4
def overlaysOff (b : List Byte) : Nat := fieldOf b 24 4
def dataOff (b : List Byte) : Nat := fieldOf b 28 4
def dataLen (b : List Byte) : Nat := fieldOf b 32 4
def relocsOff (b : List Byte) : Nat := fieldOf b 36 4
def padsOff (b : List Byte) : Nat := fieldOf b 40 4

/-- The bytes of entry `n` of a table. -/
def entryOf (b : List Byte) (off size n : Nat) : List Byte := (b.drop (off + size * n)).take size

/-- A species entry. -/
def readSpecies (e : List Byte) : Species := ⟨fieldOf e 0 2, fieldOf e 2 2, fieldOf e 4 1, bit (fieldOf e 5 1) 0⟩

/-- A micro-operation. -/
def readMicro (e : List Byte) : MicroOp := ⟨fieldOf e 0 1, fieldOf e 1 1, fieldOf e 2 1, fieldOf e 4 2, fieldOf e 6 2⟩

/-- A rule entry. -/
def readRule (e : List Byte) : Rule where
  cats := fieldOf e 1 1
  cls := fieldOf e 4 1
  crew := fieldOf e 5 1
  products := fieldOf e 6 1
  vregs := fieldOf e 7 1
  acc := fieldOf e 8 1
  frame := 64 * fieldOf e 10 2
  ovl := fieldOf e 12 2
  entry := fieldOf e 14 2
  species := (List.range (fieldOf e 0 1)).map fun p => fieldOf e (16 + 2 * p) 2
  joins := (List.range (fieldOf e 2 1)).map fun j =>
    (fieldOf e (24 + 4 * j) 1, fieldOf e (25 + 4 * j) 1, fieldOf e (26 + 4 * j) 1, fieldOf e (27 + 4 * j) 1)
  guard := (List.range (fieldOf e 3 1)).map fun g => readMicro (entryOf e 48 8 g)
  consts := (List.range 4).map fun c => BitVec.ofNat 64 (fieldOf e (112 + 8 * c) 8)
  sc := fieldOf e 144 2
  qd := fieldOf e 146 2

/-- An image whose bytes stand at an address. -/
def readImage (va : Nat) (b : List Byte) : Image where
  va := va
  length := fieldOf b 48 8
  species := (List.range (nSpecies b)).map fun n => readSpecies (entryOf b (speciesOff b) 8 n)
  rules := (List.range (nRules b)).map fun n => readRule (entryOf b (rulesOff b) 160 n)
  overlays := (List.range (nOverlays b)).map fun n =>
    let e := entryOf b (overlaysOff b) 16 n
    (fieldOf e 0 8, fieldOf e 8 4)
  relocs := (List.range (nRelocs b)).map fun n =>
    let e := entryOf b (relocsOff b) 16 n
    (fieldOf e 0 6, fieldOf e 6 1, fieldOf e 8 8)
  pads := (List.range (nPads b)).map fun n =>
    let e := entryOf b (padsOff b) 16 n
    (fieldOf e 0 1, fieldOf e 8 4, fieldOf e 12 4)

/-! ## What makes an image valid -/

/-- Ranges of an image that must lie apart where they are not empty: the header, the tables and the data. -/
def imageSpans (b : List Byte) : List (Nat × Nat) :=
  ([(0, 64), (speciesOff b, 8 * nSpecies b), (rulesOff b, 160 * nRules b), (overlaysOff b, 16 * nOverlays b),
    (dataOff b, dataLen b), (relocsOff b, 16 * nRelocs b), (padsOff b, 16 * nPads b)]).filter (0 < ·.2)

/-- Whether ranges lie apart from one another. -/
def apart : List (Nat × Nat) → Bool
  | [] => true
  | r :: t => t.all (fun q => r.1 + r.2 ≤ q.1 || q.1 + q.2 ≤ r.1) && apart t

/-- The header and the places of the tables (R364). -/
def headerValid (b : List Byte) (m : Image) : Bool :=
  fieldOf b 0 4 == 0x3143524C && fieldOf b 4 2 == 1 && zeroAt b 6 2 && zeroAt b 46 2 && zeroAt b 56 8
    && nSpecies b ≤ 1024 && nRules b ≤ 256 && 1 ≤ nOverlays b && nOverlays b ≤ 4096
    && [speciesOff b, rulesOff b, overlaysOff b, dataOff b, relocsOff b, padsOff b].all (· % 64 == 0)
    && (imageSpans b ++ m.overlays).all (fun r => r.1 + r.2 ≤ m.length) && apart (imageSpans b)

/-- The species table (R33, R365). -/
def speciesValid (b : List Byte) (m : Image) : Bool :=
  (m.species.all fun sp => speciesOk sp.code && sp.home ≤ 5)
    && ((List.range (nSpecies b)).all fun n => fieldOf (entryOf b (speciesOff b) 8 n) 5 1 ≤ 1
      && zeroAt (entryOf b (speciesOff b) 8 n) 6 2)
    && decide (m.species.map (·.code)).Nodup

/-- An operand of micro-operation `g` (R40, R365). -/
def operandValid (npos g kind v : Nat) : Bool :=
  match kind with
  | 0 => v / 8 < npos && v % 8 ≤ 5
  | 1 => v < 4
  | 2 => true
  | 3 => v < g
  | _ => false

/-- A rule entry (R39, R40, R365, Table 20.4). -/
def ruleValid (e : List Byte) (m : Image) (r : Rule) : Bool :=
  let npos := fieldOf e 0 1
  1 ≤ npos && npos ≤ 4 && r.cats < 2 ^ npos - 1 && fieldOf e 2 1 ≤ 6 && fieldOf e 3 1 ≤ 8 && r.cls ≤ 3 && r.crew ≤ 3
    && r.products ≤ 16 && r.vregs ≤ 2 && r.acc ≤ 14 && zeroAt e 9 1 && r.frame ≤ 4096 && zeroAt e 148 12
    && r.entry % 4 == 0 && r.entry < ((m.overlays[r.ovl]?).map (·.2)).getD 0
    && (r.species.all fun i => i < m.species.length) && zeroAt e (16 + 2 * npos) (8 - 2 * npos)
    && (r.joins.all fun j => j.1 < npos && j.2.1 ≤ 5 && j.2.2.1 < npos && j.2.2.2 ≤ 5 && j.1 != j.2.2.1)
    && 1 ≤ r.sc && r.sc ≤ 256 && 1 ≤ r.qd && r.qd ≤ 256
    && ((List.range r.guard.length).zip r.guard).all (fun (g, u) => u.op ≤ 9 && zeroAt (entryOf e 48 8 g) 3 1
      && operandValid npos g u.ka u.a && operandValid npos g u.kb u.b)

/-- Reactants of a rule share a family (R36). -/
def familiesValid (m : Image) : Bool :=
  m.rules.all fun r =>
    let fs := r.species.map fun i => (m.species.getD i default).family
    fs.all (· == fs.headD 0)

/-- The overlay table (R63, R365). -/
def overlaysValid (b : List Byte) (m : Image) : Bool :=
  (m.overlays.all fun o => o.1 % 64 == 0 && o.2 % 4 == 0 && o.2 ≤ 65536)
    && (List.range (nOverlays b)).all fun n => zeroAt (entryOf b (overlaysOff b) 16 n) 12 4

/-- Whether a word is one that a relocation may name (R367). -/
def relocatable (w : List Byte) : Bool :=
  match decodeBytes w with
  | .ok (.ori .., _) => true
  | .ok (.andi .., _) => true
  | .ok (.xori .., _) => true
  | _ => false

/-- The relocation and padding tables (R366, R367). -/
def relocsValid (b : List Byte) (m : Image) : Bool :=
  (m.relocs.all fun r => r.2.1 ≤ 3
      && (m.overlays.any fun o => o.1 ≤ r.1 && r.1 + 4 ≤ o.1 + o.2 && (r.1 - o.1) % 4 == 0)
      && relocatable ((b.drop r.1).take 4))
    && ((List.range (nRelocs b)).all fun n => zeroAt (entryOf b (relocsOff b) 16 n) 7 1)
    && (List.range (nPads b)).all fun n => fieldOf (entryOf b (padsOff b) 16 n) 0 1 < 64
      && zeroAt (entryOf b (padsOff b) 16 n) 1 7

/-- What channelled mode asks besides (R256). -/
def channelledValid (m : Image) : Bool :=
  (m.rules.all fun r => r.crew == 0)
    && (List.range m.species.length).all fun i => (m.rules.filter fun r => (consumedSpecies r).contains i).length ≤ 1

/-- Whether an image's bytes are a valid image for a mode (R288). -/
def imageValid (b : List Byte) (m : Image) (channelled : Bool) : Bool :=
  headerValid b m && speciesValid b m
    && ((List.range (nRules b)).all fun n =>
      ruleValid (entryOf b (rulesOff b) 160 n) m (readRule (entryOf b (rulesOff b) 160 n)))
    && familiesValid m && overlaysValid b m && relocsValid b m && (!channelled || channelledValid m)

/-- Bytes of the range of a lease entry (R350, R354). -/
def entryLength (f : Vif) (r : LeaseRef) : Nat :=
  if r.id = 0xFFFF then Config.poolBytes
  else if r.id = 0xFFFE then 2 ^ 25
  else ((f.leases.find? (·.id == r.id)).map (·.len)).getD 0

/-- Whether every pad range lies within the range of a lease entry that the launch has (R366). -/
def padsValid (f : Vif) (l : Launch) (m : Image) : Bool :=
  m.pads.all fun p => match l.leases[p.1]? with
    | some r => p.2.1 + p.2.2 ≤ entryLength f r
    | none => false

/-- The image of a launch, if it lies wholly within a lease that the launch names and is valid (R288, R364). -/
def imageOf (s : State) (f : Vif) (l : Launch) : Option Image :=
  let within := fun (n : Nat) => l.leases.any fun r => f.leases.any fun e =>
    e.id == r.id && e.space == 2 && e.va ≤ l.imageVa && l.imageVa + n ≤ e.va + e.len
  if l.imageVa % 64 = 0 ∧ within 64 then
    let n := fieldOf ((vifRead s f 2 l.imageVa 64).getD []) 48 8
    if 64 ≤ n ∧ within n then
      let b := (vifRead s f 2 l.imageVa n).getD []
      let m := readImage l.imageVa b
      if imageValid b m l.channelled && padsValid f l m then some m else none
    else none
  else none

/-! ## Placement -/

/-- Cores of an SG that a launch's mask permits, lowest first. -/
def permittedIn (l : Launch) (g : Nat) : List Nat := (List.range 256).filter fun c => bit (l.mask.getD g 0) (tileIndex c)

/-- Whether every core of a block is permitted. -/
def blockPermitted (l : Launch) (g base size : Nat) : Bool :=
  (List.range size).all fun i => bit (l.mask.getD g 0) (tileIndex (base + i))

/-- Whether an SG has an aligned block of permitted cores for a crew shape (R45). -/
def hasBlock (l : Launch) (g shape : Nat) : Bool :=
  let size := crewSize shape
  (List.range (256 / size)).any fun b => blockPermitted l g (size * b) size

/-- The units of a launch (R35). -/
def unitsOf (s : State) (l : Launch) : List Nat :=
  (List.range Config.sgs).filter fun g => sgEnabled s g && !(permittedIn l g).isEmpty

/-- Cores of an SG that stages hold: those of launches that have not ended, and those placed so far. -/
def stageHeld (s : State) (ts : List Stage) (g : Nat) : List Nat :=
  ((s.launches.filter (·.state != .ended)).flatMap (·.stages) ++ ts).flatMap fun t => if t.sgn = g then t.cores else []

/-- The stages of one family in one unit, in ascending rule id, each on the lowest cores left (R256). -/
def placeFamily (m : Image) (g : Nat) : List Nat → List Nat → List Stage
  | _, [] => []
  | free, r :: rs =>
    let sc := ((m.rules[r]?).map (·.sc)).getD 0
    ⟨r, g, free.take sc, 0⟩ :: placeFamily m g (free.drop sc) rs

/-- The stages of a channelled launch (R256); nothing where its families do not all fit. -/
def placeStages (s : State) (l : Launch) (m : Image) : List Nat → List Stage → Option (List Stage)
  | [], ts => some ts
  | fam :: rest, ts =>
    let rules := (List.range m.rules.length).filter fun r =>
      ((m.rules.getD r default).species.head?.map fun i => (m.species.getD i default).family) == some fam
    let need := (rules.map fun r => (m.rules.getD r default).sc).sum
    match l.units.find? fun g => need ≤ ((permittedIn l g).filter fun c => !(stageHeld s ts g).contains c).length with
    | none => none
    | some g =>
      placeStages s l m rest (ts ++ placeFamily m g ((permittedIn l g).filter fun c => !(stageHeld s ts g).contains c) rules)

/-- Families that have a stage, ascending. -/
def stageFamilies (m : Image) : List Nat :=
  insertNats (m.rules.filterMap fun r => r.species.head?.map fun i => (m.species.getD i default).family) []

/-! ## The snapshot (R305, R349, R350, R354) -/

/-- Q of a launch (R305). -/
def snapshotQ (l : Launch) : Nat := 64 * ((l.plen + 63) / 64)

/-- The capability of a lease entry. -/
def leaseCapability (f : Vif) (r : LeaseRef) : Cap :=
  if r.id = 0xFFFF then Cap.range 0 r.perms.toNat 0 Config.poolBytes
  else if r.id = 0xFFFE then Cap.range 1 r.perms.toNat 0 (2 ^ 25)
  else match f.leases.find? (·.id == r.id) with
    | some e => Cap.range e.space r.perms.toNat e.va e.len
    | none => Cap.null

/-- The capability to a launch's snapshot: `k15` at a start (R46, R349). -/
def snapshotCap (p : VifParams) (l : Launch) : Cap :=
  Cap.range 2 (permLoad + permLoadK) (snapshotVa p l.lid) (snapshotQ l + 16 * l.leases.length)

/-- The snapshot, written at entry into RUNNING. -/
def writeSnapshot (s : State) (f : Vif) (l : Launch) : State :=
  let a := pinnedAddr f.p.id (snapshotVa f.p l.lid)
  let q := snapshotQ l
  let m := (s.mem.clear a (2 ^ 17)).write a l.params []
  let m := ((List.range l.leases.length).zip l.leases).foldl (fun m (n, r) =>
    let c := leaseCapability f r
    (m.write (a + q + 16 * n) (capBytes c) []).setTag (a + q + 16 * n)) m
  { s with mem := m }

/-! ## Admission -/

/-- Whether every lease that a launch names has been granted (R303, R350, R354). -/
def leasesGranted (f : Vif) (l : Launch) : Bool :=
  l.leases.all fun r => 0xFFFE ≤ r.id || f.leases.any fun e => e.id == r.id && e.resident

/-- Whether a unit serves all the launches that it can (R249). -/
def unitFull (s : State) (g : Nat) : Bool :=
  Config.launchesPerUnit ≤ (s.launches.filter fun l =>
    (l.state == .running || l.state == .winding || l.state == .draining) && l.units.contains g).length

/-- A launch enters RUNNING: the snapshot, the units, the stages, and the INJECTs held for it (R59, R240, R256, R281,
R312). -/
def enterRunning (s : State) (f : Vif) (l : Launch) : State :=
  let s := writeSnapshot s f l
  let s := l.units.foldl (fun s g => s.setUnit (setUnitLaunch (s.unit g) ⟨l.vif, l.lid, 0, 0, 0, false⟩)) s
  let s := (stageCores' l).foldl (fun s c =>
    let k := s.core c
    s.setCore c { k with chans := [], phaseAt := k.cycle, ctx := { k.ctx with phase := 0 } }) s
  let held := (f.injects.filter fun i => i.lid == l.lid && i.acked).flatMap (·.hdrs)
  let s := (s.setLaunch l).setVif { f with injects := f.injects.filter fun i => !(i.lid == l.lid && i.acked) }
  setOff s l (held.map (·, false))
where
  /-- Stage cores of a launch. -/
  stageCores' (l : Launch) : List CoreId := l.stages.flatMap fun t => t.cores.map fun c => ⟨t.sgn, c⟩

/-- The hash of the image that admission reads, which only a channelled launch signs (R316, R368). -/
def keptHash (s : State) (f : Vif) (l : Launch) : List Byte := if l.channelled then imageHashOf s f l else []

/-- A launch that fails admission, with the image and the hash that admission has read (R316, R366, R368). -/
def notAdmitted (s : State) (f : Vif) (l : Launch) : Launch :=
  { l with image := (imageOf s f l).getD l.image, imageHash := keptHash s f l }

/-- A launch as it would enter RUNNING; nothing where admission fails (Table 3.10, R288). -/
def admitted (s : State) (f : Vif) (l : Launch) : Option Launch :=
  match imageOf s f l with
  | none => none
  | some m =>
    let units := unitsOf s l
    let l := { l with image := m, imageHash := keptHash s f l, units := units }
    let held := (f.injects.filter fun i => i.lid == l.lid && i.acked).flatMap (·.hdrs)
    let fits := !units.isEmpty && declared m held && m.rules.all fun r => units.all fun g => hasBlock l g r.crew
    match if l.channelled then placeStages s l m (stageFamilies m) [] else some [] with
    | none => none
    | some ts =>
      if fits then some { l with state := .running, stages := ts, shards := f.newest } else none

/-- `ADMISSION` (R288): it waits for the named leases (R303) and for a unit that serves 64 launches (R249). -/
def execAdmission (v lid : Nat) (s : State) : Out :=
  match s.vif v, s.launch v lid with
  | some f, some l =>
    if l.state ≠ .admitting ∨ !leasesGranted f l ∨ (unitsOf s l).any (unitFull s) then .next s
    else match admitted s f l with
      | some l => .next (enterRunning s f l)
      | none => .next (finishLaunch s (notAdmitted s f l) .aborted 0)
  | _, _ => .next s

end Sys2Proof.Machine
end

