-- ==== Sys2Proof/Machine/Atomic.lean ====
section
/-! DEFINITION. Atomics (R207, R181, R192). -/

namespace Sys2Proof.Machine

/-- What an AMO waits for: with a release, for all earlier accesses of its agent, in flight or of open streams; else for its agent's
stores in flight to its own bytes, and for the loads of open streams of them (R188, R189, R192, R213; log 5). -/
def amoReady (s : State) (order : Nat) (ls : List Loc) : Res Unit := do
  if 2 ≤ order && ownStores s then .error (.hold s) else .ok ()
  if 2 ≤ order then afterStreams s else .ok ()
  if ownOut s s.here ls then .error (.hold s) else afterMeeting s s.here ls

/-- The bytes of an AMO written at its memory. -/
def amoWrite (s : State) (ls : List Loc) (n v : Nat) : State := { s with mem := putLocs s.mem ls (bytesOfNat n v) [] [] }

/-- Bytes that an AMO moves: its memory's; to another device its operands go, and the old value comes back (R293). -/
def amoMoved (space operands n : Nat) (ls : List Loc) : Moved :=
  movedTo space (if weirOf space = some 3 then n * (operands + 1) else n) ls

/-- An AMO (R207): `operands` is how many it has, `w` is W, `op old source` is the new value where there is one, `natural` is N. A refusal is recorded
whether or not there is a new value (R197); XD then takes the free value read, of which the spec says nothing (log 24). In spaces 4 and 5
every AMO acts, also those that Table 13.11 does not list, for which no rule names an outcome (DESIGN CHOICE, log 89). -/
def amoOp (operands : Nat) (op : Nat → Nat → Option Nat) (natural : Bool) (d : BitVec 5) (k : BitVec 4) (x : BitVec 5) (order : BitVec 2)
    (w : BitVec 1) (s : State) : Out :=
  conclude s do
    let key := s.k k.toNat
    let a : Word := BitVec.ofNat 64 key.va
    let n := if w = 1 then 8 else 4
    let ls ← operand s key a n (permLoad + permStore + permAtomic) n .store
    let src := (s.x x.toNat).toNat % 2 ^ (8 * n)
    let old := natOfBytes (readLocs s ls)
    let new := op old src
    amoReady s order.toNat ls
    if ls.any (locDown s) then
      -- R181: no register, no failure record; the write may have been performed, but not over poison (R186; log 24)
      let t := match new with
        | some v => if Config.amoPerformed s.tick && !anyBad s ls then amoWrite s ls n v else s
        | none => s
      .ok (takeTrap t .memUncorr a)
    else do
      guardTrap (!anyBad s ls) .poisonUse a
      let v : Word := if w = 0 ∧ natural = false then signExtend 32 old else BitVec.ofNat 64 old
      let refused := ls.any (·.foreign) && Config.foreignRefuses s.tick
      let t := if refused then s.setCtx (markPending s.ctx ((ls.head?.map (·.level)).getD 6) 1)
        else match new with
          | some r => amoWrite s ls n r
          | none => s
      issueAll s (t.retire d.toNat v) [amoMoved key.space operands n ls]

/-- The greater or the lesser of two words of `n` bytes, signed or natural. -/
def amoPick (greater natural : Bool) (n old src : Nat) : Nat :=
  let less := if natural then decide (old < src) else decide (toSigned (8 * n) old < toSigned (8 * n) src)
  if less == greater then src else old

/-- Bytes of an AMO. -/
def amoSize (w : BitVec 1) : Nat := if w = 1 then 8 else 4

/-- `amo.add` (R207). The scope makes no difference in the model (log 5). -/
def execAmoAdd (d : BitVec 5) (k : BitVec 4) (x : BitVec 5) (o : BitVec 2) (_scope : BitVec 3) (w : BitVec 1) (s : State) : Out :=
  amoOp 1 (fun o x => some (o + x)) false d k x o w s

/-- `amo.swap` (R207). The scope makes no difference in the model (log 5). -/
def execAmoSwap (d : BitVec 5) (k : BitVec 4) (x : BitVec 5) (o : BitVec 2) (_scope : BitVec 3) (w : BitVec 1) (s : State) : Out :=
  amoOp 1 (fun _ x => some x) false d k x o w s

/-- `amo.and` (R207). The scope makes no difference in the model (log 5). -/
def execAmoAnd (d : BitVec 5) (k : BitVec 4) (x : BitVec 5) (o : BitVec 2) (_scope : BitVec 3) (w : BitVec 1) (s : State) : Out :=
  amoOp 1 (fun o x => some (o &&& x)) false d k x o w s

/-- `amo.or` (R207). The scope makes no difference in the model (log 5). -/
def execAmoOr (d : BitVec 5) (k : BitVec 4) (x : BitVec 5) (o : BitVec 2) (_scope : BitVec 3) (w : BitVec 1) (s : State) : Out :=
  amoOp 1 (fun o x => some (o ||| x)) false d k x o w s

/-- `amo.cas` (R207): the expected value is in XD. -/
def execAmoCas (d : BitVec 5) (k : BitVec 4) (x : BitVec 5) (o : BitVec 2) (_scope : BitVec 3) (w : BitVec 1) (s : State) : Out :=
  let e := (s.x d.toNat).toNat % 2 ^ (8 * amoSize w)
  amoOp 2 (fun old x => if old = e then some x else none) false d k x o w s

/-- `amo.max` (R207). -/
def execAmoMax (d : BitVec 5) (k : BitVec 4) (x : BitVec 5) (o : BitVec 2) (_scope : BitVec 3) (w n : BitVec 1) (s : State) : Out :=
  amoOp 1 (fun old x => some (amoPick true (n == 1) (amoSize w) old x)) (n == 1) d k x o w s

/-- `amo.min` (R207). -/
def execAmoMin (d : BitVec 5) (k : BitVec 4) (x : BitVec 5) (o : BitVec 2) (_scope : BitVec 3) (w n : BitVec 1) (s : State) : Out :=
  amoOp 1 (fun old x => some (amoPick false (n == 1) (amoSize w) old x)) (n == 1) d k x o w s

end Sys2Proof.Machine
end

