-- ==== Sys2Proof/Machine/Branch.lean ====
section
/-! DEFINITION. Branches and jumps (R117 to R119). -/

namespace Sys2Proof.Machine

/-- A branch (R117): to PC + 4·OFS where the comparison holds, to PC + 4 otherwise. -/
def branchOp (holds : Word → Word → Bool) (i : Instr) (a b : BitVec 5) (o : BitVec 16) (s : State) : Out :=
  if holds (s.x a.toNat) (s.x b.toNat) then conclude s (s.jump i ((s.ctx.pc : Int) + 4 * o.toInt))
  else .next s.advance

/-- A link value (R118). -/
def linkOf (s : State) : Word := BitVec.ofNat 64 (s.ctx.pc + 4)

/-- `beq` (R117). -/
def execBeq (a b : BitVec 5) (o : BitVec 16) (s : State) : Out :=
  branchOp (fun a b => a == b) (.beq a b o) a b o s

/-- `bne` (R117). -/
def execBne (a b : BitVec 5) (o : BitVec 16) (s : State) : Out :=
  branchOp (fun a b => a != b) (.bne a b o) a b o s

/-- `blt` (R117). -/
def execBlt (a b : BitVec 5) (o : BitVec 16) (s : State) : Out :=
  branchOp (fun a b => a.slt b) (.blt a b o) a b o s

/-- `bge` (R117). -/
def execBge (a b : BitVec 5) (o : BitVec 16) (s : State) : Out :=
  branchOp (fun a b => !a.slt b) (.bge a b o) a b o s

/-- `bltn` (R117). -/
def execBltn (a b : BitVec 5) (o : BitVec 16) (s : State) : Out :=
  branchOp (fun a b => a.ult b) (.bltn a b o) a b o s

/-- `bgen` (R117). -/
def execBgen (a b : BitVec 5) (o : BitVec 16) (s : State) : Out :=
  branchOp (fun a b => !a.ult b) (.bgen a b o) a b o s

/-- `jal` (R118): the link is written only where the jump is taken (R119). -/
def execJal (d : BitVec 5) (o : BitVec 21) (s : State) : Out :=
  conclude s do
    let t ← s.jump (.jal d o) ((s.ctx.pc : Int) + 4 * o.toInt)
    .ok (t.setX d.toNat (linkOf s))

/-- `jalr` (R118): the target is XA plus the immediate, with its two low bits cleared. -/
def execJalr (d a : BitVec 5) (i : BitVec 16) (s : State) : Out :=
  conclude s do
    let target := s.x a.toNat + i.signExtend 64
    let t ← s.jump (.jalr d a i) (target.toNat / 4 * 4 : Nat)
    .ok (t.setX d.toNat (linkOf s))

end Sys2Proof.Machine
end

