-- ==== Sys2Proof/Machine/CapForms.lean ====
section
/-! DEFINITION. The capability forms (R297 to R301). -/

namespace Sys2Proof.Machine

/-- What a form that derives a capability asks of its source (R298): `derive` is false for `kbase` alone. -/
def derivable (c : Cap) (derive : Bool) : Res Unit := do
  guardTrap c.tag .capTag c.addr
  guardTrap (!c.isSealed) .capPerm c.addr
  guardTrap (!derive || c.perms &&& permDerive == permDerive) .capPerm c.addr

/-- A capability at another VA: outside the window its tag is clear (R297). -/
def Cap.moveTo (c : Cap) (va : Nat) : Cap :=
  let d := c.put 0 56 va
  if c.base ≤ va ∧ (va : Int) < c.base + (2 ^ (c.exp + 11) : Nat) then d else { d with tag := false }

/-- A capability narrowed to a base and a length (R299); the trap's value is the base. -/
def Cap.narrow (c : Cap) (b len : Nat) : Res Cap := do
  let v : Word := BitVec.ofNat 64 b
  guardTrap (c.base ≤ b && decide ((b : Int) + len ≤ c.top)) .capBounds v
  match Cap.expFor len with
  | none => trap .capBounds v
  | some e =>
    guardTrap (b % 2 ^ e == 0 && len % 2 ^ e == 0) .capBounds v
    .ok (((c.put 86 5 e).put 75 11 (b / 2 ^ e)).put 64 11 (len / 2 ^ e))

/-- `kbound` (R299). -/
def execKbound (d : BitVec 4) (a : BitVec 5) (k : BitVec 4) (s : State) : Out :=
  conclude s do
    let c := s.k k.toNat
    derivable c true
    let r ← c.narrow c.va (s.x a.toNat).toNat
    .ok (s.retireK d.toNat r)

/-- `kperm` (R298). -/
def execKperm (d : BitVec 4) (a : BitVec 5) (k : BitVec 4) (s : State) : Out :=
  conclude s do
    let c := s.k k.toNat
    derivable c true
    .ok (s.retireK d.toNat (c.put 91 12 (c.perms &&& bitsOf (s.x a.toNat).toNat 0 12)))

/-- `kaddr` (R297, R298). -/
def execKaddr (d : BitVec 4) (a : BitVec 5) (k : BitVec 4) (s : State) : Out :=
  conclude s do
    let c := s.k k.toNat
    derivable c true
    .ok (s.retireK d.toNat (c.moveTo (bitsOf (s.x a.toNat).toNat 0 56)))

/-- `kformat` (R298). -/
def execKformat (d : BitVec 4) (a : BitVec 5) (k : BitVec 4) (s : State) : Out :=
  conclude s do
    let c := s.k k.toNat
    let w := s.x a.toNat
    derivable c true
    let f := bitsOf w.toNat 60 4
    let b := bitsOf w.toNat 56 4
    guardTrap (f < 12 && blogOk f b) .formatReserved w
    .ok (s.retireK d.toNat ((c.put 60 4 f).put 56 4 b))

/-- `kbase` (R298). -/
def execKbase (d k : BitVec 4) (s : State) : Out :=
  conclude s do
    let c := s.k k.toNat
    derivable c false
    .ok (s.retireK d.toNat (c.put 0 56 (wrap 56 c.base)))

/-- Whether a capability is an authority with a permission (R300). -/
def authority (c : Cap) (perm : Nat) : Bool :=
  c.tag && !c.isSealed && c.perms &&& perm == perm && decide (c.base ≤ c.va) && decide ((c.va : Int) < c.top)
    && c.va < 2 ^ 20

/-- `kseal` (R300). -/
def execKseal (d k m : BitVec 4) (s : State) : Out :=
  conclude s do
    let c := s.k k.toNat
    let w := s.k m.toNat
    guardTrap c.tag .capTag c.addr
    guardTrap (authority w permSeal) .capPerm w.addr
    guardTrap (!c.isSealed) .capPerm w.addr
    .ok (s.retireK d.toNat ((c.put 107 1 1).put 108 20 w.va))

/-- `kunseal` (R300). -/
def execKunseal (d k m : BitVec 4) (s : State) : Out :=
  conclude s do
    let c := s.k k.toNat
    let w := s.k m.toNat
    guardTrap c.tag .capTag c.addr
    guardTrap (authority w permUnseal) .capPerm w.addr
    guardTrap (c.isSealed && c.otype == w.va) .capPerm w.addr
    .ok (s.retireK d.toNat ((c.put 107 1 0).put 108 20 0))

/-- `klease` (R301). -/
def execKlease (d : BitVec 4) (a : BitVec 5) (k : BitVec 4) (s : State) : Out :=
  conclude s do
    legal (.klease d a k) (s.ctx.level != .user)
    let c := s.k k.toNat
    let w := s.x a.toNat
    derivable c true
    let id := bitsOf w.toNat 0 16
    let named := (s.myLaunch.map fun l => l.leases.any (·.id == id)).getD false
    match if named then (s.myVif.bind s.vif).bind fun f => f.leases.find? (·.id == id) else none with
    | none => trap .capPerm w
    | some e =>
      guardTrap (c.space == e.space) .capPerm w
      let lo : Int := max c.base e.va
      let hi : Int := min c.top (e.va + e.len : Nat)
      guardTrap (decide (lo < hi)) .capBounds (BitVec.ofNat 64 lo.toNat)
      let r ← c.narrow lo.toNat (hi - lo).toNat
      .ok (s.retireK d.toNat (r.put 0 56 lo.toNat))

/-- `kgaddr` (R298). -/
def execKgaddr (d : BitVec 5) (k : BitVec 4) (s : State) : Out := .next (s.retire d.toNat (s.k k.toNat).addr)

/-- `kglen` (R298). -/
def execKglen (d : BitVec 5) (k : BitVec 4) (s : State) : Out :=
  let c := s.k k.toNat
  .next (s.retire d.toNat (BitVec.ofNat 64 (c.lm * 2 ^ c.exp)))

/-- `kgbase` (R298). -/
def execKgbase (d : BitVec 5) (k : BitVec 4) (s : State) : Out :=
  .next (s.retire d.toNat (BitVec.ofInt 64 (s.k k.toNat).base))

/-- `kgperm` (R298). -/
def execKgperm (d : BitVec 5) (k : BitVec 4) (s : State) : Out :=
  .next (s.retire d.toNat (BitVec.ofNat 64 (s.k k.toNat).perms))

/-- `kgspace` (R298). -/
def execKgspace (d : BitVec 5) (k : BitVec 4) (s : State) : Out :=
  let c := s.k k.toNat
  .next (s.retire d.toNat (BitVec.ofNat 64 (c.otype * 2 ^ 8 + (if c.isSealed then 2 ^ 4 else 0) + c.space)))

/-- `kgtag` (R298). -/
def execKgtag (d : BitVec 5) (k : BitVec 4) (s : State) : Out :=
  .next (s.retire d.toNat (if (s.k k.toNat).tag then 1 else 0))

end Sys2Proof.Machine
end

