-- ==== Sys2Proof/Machine/Timeline.lean ====
section
/-! DEFINITION. Timeline counters and user-level events (R216, R217, R231). -/

namespace Sys2Proof.Machine

/-- An event queued on a core, which ends a `wfe` where events are delivered (R231, R345). -/
def Core.queueEvent (k : Core) (info value : Word) : Core :=
  let k := { k with ctx := { k.ctx with events := k.ctx.events ++ [(info, value)] } }
  if bit k.ctx.evec.toNat 0 then k.wake else k

/-- An event of the reaction of a core (R231): queued on the core, or in its context record while it is evicted, where
`estatus` of the block counts it (Table 14.5, EVENTS). -/
def recordEvent (s : State) (c : CoreId) (x : Nat) (info value : Word) : State :=
  let k := s.core c
  if k.rx = some x then s.setCore c (k.queueEvent info value)
  else match evictedAt s c x with
    | some a =>
      let b := s.mem.readNat (a + 778) 1
      let n := bitsOf b 4 4
      let m := s.mem.write (a + 1792 + 16 * n) (wordBytes info ++ wordBytes value) []
      { s with mem := m.writeNat (a + 778) 1 (setBits b 4 4 (n + 1)) }
    | none => s

/-- `tread` (R217). -/
def execTread (d : BitVec 5) (l : BitVec 3) (s : State) : Out :=
  let c := s.ctx
  let u := s.setCtx { c with fault := c.fault &&& ~~~(BitVec.ofNat 8 (2 ^ l.toNat)) }
  .next (u.retire d.toNat (s.me.complete.getD l.toNat 0))

/-- `tissue` (R217). -/
def execTissue (d : BitVec 5) (l : BitVec 3) (s : State) : Out :=
  .next (s.retire d.toNat (s.me.issued.getD l.toNat 0))

/-- `twait` (R217): it holds by being executed again. -/
def execTwait (l : BitVec 3) (a : BitVec 5) (s : State) : Out :=
  conclude s do
    legal (.twait l a) (s.x a.toNat ≤ s.me.issued.getD l.toNat 0)
    if s.x a.toNat ≤ s.me.complete.getD l.toNat 0 then .ok s.advance else .error (.hold s)

/-- `evret` (R231). -/
def execEvret (s : State) : Out :=
  conclude s do
    legal .evret s.ctx.inev
    let u ← s.jump .evret (s.ctx.epc.toNat : Nat)
    .ok (u.setCtx { u.ctx with inev := false })

end Sys2Proof.Machine
end

