-- ==== Sys2Proof/Machine/Engine.lean ====
section
/-! DEFINITION. Engine commands: the block, its checks, and the acceptance (R214, R215, R221 to R228). What an accepted
operation does is in EngineRun.lean. -/

namespace Sys2Proof.Machine

/-! ## Command blocks -/

/-- A field of an operation's block. -/
def EngineOp.num' (o : EngineOp) (off len : Nat) : Nat := fieldOf o.block off len

/-- A capability of an operation's block. -/
def EngineOp.cap (o : EngineOp) (off : Nat) : Cap := ⟨o.tags.getD (off / 16) false, BitVec.ofNat 128 (fieldOf o.block off 16)⟩

/-- TL of an operation's control word (Table 10.4). -/
def EngineOp.tl (o : EngineOp) : Nat := bitsOf o.ctl.toNat 0 3

/-- Whether an operation has ordered delivery (Table 10.12). -/
def EngineOp.ordered (o : EngineOp) : Bool := o.op == 8 && o.num' 41 1 == 1

/-- Bytes of an operation's block. -/
def blockLength (op : Nat) : Nat := if op ≤ 2 ∨ op = 5 ∨ op = 8 then 64 else 128

/-- Where the capabilities of a block are. -/
def capOffsets (op : Nat) : List Nat :=
  if op ≤ 2 ∨ op = 7 then [0, 16, 32] else if op = 5 then [] else if op = 8 then [0, 16] else [0, 16, 32, 48]

/-- The table of the remap stage that an operation goes through (R222, R223). -/
def EngineOp.remapTable (o : EngineOp) : Option Cap :=
  if (o.op == 3 || o.op == 4) && o.num' 80 1 == 1 then (o.remap.filter (·.mode == 2)).map (·.mapt) else none

/-- Weirs that must be open for an operation: those of the spaces it touches (Table 13.3). -/
def opWeirs (o : EngineOp) : List Nat :=
  ((capOffsets o.op).map o.cap ++ o.remapTable.toList).filterMap fun c => if c.tag then weirOf c.space else none

/-- Whether a range of a pool is one that the issuing core may reach: within the pool (R199), and in space 1 of its own
VIF (R291). Other spaces are asked when the operation runs. -/
def poolRange (s : State) (c : Cap) (n : Nat) : Res Unit :=
  if c.space ≤ 1 then do
    let _ ← locate s c.space c.addr n .engine
    .ok ()
  else .ok ()

/-- The check of one capability of a block (R215 step 3): rights and ENGINE, bounds where a size is given, the spaces
its rule allows, the pool where the range lies in one (R199, R291), and the formats (R114). A FORMAT of 7 where the rule
of the engine does not decode it raises FORMAT_NOT_ADDRESSABLE here, at issue, as a DST of Table 10.7 does: the spec
names no trap for the other engines (log 41, DESIGN CHOICE). -/
def engineCap (s : State) (c : Cap) (need : Nat) (size : Option Nat) (spaces : List Nat) (coded : Bool) : Res Unit := do
  match size with
  | some n => capCheck s.ctx.level c c.addr n (need + permEngine)
  | none => capRights s.ctx.level c c.addr (need + permEngine)
  guardTrap (spaces.contains c.space) .capPerm c.addr
  match size with
  | some n => poolRange s c n
  | none => .ok ()
  guardTrap (coded || c.format != 7) .formatNotAddressable c.addr
  guardTrap (c.format < 12 && blogOk c.format c.blog) .formatReserved c.addr

/-- A range of the pool that must lie in scratch (R215 step 1). -/
def inScratch (s : State) (off n : Nat) : Res Unit :=
  guardTrap (s.ctx.scratch ≤ off && off + n ≤ Config.poolBytes) .capBounds (BitVec.ofNat 64 off)

/-- A command (R215): `check` is what steps 2 and 3 ask of the block, `effect` what acceptance does to the issuing
reaction besides (R223). It waits for the loads of open streams, which come before every access of its operation (R188 case 5,
R213, R229). -/
def command (i : Instr) (op : Nat) (a b : BitVec 5) (s : State) (check : EngineOp → Res Unit)
    (effect : EngineOp → Ctx → Ctx) : Out :=
  conclude s do
    if s.cur.idx = Config.tsc then .error (.fault .tscHasNoPool) else .ok ()
    let ctl := s.x b.toNat
    let xa := (s.x a.toNat).toNat
    let size := blockLength op
    legal i (bitsOf ctl.toNat 32 32 == 0 && bitsOf ctl.toNat 5 11 == 0 && xa % 64 == 0)
    inScratch s xa size
    if bit ctl.toNat 4 then inScratch s (16 * bitsOf ctl.toNat 16 16) 16 else .ok ()
    match (poolPoison s xa size).head? with
    | some o => trap .poisonUse (BitVec.ofNat 64 o)
    | none =>
      let r := s.myReaction
      let o : EngineOp :=
        { core := s.cur, x := s.me.rx.getD 0, gen := (r.map (·.gen)).getD 0, vif := s.myVif.getD 0
          lid := (r.map (·.lid)).getD 0, op := op, block := poolRead s xa size
          tags := (List.range (size / 16)).map fun n => s.mem.tagAt (poolAddr s.cur (xa + 16 * n))
          ctl := ctl, num := 0, mode := s.ctx.mode, flush := s.ctx.flush, remap := s.ctx.remap, seq := s.seq
          begun := false, cursor := Cursor.start, miss := none, deferred := false, setAside := false, finished := none }
      check o
      afterStreams s
      if engineBusy s s.cur (engineBit op) || (bit ctl.toNat 3 && 8 ≤ eventsOut s s.cur)
          || (opWeirs o).any (fun w => !weirOpen s (s.myVif.getD 0) w) then .error (.hold s)
      else
        let (me, n) := issueNum s.me o.tl
        let u := s.setMe { me with ctx := effect o me.ctx }
        .ok { u with ops := s.ops ++ [{ o with num := n }], seq := s.seq + 1 }.advance

/-! ## Copy, get and put (R221) -/

/-- The checks of a copy block (Table 10.7). The length of a source of FORMAT 7 is not known here: its pool's owner is asked about its
first byte (R291), and its range block by block as it is read, where no rule says when that is checked (DESIGN CHOICE, log 76). -/
def copyCheck (i : Instr) (s : State) (o : EngineOp) : Res Unit := do
  let src := o.cap 0
  let dst := o.cap 16
  let shape := o.cap 32
  let len := o.num' 48 8
  legal i (o.num' 56 8 == 0 && (o.op == 0 || !shape.tag))
  legal i (shape.tag || (1 ≤ len && len ≤ 2 ^ 40))
  legal i (shape.tag || src.format != 7 || len % (2 * 2 ^ src.blog) == 0)
  engineCap s src permLoad (if shape.tag ∨ src.format = 7 then none else some len) (if o.op = 2 then [0] else [0, 1, 2, 3]) true
  engineCap s dst permStore (if shape.tag then none else some len) (if o.op = 1 then [0] else [0, 1, 2, 3]) false
  if shape.tag then engineCap s shape permLoad (some 128) [0, 1, 2, 3] false else .ok ()
  if !shape.tag && src.format == 7 then poolRange s src 1 else .ok ()

/-- A copy command. -/
def copyCommand (i : Instr) (op : Nat) (a b : BitVec 5) (s : State) : Out :=
  command i op a b s (copyCheck i s) fun _ c => c

/-- `ecopy` (R221). -/
def execEcopy (a b : BitVec 5) (s : State) : Out := copyCommand (.ecopy a b) 0 a b s

/-- `eget` (R221). -/
def execEget (a b : BitVec 5) (s : State) : Out := copyCommand (.eget a b) 1 a b s

/-- `eput` (R221). -/
def execEput (a b : BitVec 5) (s : State) : Out := copyCommand (.eput a b) 2 a b s

/-! ## Gather, scatter and the remap stage (R222, R223) -/

/-- The checks of a gather or scatter block (Table 10.8): bounds of the index list and the mask here, those of the rows
when the operation runs. -/
def rowsCheck (i : Instr) (s : State) (o : EngineOp) : Res Unit := do
  let gather := o.op == 3
  let count := o.num' 64 4
  let rowb := o.num' 68 4
  legal i (zeroAt o.block 81 47 && o.num' 80 1 ≤ 1 && 1 ≤ count && count ≤ 2 ^ 24
    && 4 ≤ rowb && rowb ≤ 65532 && rowb % 4 == 0)
  legal i (o.num' 80 1 == 0 || o.remap.isSome)
  engineCap s (o.cap 0) (if gather then permLoad else permStore) none [0, 1, 2, 3] false
  engineCap s (o.cap 16) (if gather then permStore else permLoad) none [0, 1, 2] false
  engineCap s (o.cap 32) permLoad (some (4 * count)) [0, 1, 2, 3] false
  if (o.cap 48).tag then engineCap s (o.cap 48) permStore (some ((count + 7) / 8)) [0, 1, 2] false else .ok ()

/-- `egather` (R222). -/
def execEgather (a b : BitVec 5) (s : State) : Out :=
  command (.egather a b) 3 a b s (rowsCheck (.egather a b) s) fun _ c => c

/-- `escatter` (R222). -/
def execEscatter (a b : BitVec 5) (s : State) : Out :=
  command (.escatter a b) 4 a b s (rowsCheck (.escatter a b) s) fun _ c => c

/-- The remap configuration of a remap block (Table 10.9). -/
def remapOf (o : EngineOp) : Remap where
  mode := o.num' 16 4
  m := o.num' 20 4
  seed := BitVec.ofNat 32 (o.num' 24 4)
  tlen := o.num' 28 4
  mapt := o.cap 0

/-- `eremap` (R223). MAPT is looked at in mode 2 only: Table 10.9 has its tag clear in modes 0 and 1, and no rule says what one that is
set there does; it is accepted (DESIGN CHOICE, log 41). -/
def execEremap (a b : BitVec 5) (s : State) : Out :=
  let i : Instr := .eremap a b
  command i 5 a b s (fun o => do
      let r := remapOf o
      legal i (zeroAt o.block 32 32 && r.mode ≤ 2 && (if r.mode = 2 then 1 ≤ r.tlen else 1 ≤ r.m))
      if r.mode = 2 then engineCap s r.mapt permLoad (some (4 * r.tlen)) [0, 1, 2, 3] false else .ok ())
    fun o c => { c with remap := some (remapOf o) }

/-! ## Pooling, merging and remote operations (R224 to R228) -/

/-- Bytes of an element of an embedding table's FORMAT (R224); 0 for a format it may not have. -/
def tableElement (format : Nat) : Nat :=
  if format = 2 then 4 else if format = 3 ∨ format = 4 then 2 else if format = 5 ∨ format = 6 then 1 else 0

/-- The TYPE of a table's FORMAT: FP32, BF16, FP16, E4M3 or E5M2. -/
def tableType (format : Nat) : Nat := format - 1

/-- `epool` (R224). The ranges of OUT, ENT and OFFS are checked access by access as the operation runs, since the rule names no check
of them at issue; an OUT whose FORMAT is neither 0 nor 2, for which it names no cause, raises FORMAT_NOT_ADDRESSABLE (DESIGN CHOICE,
log 77). -/
def execEpool (a b : BitVec 5) (s : State) : Out :=
  let i : Instr := .epool a b
  command i 6 a b s (fun o => do
      let tbl := o.cap 0
      let d := o.num' 68 4
      let rb := d * tableElement tbl.format
      legal i (zeroAt o.block 81 47 && o.num' 80 1 ≤ 3 && 1 ≤ o.num' 64 4 && o.num' 64 4 ≤ 65536 && 1 ≤ d && d ≤ 4096)
      legal i (tbl.va % 4096 == 0 && 2 ≤ tbl.format && tbl.format ≤ 6 && rb ≤ 4096 && 2 ^ Nat.log2 rb == rb)
      engineCap s tbl permLoad none [3] false
      engineCap s (o.cap 16) permStore none [0, 1, 2] false
      guardTrap ((o.cap 16).format == 0 || (o.cap 16).format == 2) .formatNotAddressable (o.cap 16).addr
      engineCap s (o.cap 32) permLoad none [0, 1, 2, 3] false
      engineCap s (o.cap 48) permLoad none [0, 1, 2, 3] false)
    fun _ c => c

/-- `emerge` (R226). -/
def execEmerge (a b : BitVec 5) (s : State) : Out :=
  let i : Instr := .emerge a b
  command i 7 a b s (fun o => do
      let runs := o.num' 48 2
      legal i (1 ≤ runs && runs ≤ 16 && o.num' 50 1 ≤ 3 && o.num' 51 1 == 0 && 1 ≤ o.num' 52 4 && o.num' 52 4 ≤ 65536
        && (bit (o.num' 50 1) 1 || !(o.cap 32).tag) && (List.range 16).all fun r => r < runs || o.num' (64 + 4 * r) 4 == 0)
      engineCap s (o.cap 0) permLoad none [0, 1, 2] false
      engineCap s (o.cap 16) permStore none [0, 1, 2] false
      if bit (o.num' 50 1) 1 then engineCap s (o.cap 32) permLoad none [0, 1, 2, 3] false else .ok ())
    fun _ c => c

/-- `esend` (R228). -/
def execEsend (a b : BitVec 5) (s : State) : Out :=
  let i : Instr := .esend a b
  command i 8 a b s (fun o => do
      let opc := o.num' 40 1
      let len := o.num' 32 8
      legal i (opc ≤ 4 && o.num' 41 1 ≤ 1 && zeroAt o.block 42 6)
      legal i (if opc ≤ 1 then 1 ≤ len && len ≤ 2 ^ 32 else len == 8)
      engineCap s (o.cap 0) (if opc = 0 then permLoad else permStore) (some len) [0, 1, 2] false
      engineCap s (o.cap 16) (permRemote + (if opc = 0 then permStore else if opc = 1 then permLoad else permLoad + permStore))
        (some len) [4, 5] false
      guardTrap (opc ≤ 1 || (o.cap 16).va % 8 == 0) .misalignedAtomic (o.cap 16).addr)
    fun _ c => c

end Sys2Proof.Machine
end

