-- ==== Sys2Proof/Machine/Stream.lean ====
section
/-! DEFINITION. The stream forms (R210, R212). -/

namespace Sys2Proof.Machine

/-- Element size of a FORMAT (Table 10.2); for FORMAT 0 and 7 that of the record. -/
def formatElement (q : StreamReg) : Nat :=
  match q.base.format with
  | 1 => 8 | 2 => 4 | 3 => 2 | 4 => 2 | 5 => 1 | 6 => 1 | 8 => 1 | 9 => 4 | 10 => 4 | 11 => 8 | _ => 2 ^ q.elog

/-- The formats that a walk admits (R210 step 6, and the rules of FORMAT 7). -/
def walkFormat (q : StreamReg) : Res Unit := do
  let a := q.base.addr
  guardTrap (q.base.format < 12 && (q.base.format == 7 || blogOk q.base.format q.base.blog)) .formatReserved a
  guardTrap (formatElement q == 2 ^ q.elog) .formatNotAddressable a
  guardTrap (q.base.format != 7 || (q.dir == 0 && q.elog == 1 && q.str 0 == 0 && q.ext 0 % 2 ^ q.base.blog == 0))
    .formatNotAddressable a

/-- `qopen` (R210). -/
def execQopen (q : BitVec 3) (k m : BitVec 4) (s : State) : Out :=
  conclude s do
    let base := s.k k.toNat
    let rec' := s.k m.toNat
    let a : Word := BitVec.ofNat 64 rec'.va
    capCheck s.ctx.level rec' a 64 permLoad
    let (bs, bad, ls) ← loadBytes s rec'.space a 64
    guardTrap (!bad.any id) .poisonUse a
    let fibres : Word := BitVec.ofNat 64 ((rec'.va + 64) % 2 ^ 56)
    let r : StreamReg :=
      { isOpen := true, record := BitVec.ofNat 512 (natOfBytes bs), fibres := fibres, listSpace := rec'.space
        base := base, pos := 0, since := s.seq, ahead := [], cursor := none }
    guardTrap r.sound .formatReserved a
    if r.kind = 1 then capCheck s.ctx.level rec' fibres (8 * r.flen) permLoad else .ok ()
    capRights s.ctx.level base base.addr (if r.dir = 0 then permLoad else permStore)
    guardTrap (base.space != 6 && base.space != 7) .capPerm base.addr
    walkFormat r
    let old := s.q q.toNat
    if old.isOpen && old.dir == 1 && ownStores s then .error (.hold s)
    else issueAll s { (s.setQ q.toNat r).advance with seq := s.seq + 1 } [movedTo rec'.space 64 ls]

/-- `qadv` (R212). -/
def execQadv (q : BitVec 3) (s : State) : Out :=
  conclude s do
    let r := s.q q.toNat
    legal (.qadv q) r.isOpen
    .ok (s.setQ q.toNat r.next).advance

/-- `qend` (R212). -/
def execQend (d : BitVec 5) (q : BitVec 3) (s : State) : Out :=
  conclude s do
    let r := s.q q.toNat
    legal (.qend d q) r.isOpen
    .ok (s.retire d.toNat (if r.pos = r.total then 1 else 0))

/-- `qclose` (R212): a write stream waits for its core's stores in flight, those of the stream and the others alike (log 79). -/
def execQclose (q : BitVec 3) (s : State) : Out :=
  conclude s do
    let r := s.q q.toNat
    if r.isOpen && r.dir == 1 && ownStores s then .error (.hold s)
    else .ok (s.setQ q.toNat StreamReg.closed).advance

end Sys2Proof.Machine
end

