-- ==== Sys2Proof/Machine/EngineRun.lean ====
section
/-! DEFINITION. What an accepted engine operation does, one access after another, and its completion (R218, R221 to R229,
R334). -/

namespace Sys2Proof.Machine

/-! ## The accesses of an operation (R218, R229, R293) -/

/-- The machine as the engine of an operation sees it: its accesses go through the TLB of the issuing core for the issuing
reaction (R306; log 17), see no store early (R181), and are those of no live member (R179, R267). -/
def asEngine (s : State) (o : EngineOp) : State :=
  let k := s.core o.core
  { s with cur := o.core, stores := [] }.setMe { k with rx := some o.x, ctx := { k.ctx with level := .supervisor } }

/-- An access of an operation is charged as it is made, by the bytes it moves (R293; log 41), and its translations are the
most recently used (R307). -/
def chargeMoved (s : State) (m : Moved) : State :=
  let s := s.useTlb m.used
  match weirOf m.space, s.myVif with
  | some w, some v => charge s v w m.bytes
  | _, _ => s

/-- The places of an access through a capability, checked. -/
def enginePlaces (s : State) (c : Cap) (a : Word) (n need : Nat) (kind : Access) : Res (List Loc) := do
  capCheck .user c a n (need + permEngine)
  locate s c.space a n kind

/-- A read of an operation for a unit of its work: checked, and put together from the pieces that have been read (R185, R229). -/
def engineRead (o : EngineOp) (unit : Nat) (c : Cap) (off : Int) (n need : Nat) : Res Got := do
  let a := effAddr c 0 1 off
  capCheck .user c a n (need + permEngine)
  assemble o.cursor.got unit c.space a n

/-- A piece that an operation reads: one access, charged as it is made. -/
def readPiece (s : State) (w : Need) : Res (State × Ahead) := do
  let a : Word := BitVec.ofNat 64 w.addr
  let ls ← locate s w.space a w.len .engine
  reachable s ls a
  .ok (chargeMoved s (movedTo w.space w.len ls),
    ⟨w.unit, w.space, w.addr % 2 ^ 56, readLocs s ls, badBytes s ls, tagsOf s.mem ls⟩)

/-- What an operation writes, cut at the granules of the space that it goes to (R185, R229); the last piece adds to the count, and the
last of a 32-byte granule that is written whole and good makes it good (R186). -/
def cutPiece (o : EngineOp) (p : Piece) : List Piece :=
  let a := (effAddr (o.cap p.cap) 0 1 p.off).toNat
  let g := granuleOf (o.cap p.cap).space
  let n := p.bytes.length
  (cutRange g (n / g + 2) a n).map fun c =>
    let i := c.1 - a
    { p with
      off := p.off + i, bytes := (p.bytes.drop i).take c.2, bad := (p.bad.drop i).take c.2
      tags := (p.tags.filter fun t => i ≤ t && t < i + c.2).map (· - i), adds := if i + c.2 = n then p.adds else 0
      heals := (partGranules a p.bad n (c.1, (p.bytes.drop i).take c.2, [])).contains (c.1 / 32) && (c.1 + c.2) % 32 == 0 }

/-- Bytes to write at an offset of a capability of the block, all poisoned or none. -/
def plainPiece (cap : Nat) (off : Int) (bs : List Byte) (bad : Bool) (adds : Nat) : Piece :=
  ⟨cap, off, bs, List.replicate bs.length bad, [], adds, false⟩

/-- Bytes up to the end of the 64-byte granule of a destination at an offset, of those still to come (R221). -/
def granuleRest (dst : Cap) (off rest : Nat) : Nat := Nat.min rest (64 - (dst.va + off) % 64)

/-! ## Copies (R221) -/

/-- Whether a copy keeps tags (R203). -/
def keepsTags (src dst : Cap) : Bool :=
  tagPasses src permLoadK && tagPasses dst permStoreK && src.va % 16 == dst.va % 16

/-- A plain copy goes on: the bytes for the next destination granule have been read (R221). -/
def readCopy (s : State) (o : EngineOp) : Res (State × Cursor) := do
  let c := o.cursor
  let src := o.cap 0
  let dst := o.cap 16
  let n := granuleRest dst c.pos (o.num' 48 8 - c.pos)
  let g ← engineRead o 0 src c.pos n permLoad
  let tags := if keepsTags src dst then g.tags.filter fun t => (dst.va + c.pos + t) % 16 == 0 else []
  .ok (s, { c with pos := c.pos + n, got := [], out := [⟨16, c.pos, g.bs, g.bad, tags, n, false⟩] })

/-- Decoded bytes that a copy holds, up to a number, on their way to the destination. -/
def emptyBuf (c : Cursor) (n : Nat) : Cursor :=
  let here := c.buf.take n
  { c with pos := c.pos + here.length, buf := c.buf.drop n, out := [⟨16, c.pos, here.map (·.1), here.map (·.2), [], here.length, false⟩] }

/-- A copy of coded blocks goes on (R109 to R112, R221): once the blocks of a whole destination granule have been decoded, that is
written; until then the next block is. -/
def readCoded (s : State) (o : EngineOp) : Res (State × Cursor) := do
  let c := o.cursor
  let src := o.cap 0
  let n := granuleRest (o.cap 16) c.pos (o.num' 48 8 - c.pos)
  if n ≤ c.buf.length then .ok (s, emptyBuf c n)
  else do
    let a := effAddr src 0 1 c.off
    let h ← match engineRead o 0 src c.off 4 permLoad with
      | .error (.missing ps) => .error (.missing (ps.map (·.toEnd)))
      | r => r
    let len := blockSize src.blog (natOfBytes h.bs)
    let g ← engineRead o 0 src c.off len permLoad
    match decodeBlock src.blog g.bs with
    | .malformed => trap .formatReserved a
    | .signedScale => trap .scaleSign a
    | .elements es =>
      let bad := g.bad.any id
      .ok (s, { c with off := c.off + len, got := [], buf := c.buf ++ (es.flatMap (bytesOfNat 2)).map (·, bad) })

/-- The walk of a shape record of a shaped copy: the record and its rules (R209, R210; log 41). -/
def shapeWalk (o : EngineOp) (base : Cap) (off : Nat) : Res StreamReg := do
  let shape := o.cap 32
  let a := effAddr shape 0 1 off
  let g ← engineRead o 0 shape off 64 permLoad
  guardTrap (!g.bad.any id) .poisonUse a
  let q : StreamReg :=
    { isOpen := true, record := BitVec.ofNat 512 (natOfBytes g.bs), fibres := effAddr shape 0 1 (off + 64)
      listSpace := shape.space, base := base, pos := 0, since := 0, ahead := [], cursor := none }
  guardTrap q.sound .formatReserved a
  if q.kind = 1 then capCheck .user shape q.fibres (8 * q.flen) (permLoad + permEngine) else .ok ()
  walkFormat q
  .ok q

/-- An element of a walk from what has been read: its bytes, the poison of each, and the walk behind it. -/
def walkElement (lv : Level) (q : StreamReg) (p : Nat) : Res (List Byte × List Bool × StreamReg) := do
  if q.base.format = 7 then
    let (e, b) ← codedElements lv q 2 p 1 none
    .ok (e.bytes, e.bad, q.afterBlock (p + 1) b)
  else
    let e ← streamElement lv q p
    .ok (e.bytes, e.bad, q.goTo (p + 1))

/-- Whether an element of a shaped copy at an offset goes into the 64-byte destination granule of those that it holds. -/
def sameGranule (dst : Cap) (off : Int) : List Piece → Bool
  | [] => true
  | q :: _ => (effAddr dst 0 1 off).toNat / 64 == (effAddr dst 0 1 q.off).toNat / 64

/-- A shaped copy goes on: its two records are read, and then the elements in walk order. Those that follow one another into one
destination granule are all read before any of them is written (R221; log 16). Records of unequal ELOG or T, for which no rule names a
cause, fail the operation with FORMAT_RESERVED at the second (DESIGN CHOICE, log 41). An element has at
most 8 bytes and is no tagged granule, so that no tag is kept (R203; log 41, DESIGN CHOICE). -/
def readShaped (s : State) (o : EngineOp) : Res (State × Cursor) := do
  let c := o.cursor
  match c.walks with
  | [a, b] =>
    if a.total ≤ c.pos then .ok (s, { c with held := [], out := c.held })
    else
      let off ← walkOffset { b with ahead := c.got } c.pos 0
      if sameGranule (o.cap 16) off c.held then
        let (bs, bad, next) ← walkElement s.ctx.level { a with ahead := c.got } c.pos
        .ok (s, { c with
          pos := c.pos + 1, walks := [{ next with ahead := [] }, b], got := next.ahead
          held := c.held ++ [⟨16, off, bs, bad, [], 2 ^ a.elog, false⟩] })
      else .ok (s, { c with held := [], out := c.held })
  | _ =>
    let a ← shapeWalk o (o.cap 0) 0
    let b ← shapeWalk o (o.cap 16) 64
    guardTrap (a.elog == b.elog && a.total == b.total) .formatReserved (effAddr (o.cap 32) 0 1 64)
    .ok (s, { c with walks := [a, b], got := [] })

/-! ## Gather and scatter (R222, R223) -/

/-- The hash of the remap stage (R223). -/
def remapHash (x : Nat) (seed : BitVec 32) : Nat :=
  let h : BitVec 32 := BitVec.ofNat 32 x ^^^ seed
  let h := h ^^^ (h >>> 16)
  let h := h * 0x9E3779B1#32
  let h := h ^^^ (h >>> 13)
  let h := h * 0x6A5D39E9#32
  (h ^^^ (h >>> 16)).toNat

/-- Remap(x) (R223): nothing for a tombstone. -/
def remapIndex (o : EngineOp) (x : Nat) : Res (Option Nat) :=
  match if o.num' 80 1 = 1 then o.remap else none with
  | none => .ok (some x)
  | some r =>
    if r.mode = 0 then .ok (some (x % r.m))
    else if r.mode = 1 then .ok (some (remapHash x r.seed % r.m))
    else if r.tlen ≤ x then trap .capBounds 0
    else do
      let g ← engineRead o 0 r.mapt (4 * x : Nat) 4 permLoad
      let j := natOfBytes g.bs
      .ok (if j = 2 ^ 32 - 1 then none else some j)

/-- Offsets of row r in the source and in the destination, where its index maps to j (R222). -/
def rowOffsets (o : EngineOp) (r j : Nat) : Nat × Nat :=
  if o.op = 3 then (j * o.num' 72 8, r * o.num' 68 4) else (r * o.num' 68 4, j * o.num' 72 8)

/-- Where the block holds the capability of a row's source, and of its destination. -/
def rowCaps (o : EngineOp) : Nat × Nat := if o.op = 3 then (0, 16) else (16, 0)

/-- A check of row r that fails carries r as VALUE (R222). -/
def rowValue {α : Type} (r : Nat) : Res α → Res α
  | .error (.trap .capBounds _) => trap .capBounds (BitVec.ofNat 64 r)
  | .error (.trap .capPerm _) => trap .capPerm (BitVec.ofNat 64 r)
  | .error (.trap .capTag _) => trap .capTag (BitVec.ofNat 64 r)
  | q => q

/-- Row r: its index is read and remapped, and both sides are checked (R222). -/
def checkRow (s : State) (o : EngineOp) (r : Nat) : Res (Option Nat) := do
  let n := o.num' 68 4
  let g ← engineRead o 0 (o.cap 32) (4 * r : Nat) 4 permLoad
  let j ← remapIndex o (natOfBytes g.bs)
  let (src, dst) := rowOffsets o r (j.getD 0)
  let (cs, cd) := rowCaps o
  let _ ← if j.isSome then enginePlaces s (o.cap cs) (effAddr (o.cap cs) 0 1 src) n permLoad .engine else .ok []
  let _ ← if j.isSome || o.op == 3 then enginePlaces s (o.cap cd) (effAddr (o.cap cd) 0 1 dst) n permStore .engineStore
    else .ok []
  .ok j

/-- Part of row r, up to the end of a destination granule: a row whose source cannot be reached is zeros with poison, and
its address is kept (R222). -/
def readRow (s : State) (o : EngineOp) (r : Nat) (j : Option Nat) : Res (State × Cursor) := do
  let c := o.cursor
  let size := o.num' 68 4
  let (src, dst) := rowOffsets o r (j.getD 0)
  let (cs, cd) := rowCaps o
  let n := granuleRest (o.cap cd) (dst + c.sub) (size - c.sub)
  let next : Cursor := { (if c.sub + n < size then { c with sub := c.sub + n } else { c with pos := r + 1, sub := 0 }) with got := [] }
  let adds := if c.sub + n < size ∨ j.isNone then 0 else 1
  let zeros := fun (bad : Bool) => [plainPiece cd (dst + c.sub : Nat) (List.replicate n 0) bad adds]
  if j.isNone then .ok (s, if o.op = 3 then { next with out := zeros false } else { c with pos := r + 1 })
  else
    let a := effAddr (o.cap cs) 0 1 src
    let ls ← locate s (o.cap cs).space a size .engine
    if ls.any (locDown s) then .ok (s, { next with low := c.low.orElse fun _ => some a, out := zeros true })
    else
      let g ← engineRead o 0 (o.cap cs) (src + c.sub : Nat) n permLoad
      .ok (s, { next with out := [⟨cd, (dst + c.sub : Nat), g.bs, g.bad, [], adds, false⟩] })

/-- A gather or scatter goes on: every row is checked before any is moved, and the mask comes last (R222). -/
def readRows (s : State) (o : EngineOp) : Res (State × Cursor) :=
  let c := o.cursor
  let count := o.num' 64 4
  if c.rows.length < count then do
    let j ← rowValue c.rows.length (checkRow s o c.rows.length)
    .ok (s, { c with rows := c.rows ++ [j], got := [] })
  else if c.pos < count then readRow s o c.pos (c.rows.getD c.pos none)
  else
    let bs := padTo ((count + 7) / 8) (packBits (c.rows.map (·.isNone)))
    .ok (s, { c with pos := count + 1, out := [plainPiece 48 0 bs false 0] })

/-! ## Pooling (R224, R225) -/

/-- An FP32 sum or maximum of two values, with its flags. -/
def poolJoin (o : EngineOp) (a b : Nat) : Nat × Nat :=
  if o.num' 80 1 = 3 then fpMinMax fp32 o.flush true a b else fpAdd fp32 o.mode o.flush a b

/-- The term of an entry: its element, exact in FP32, times the weight where OPM is 1. -/
def poolTerm (o : EngineOp) (w x : Nat) : Ex × Nat :=
  let f := fmtOfType (tableType (o.cap 0).format)
  let e := unpack f o.flush x
  if o.num' 80 1 = 1 then
    let (p, v) := exMul (unpack fp32 o.flush w) e
    (p, v ||| nanFlag f x ||| nanFlag fp32 w)
  else (e, nanFlag f x)

/-- One entry into the partial of its chip: the partial and the flags (R225). -/
def poolStep (o : EngineOp) (acc : Option Nat × Nat) (w x : Nat) : Option Nat × Nat :=
  let (t, v) := poolTerm o w x
  match acc.1 with
  | none =>
    let (n, g) := roundEx fp32 o.mode o.flush false t
    (some n, acc.2 ||| v ||| g)
  | some n =>
    if o.num' 80 1 = 3 then
      let (m, g) := fpMinMax fp32 o.flush true n (roundEx fp32 o.mode o.flush false t).1
      (some m, acc.2 ||| v ||| g)
    else
      let (z, g) := exAdd o.mode (unpack fp32 o.flush n) t
      let (m, h) := roundEx fp32 o.mode o.flush false z
      (some m, acc.2 ||| v ||| g ||| h ||| nanFlag fp32 n)

/-- One level of the tree over the chips' partials; an empty one passes the other. -/
def poolLevel (o : EngineOp) : List (Option Nat) → Nat → List (Option Nat) × Nat
  | a :: b :: t, fl =>
    let (r, g) : Option Nat × Nat := match a, b with
      | some x, some y =>
        let (n, g) := poolJoin o x y
        (some n, g)
      | some x, none => (some x, 0)
      | none, y => (y, 0)
    let (rest, h) := poolLevel o t (fl ||| g)
    (r :: rest, h)
  | l, fl => (l, fl)

/-- An element of a bag from its entries, each with its chip, weight and element (R225). -/
def poolElement (o : EngineOp) (es : List (Nat × Nat × Nat)) : Nat × Nat :=
  let parts := (List.range 16).map fun c =>
    (es.filter (·.1 == c)).foldl (fun acc e => poolStep o acc e.2.1 e.2.2) (none, 0)
  let fl := parts.foldl (fun g p => g ||| p.2) 0
  let (a, fl) := poolLevel o (parts.map (·.1)) fl
  let (a, fl) := poolLevel o a fl
  let (a, fl) := poolLevel o a fl
  let (a, fl) := poolLevel o a fl
  match a.head?.join with
  | none => (0, fl)
  | some n =>
    if o.num' 80 1 = 2 then
      let (m, g) := roundDiv fp32 o.mode o.flush (unpack fp32 o.flush n) (.fin false es.length 0)
      (m, fl ||| g ||| nanFlag fp32 n)
    else (n, fl)

/-- Entry p of a bag, read with its row: it holds before the row while the pooling weir is exhausted (R295). -/
def poolEntry (s : State) (o : EngineOp) (p : Nat) : Res (State × BagEntry) := do
  let tbl := o.cap 0
  let d := o.num' 68 4
  let es := tableElement tbl.format
  if weirOpen s o.vif 2 || o.cursor.got.any (·.unit == 1) then .ok () else .error (.hold s)
  let e ← engineRead o 0 (o.cap 32) (8 * p : Nat) 8 permLoad
  let j := fieldOf e.bs 0 4
  guardTrap (decide (j < o.num' 72 8)) .capBounds (BitVec.ofNat 64 p)
  let row ← engineRead o 1 tbl (j * (d * es) : Nat) (d * es) permLoad
  .ok (charge s o.vif 2 1,
    ⟨(tbl.va + j * (d * es)) / 4096 % 16, fieldOf e.bs 4 4, splitLanes (8 * es) d (natOfBytes row.bs), e.bad.any id || row.bad.any id⟩)

/-- A pooling operation goes on: the offsets of a bag are read, then its entries, and then the bag is reduced and written
(R225). A bag whose offset is above the next one's, where Table 10.10 has them never fall and no rule says what follows, is empty
(DESIGN CHOICE, log 77). -/
def readPool (s : State) (o : EngineOp) : Res (State × Cursor) := do
  let c := o.cursor
  let d := o.num' 68 4
  match c.bag with
  | none =>
    let x ← engineRead o 0 (o.cap 48) (4 * c.pos : Nat) 4 permLoad
    let y ← engineRead o 0 (o.cap 48) (4 * (c.pos + 1) : Nat) 4 permLoad
    .ok (s, { c with bag := some (natOfBytes x.bs, natOfBytes y.bs, x.bad.any id || y.bad.any id), terms := [], got := [] })
  | some (p, last, bad) =>
    if p < last then
      let (t, e) ← poolEntry s o p
      .ok (t, { c with bag := some (p + 1, last, bad), terms := c.terms ++ [e], got := [] })
    else
      let out := (List.range d).map fun e => poolElement o (c.terms.map fun k => (k.chip, k.weight, k.row.getD e 0))
      .ok (s, { c with
        pos := c.pos + 1, bag := none, terms := [], flags := out.foldl (fun f x => f ||| x.2) c.flags
        out := [plainPiece 16 (4 * d * c.pos : Nat) (out.flatMap fun x => bytesOfNat 4 x.1) (bad || c.terms.any (·.bad)) 1] })

/-! ## Merging (R226, R227) -/

/-- Whether a score of an entry comes before another: greater, with NaN below everything. Scores and THR are compared as they
are, subnormal ones too, whatever FLUSH holds: R226 does not say whether R104 reaches them (DESIGN CHOICE, log 64). -/
def scoreAbove (a b : Nat) : Bool :=
  if isNan fp32 a then false
  else if isNan fp32 b then true
  else decide (0 < exCompare (unpack fp32 false a) (unpack fp32 false b))

/-- A head entry of a run: the run, its 8 bytes, and whether they are poisoned. -/
abbrev Head := Nat × List Byte × Bool

/-- The offset of the head of run r from SRC. -/
def headOffset (o : EngineOp) (r : Nat) : Nat :=
  8 * (((List.range r).map fun q => o.num' (64 + 4 * q) 4).sum + o.cursor.heads.getD r 0)

/-- The heads of the runs that are not used up, each read once. -/
def mergeHeads (o : EngineOp) : Res (List Head) :=
  (List.range (o.num' 48 2)).foldlM (fun (hs : List Head) r =>
    if o.cursor.heads.getD r 0 < o.num' (64 + 4 * r) 4 then do
      let g ← engineRead o (r + 1) (o.cap 0) (headOffset o r) 8 permLoad
      .ok (hs ++ [(r, g.bs, g.bad.any id)])
    else .ok hs) []

/-- The head with the greatest score, ties to the lowest run. -/
def bestHead (hs : List Head) : Option Head :=
  hs.foldl (fun b h => match b with
    | none => some h
    | some k => if scoreAbove (fieldOf h.2.1 0 4) (fieldOf k.2.1 0 4) then some h else b) none

/-- Whether an entry passes the filters selected; a bit of the bitmap is read where it is asked for. -/
def passes (o : EngineOp) (e : List Byte) : Res Bool := do
  let f := o.num' 50 1
  let score := fieldOf e 0 4
  let idx := fieldOf e 4 4
  let thr := o.num' 56 4
  let high := !isNan fp32 score && !isNan fp32 thr
    && decide (0 ≤ exCompare (unpack fp32 false score) (unpack fp32 false thr))
  if bit f 0 ∧ !high then .ok false
  else if !bit f 1 then .ok true
  else if o.num' 60 4 ≤ idx then .ok false
  else do
    let g ← engineRead o 0 (o.cap 32) (idx / 8 : Nat) 1 permLoad
    .ok (bit (natOfBytes g.bs) (idx % 8))

/-- A merge goes on: the best head is taken and written if it passes; after the last come the sentinels (R226). -/
def readMerge (s : State) (o : EngineOp) : Res (State × Cursor) := do
  let c := o.cursor
  let sentinel : Cursor :=
    { c with pos := c.pos + 1, sub := 1, out := [⟨16, (8 * c.pos : Nat), bytesOfNat 8 0xFFFFFFFFFF800000, List.replicate 8 false, [], 0, false⟩] }
  if c.sub = 1 then .ok (s, sentinel)
  else
    match bestHead (← mergeHeads o) with
    | none => .ok (s, sentinel)
    | some e =>
      let ok ← passes o e.2.1
      let c := { c with
        heads := c.heads.set e.1 (c.heads.getD e.1 0 + 1), got := c.got.filter fun p => p.unit != 0 && p.unit != e.1 + 1 }
      .ok (s, if ok then { c with pos := c.pos + 1, out := [⟨16, (8 * c.pos : Nat), e.2.1, List.replicate 8 e.2.2, [], 1, false⟩] } else c)

/-! ## Remote operations (R228) -/

/-- The result of an atomic of the remote engine on an old value. -/
def remoteAtomic (o : EngineOp) (old : Nat) : Option Nat :=
  let s := o.num' 48 8
  match o.num' 40 1 with
  | 2 => some (old + s)
  | 3 => some s
  | _ => if old = o.num' 56 8 then some s else none

/-- Bytes that an atomic sends to another device and gets back: its operands, and the old value (R293). -/
def atomicPayload (o : EngineOp) : Nat := if o.num' 40 1 = 4 then 24 else 16

/-- Whether an operation is an atomic of the remote engine. -/
def EngineOp.remoteAtomic (o : EngineOp) : Bool := o.op == 8 && 2 ≤ o.num' 40 1

/-- A remote operation goes on (R228): what the remote side holds is free (log 21). A put and a get go by the 8-byte pieces of the
remote side. An atomic acts on the remote bytes in one access and delivers the old ones. -/
def readSend (s : State) (o : EngineOp) : Res (State × Cursor) := do
  let c := o.cursor
  let rmt := o.cap 16
  if o.remoteAtomic then
    let ls ← enginePlaces s rmt (effAddr rmt 0 1 0) 8 permLoad .engine
    let old := natOfBytes (readLocs s ls)
    let t := chargeMoved s (movedTo rmt.space (atomicPayload o) ls)
    let t := match remoteAtomic o old with
      | some v => { t with mem := putLocs t.mem ls (bytesOfNat 8 v) [] [] }
      | none => t
    .ok (t, { c with pos := 8, out := [⟨0, 0, bytesOfNat 8 old, badBytes s ls, [], old, false⟩] })
  else
    let (src, dst) := if o.num' 40 1 = 0 then (0, 16) else (16, 0)
    let n := Nat.min (o.num' 32 8 - c.pos) (8 - (rmt.va + c.pos) % 8)
    let g ← engineRead o 0 (o.cap src) c.pos n permLoad
    .ok (s, { c with pos := c.pos + n, got := [], out := [⟨dst, c.pos, g.bs, g.bad, [], n, false⟩] })

/-! ## One step of an operation -/

/-- Whether an operation copies by shape records, or coded blocks. -/
def EngineOp.shaped (o : EngineOp) : Bool := o.op ≤ 2 && (o.cap 32).tag
def EngineOp.coded (o : EngineOp) : Bool := o.op ≤ 2 && !(o.cap 32).tag && (o.cap 0).format == 7

/-- Whether an operation has nothing left to do. -/
def EngineOp.ended (o : EngineOp) : Bool :=
  let c := o.cursor
  c.out.isEmpty &&
    (if o.shaped then match c.walks with
        | [a, _] => a.total ≤ c.pos && c.held.isEmpty
        | _ => false
      else if o.op ≤ 2 then o.num' 48 8 ≤ c.pos
      else if o.op ≤ 4 then o.num' 64 4 ≤ c.pos && (!(o.cap 48).tag || o.num' 64 4 < c.pos)
      else if o.op = 5 then true
      else if o.op = 6 then o.num' 64 4 ≤ c.pos
      else if o.op = 7 then o.num' 52 4 ≤ c.pos
      else o.num' 32 8 ≤ c.pos)

/-- The next read of an operation that has nothing to write. -/
def readNext (s : State) (o : EngineOp) : Res (State × Cursor) :=
  if o.shaped then readShaped s o
  else if o.coded then readCoded s o
  else if o.op ≤ 2 then readCopy s o
  else if o.op ≤ 4 then readRows s o
  else if o.op = 6 then readPool s o
  else if o.op = 7 then readMerge s o
  else readSend s o

/-- What a step of an operation comes to: memory and charges, the cursor, why it ended short, and a failed write for the
fence records (level and bit). -/
structure Stepped where
  s    : State
  c    : Cursor
  stop : Option Stop
  mark : Option (Nat × Nat)

/-- A piece performed at runs of memory: one that heals leaves its granule good (R186). -/
def Piece.perform (p : Piece) (m : Memory) (ls : List Loc) : Memory :=
  let m := putLocs m ls p.bytes p.bad p.tags
  if p.heals then { m with poison := m.poison.filter fun g => !ls.any fun l => l.addr / 32 == g } else m

/-- A piece is written: performed, or failed where a place cannot be reached, which ends the operation but for a row of a
gather or scatter, whose address is kept (R218, R222). -/
def writePiece (s : State) (o : EngineOp) (p : Piece) (rest : List Piece) : Stepped :=
  let c := { o.cursor with out := rest }
  let a := effAddr (o.cap p.cap) 0 1 p.off
  match enginePlaces s (o.cap p.cap) a p.bytes.length permStore .engineStore with
  | .error e => ⟨s, o.cursor, some e, none⟩
  | .ok ls =>
    match ls.find? (locDown s) with
    | some l =>
      if o.op = 3 ∨ o.op = 4 then
        ⟨s, { c with low := c.low.orElse fun _ => some a, count := c.count + p.adds }, none, some (l.level, 0)⟩
      else ⟨s, c, some (.trap .memUncorr a), some (l.level, 0)⟩
    | none =>
      let t := chargeMoved s (movedTo (o.cap p.cap).space p.bytes.length ls)
      ⟨{ t with mem := p.perform t.mem ls }, { c with count := c.count + p.adds }, none, none⟩

/-- Whether an access of an operation to a space meets a dead link or a refusal of another device: the cause, and the bit of the
fence record (R228). -/
def sendFails (s : State) (space : Nat) : Option (Cause × Nat) :=
  if space ≠ 4 ∧ space ≠ 5 then none
  else if s.dead.contains .fabric then some (.memUncorr, 0)
  else if Config.foreignRefuses s.tick then some (.capPerm, 1)
  else none

/-- An access of an operation at an address, unless another device does not let it be made: the operation then fails with that
address (R218, R228). -/
def unlessFails (s : State) (o : EngineOp) (space : Nat) (a : Word) (r : Stepped) : Stepped :=
  match sendFails s space with
  | some (c, b) => ⟨s, o.cursor, some (.trap c a), some (6, b)⟩
  | none => r

/-- An operation cannot go on: what a coded copy has decoded before, and a shaped copy read before, is delivered first (R221). -/
def stopShort (s : State) (o : EngineOp) (e : Stop) : Stepped :=
  let c := o.cursor
  match e with
  | .hold _ => ⟨s, c, some e, none⟩
  | _ =>
    if c.buf.isEmpty && c.held.isEmpty then ⟨s, c, some e, none⟩
    else if c.buf.isEmpty then ⟨s, { c with held := [], out := c.held }, none, none⟩
    else ⟨s, emptyBuf c c.buf.length, none, none⟩

/-- The next read of an operation, or of one piece that it asks for. -/
def readStep (s : State) (o : EngineOp) : Stepped :=
  match readNext s o with
  | .ok (t, c) => ⟨t, c, none, none⟩
  | .error (.missing (w :: _)) =>
    unlessFails s o w.space (BitVec.ofNat 64 w.addr) (match readPiece s w with
      | .ok (t, e) => ⟨t, { o.cursor with got := o.cursor.got ++ [e] }, none, none⟩
      | .error e => stopShort s o e)
  | .error e => stopShort s o e

/-- One step of an operation, as its engine sees the machine: a piece is written, a piece is read, or what has been read is taken
and cut into pieces to write. -/
def engineStep (s : State) (o : EngineOp) : Stepped :=
  match o.cursor.out with
  | p :: rest => unlessFails s o (o.cap p.cap).space (effAddr (o.cap p.cap) 0 1 p.off) (writePiece s o p rest)
  | [] =>
    let r := if o.remoteAtomic then unlessFails s o (o.cap 16).space (o.cap 16).addr (readStep s o) else readStep s o
    { r with c := { r.c with out := r.c.out.flatMap (cutPiece o) } }

/-! ## Completion (R218, R220, R231, R334) -/

/-- The record of an operation, its event, and FAULT where it failed (R218, R220, R231). -/
def reportOp (s : State) (o : EngineOp) (cause : Nat) (value : Word) (flags : Nat) : State :=
  let info := infoWord o.op o.tl cause flags
  let s := if bit o.ctl.toNat 4 then
      { s with mem := s.mem.write (poolAddr o.core (16 * bitsOf o.ctl.toNat 16 16)) (wordBytes info ++ wordBytes value) [] }
    else s
  let s := if o.setAside then s else s.setCore o.core (completeNum (s.core o.core) o.tl o.num)
  let s := if bit o.ctl.toNat 3 then recordEvent s o.core o.x info value else s
  if cause = 0 then s else recordFault s o.core o.x o.gen o.tl

/-- Whether two operations are of one reaction on one core. -/
def EngineOp.sameRun (o p : EngineOp) : Bool := p.core == o.core && p.x == o.x && p.gen == o.gen

/-- Completion of the n-th operation (R218). One that an eviction set aside waits with its record and event for the others
of its reaction, and all then report in their order (R334). -/
def endOp (s : State) (n : Nat) (o : EngineOp) (cause : Nat) (value : Word) (flags : Nat) : State :=
  if o.setAside then
    let s := { s with ops := s.ops.set n { o with finished := some (cause, value, flags) } }
    let mine := s.ops.filter fun p => p.setAside && o.sameRun p
    if mine.all (·.finished.isSome) then
      mine.foldl (fun s p => match p.finished with
        | some (c, v, f) => reportOp s p c v f
        | none => s) { s with ops := s.ops.filter fun p => !(p.setAside && o.sameRun p) }
    else s
  else reportOp { s with ops := s.ops.eraseIdx n } o cause value flags

/-- Whether the reaction that issued an operation still exists. -/
def opLives (s : State) (o : EngineOp) : Bool :=
  match s.reaction o.core.sgn o.x with
  | some r => r.gen == o.gen && r.vif == o.vif && r.lid != noLid
  | none => false

/-- Whether the reaction of an operation is pre-empted, in place or evicted, and does not abort (R227, R334). -/
def opPaused (s : State) (o : EngineOp) : Bool :=
  let k := s.core o.core
  (((k.rx == some o.x && k.preempted) || k.evicted.any (·.x == o.x))) && opLives s o
    && !(((s.reaction o.core.sgn o.x).map (·.aborting)).getD false)

/-- Whether a merge is at the tree: one that the tree has started and not saved goes before the queue (R226, R227, R334). -/
def atTree (s : State) (n : Nat) (o : EngineOp) : Bool :=
  let mine := fun (p : EngineOp) => p.op == 7 && p.core.sgn == o.core.sgn && !p.deferred && p.finished.isNone
  if o.begun then !((s.ops.take n).any fun p => mine p && p.begun && !opPaused s p)
  else !(s.ops.any fun p => mine p && p.begun && !opPaused s p) && !((s.ops.take n).any fun p => mine p && !p.begun)

/-- Whether an operation may go on: its core's earlier stores are performed (R188), a merge is at the tree and its reaction
is not pre-empted (R226, R334), and an ordered remote operation has none before it (R228). -/
def opReady (s : State) (n : Nat) (o : EngineOp) : Bool :=
  !o.deferred && o.finished.isNone && !(s.stores.any fun f => f.core == o.core && f.seq < o.seq)
    && (o.op != 7 || (!opPaused s o && atTree s n o))
    && !(o.ordered && (s.ops.take n).any fun p => p.ordered && p.core == o.core)

/-- Entries of an SG's deferred list that are taken (R334). -/
def deferredAt (s : State) (g : Nat) : Nat := (s.ops.filter fun p => p.deferred && p.core.sgn == g).length

/-- A queued merge of a pre-empted reaction that has reached the head of the queue is set aside, while the list of 16 has room
(R334). -/
def opDefers (s : State) (n : Nat) (o : EngineOp) : Bool :=
  o.op == 7 && !o.begun && !o.deferred && opPaused s o && atTree s n o && deferredAt s o.core.sgn < 16

/-- What the engine's view leaves in the machine: memory, charges, and the use of the TLB of its core. -/
def fromEngine (s v : State) (c : CoreId) : State :=
  let t := { s with mem := v.mem, vifs := v.vifs }
  if (v.core c).tlb = (s.core c).tlb then t else t.setCore c { s.core c with tlb := (v.core c).tlb }

/-- A miss of an operation (R306): the TSC is told once, and the operation waits. -/
def engineMiss (s v : State) (n : Nat) (o : EngineOp) : State :=
  let t : CoreId := ⟨o.core.sgn, Config.tsc⟩
  let told := (v.core t).mail.getLast?
  match told with
  | some (.miss c vif va space kind) =>
    if (v.core t).mail.length = (s.core t).mail.length ∨ o.miss = some va.toNat then s
    else
      let k := s.core t
      ({ s with ops := s.ops.set n { o with miss := some va.toNat } }).setCore t
        { k with mail := k.mail ++ [MachineMail.miss c vif va space kind] }
  | _ => s

/-- The n-th operation ends with LEASE_FAULT, and so does its launch (R303). -/
def engineLease (s : State) (n : Nat) (o : EngineOp) (va : Nat) : State :=
  let t := endOp s n o Cause.leaseFault.code (BitVec.ofNat 64 va) o.cursor.flags
  match t.launch o.vif o.lid with
  | some l => if l.state = .ended then t else finishLaunch t l .leaseFault va
  | none => t

/-- VALUE and cause of an operation that has nothing left to do (R218, R222). -/
def opResult (o : EngineOp) : Nat × Word :=
  match o.cursor.low with
  | some a => (Cause.memUncorr.code, a)
  | none => (0, BitVec.ofNat 64 o.cursor.count)

/-- How far one event takes an operation. -/
inductive Drive where
  /-- it goes on from this state -/
  | on (s : State)
  /-- it has ended, or waits -/
  | off (r : Out)

/-- The n-th operation goes one step on, or completes, or waits (R218). -/
def driveOp (s : State) (n : Nat) : Drive :=
  match s.ops[n]? with
  | none => .off (.next s)
  | some o =>
    if opDefers s n o then .off (.next { s with ops := s.ops.set n { o with deferred := true } })
    else if !opReady s n o then .off (.next s)
    else if !opLives s o then
      .off (.next (({ s with ops := s.ops.eraseIdx n }).setCore o.core
        (if o.setAside then s.core o.core else completeNum (s.core o.core) o.tl o.num)))
    else if o.ended then .off (.next (endOp s n o (opResult o).1 (opResult o).2 o.cursor.flags))
    else
      let p := engineStep (asEngine s o) o
      let t := fromEngine s p.s o.core
      let t := match p.mark with
        | some m => recordPending t o.core (some o.x) m.1 m.2
        | none => t
      let o' := { o with begun := true, cursor := p.c, miss := none }
      match p.stop with
      | none => .on { t with ops := t.ops.set n o' }
      | some (.trap c v) => .off (.next (endOp t n o' c.code v p.c.flags))
      | some (.lease va) => .off (.next (engineLease t n o' va))
      | some (.hold v) => .off (.next (engineMiss s v n o))
      | some (.fault f) => .off (.fault f)
      | some (.refuse r) => .off (.refused r)
      | some (.missing _) => .off (.next s)

/-- The n-th operation goes on as far as it can, a number of steps at most. -/
def driveOps (n : Nat) : Nat → State → Out
  | 0, s => .next s
  | f + 1, s =>
    match driveOp s n with
    | .on t => driveOps n f t
    | .off r => r

/-- `OPERATION_COMPLETE` (R218, log 16): the n-th outstanding operation goes on until it completes, fails or waits. -/
def execOperationComplete (n : Nat) (s : State) : Out := driveOps n (2 ^ 64) s

/-- One access of the n-th outstanding operation, as an event of its own (R229, log 16). -/
def engineTurn (n : Nat) (s : State) : Out :=
  match driveOp s n with
  | .on t => .next t
  | .off r => r

end Sys2Proof.Machine
end

