-- ==== Sys2Proof/Machine/Mailbox.lean ====
section
/-! DEFINITION. Mailboxes and receive queues (R336 to R340). -/

namespace Sys2Proof.Machine

/-- What becomes of a message at its target (R335, R337 to R340): it is settled, with the status of its reply, or the spill
ring is to take it for the reaction of a record. -/
inductive Delivery where
  | settled (s : State) (status : Nat)
  | spills (s : State) (x : Nat)

/-- The core that a mailbox word addresses (Table 14.8), and the slot and GEN. -/
def mailCore (w : Word) : CoreId := ⟨bitsOf w.toNat 56 5, bitsOf w.toNat 48 8⟩
def mailSlot (w : Word) : Nat := bitsOf w.toNat 44 4
def mailGen (w : Word) : Nat := bitsOf w.toNat 28 16

/-- The evicted reaction of a VIF whose context record holds a binding of a slot of a core under a GEN (R335, Table 14.5). -/
def boundEvicted (s : State) (c : CoreId) (vif slot gen : Nat) : Option Nat :=
  ((s.core c).evicted.find? fun e => e.vif == vif && match evictedAt s c e.x with
    | some a => ((bindOfBytes (s.mem.read (a + 1920 + 8 * slot) 8)).map (·.gen)) == some gen
    | none => false).map (·.x)

/-- A queue overflow that its core has yet to take (R339). -/
def Core.overflows (k : Core) (v : Word) : Core := if k.overflow.contains v then k else { k with overflow := k.overflow ++ [v] }

/-- A message for a slot of a core (R335, R338 to R340). -/
def deliver (s : State) (m : Mail) : Delivery :=
  let c := mailCore m.word
  let slot := mailSlot m.word
  let k := s.core c
  if !sgEnabled s c.sgn || (c != m.sender && linkDown s (.sg c.sgn)) then .settled s 2
  else match boundEvicted s c m.vif slot (mailGen m.word) with
    | some x => .spills s x
    | none =>
      if k.owner != some m.vif then .settled s 3
      else match (k.ctx.binds.getD slot none).filter fun b => b.gen == mailGen m.word with
        | none => .settled (deadLetter s m.vif m.word m.payload Cause.stale.code m.sender) 1
        | some b =>
          let q := poolAddr c (64 * b.qoff)
          let tail := s.mem.readNat q 8
          let head := s.mem.readNat (q + 8) 8
          if (tail + 2 ^ 64 - head) % 2 ^ 64 = b.qent then
            .spills (s.setCore c (k.overflows (BitVec.ofNat 64 (slot * 2 ^ 60 + b.qoff)))) b.x
          else
            let entry := wordBytes m.payload ++ bytesOfNat 8 (m.sender.sgn + m.sender.idx % 2 ^ 8 * 2 ^ 8 + m.vif * 2 ^ 16)
            let n := s.mem.write (q + 16 + 16 * (tail % b.qent)) entry []
            .settled (({ s with mem := n.writeNat q 8 (tail + 1) }).setCore c k.wake) 0

/-- A message that a spill ring is to take; while the ring has no room, the sender's network interface holds it (R335). -/
def spillMail (s t : State) (m : Mail) (x : Nat) : State :=
  (ringPut t (mailCore m.word) x (.mail { m with held := false })).getD { s with mails := s.mails ++ [{ m with held := true }] }

/-- A binding of the current core, set or dropped; a steward's entry is also that of the frame, from which `tret` reloads
the bindings (log 10). -/
def setBind (s : State) (slot : Nat) (b : Option Binding) : State :=
  let u := s.setCtx { s.ctx with binds := s.ctx.binds.setIfInBounds slot b }
  match s.myVif.bind s.vif with
  | some f =>
    if s.ctx.level = .supervisor then
      { u with mem := u.mem.write (pinnedAddr f.p.id (f.p.saveBase + saveOffset s.cur 2 + 1920 + 8 * slot)) (bindBytes b) [] }
    else u
  | none => u

/-- A SEND (R337): with ACK = 1 it waits for its reply where the message is not settled at once. -/
def mboxSendOp (s : State) (d : Nat) (w payload : Word) : Res State :=
  let m : Mail := ⟨w, payload, s.cur, s.myVif.getD 0, false⟩
  if !bit w.toNat 61 then .ok ({ s with mails := s.mails ++ [m] }.retire d 0)
  else match deliver s m with
    | .settled t n => .ok (t.retire d (BitVec.ofNat 64 n))
    | .spills t x =>
      let u := spillMail s t m x
      .ok (u.setMe { u.me with hold := .reply })

/-- A BIND (R337). -/
def mboxBindOp (s : State) (i : Instr) (d : Nat) (w : Nat) : Res State := do
  let off := 64 * bitsOf w 0 11
  let n := bitsOf w 20 8
  match s.myReaction with
  | none => trap .illegal (encodingOf i)
  | some r =>
    guardTrap (s.ctx.scratch ≤ off && off + 16 + 16 * n ≤ Config.poolBytes) .capBounds (BitVec.ofNat 64 off)
    .ok ((setBind s (bitsOf w 44 4) (some ⟨r.x, r.gen, bitsOf w 0 11, n⟩)).retire d 0)

/-- An `mbox` word by its OP (R337). -/
def mboxOp (i : Instr) (d a : BitVec 5) (s : State) : Out :=
  conclude s do
    let x := s.x a.toNat
    let w := x.toNat
    legal i (s.ctx.level != .user)
    legal i (bitsOf w 62 2 != 3 && bitsOf w 44 4 != 0 && bitsOf w 11 9 == 0)
    match bitsOf w 62 2 with
    | 0 => mboxSendOp s d.toNat x (s.x d.toNat)
    | 1 => mboxBindOp s i d.toNat w
    | _ => .ok ((setBind s (bitsOf w 44 4) none).retire d.toNat 0)

/-- `mbox` with OP 0, and the word in general (log 30). -/
def execMboxSend (d a : BitVec 5) (s : State) : Out := mboxOp (.mboxSend d a) d a s

/-- `mbox` with OP 1. -/
def execMboxBind (d a : BitVec 5) (s : State) : Out := mboxOp (.mboxBind d a) d a s

/-- `mbox` with OP 2. -/
def execMboxUnbind (d a : BitVec 5) (s : State) : Out := mboxOp (.mboxUnbind d a) d a s

/-- `MAILBOX_DELIVERY` (R338 to R340): a message on its way is delivered, becomes a dead letter, is refused, goes to a spill
ring, or is held by its sender's network interface. -/
def execMailboxDelivery (n : Nat) (s : State) : Out :=
  match s.mails[n]? with
  | none => .next s
  | some m =>
    let rest := { s with mails := s.mails.eraseIdx n }
    match deliver rest m with
    | .settled t st => .next (reply t m st)
    | .spills t x => .next (spillMail rest t m x)

end Sys2Proof.Machine
end

