-- ==== Sys2Proof/Machine/Match.lean ====
section
/-! DEFINITION. The confluence unit: arrivals, the backwater, matches; commits, aborts, slack and drain (R37 to R44, R52,
R53, R60, R62, R239 to R250, R257, R258). -/

namespace Sys2Proof.Machine

/-! ## Guards and joins (R37, R39, R40) -/

/-- Remainder of the low words (Table 3.4). -/
def guardRem (a b : Word) : Word :=
  let x := a.toNat % 2 ^ 32
  let y := b.toNat % 2 ^ 32
  BitVec.ofNat 64 (if y = 0 then x else x % y)

/-- A micro-operation on two values (Table 3.4). -/
def guardOp (op : Nat) (a b : Word) : Word :=
  let flag := fun (p : Bool) => if p then (1 : Word) else 0
  match op with
  | 0 => flag (a == b)
  | 1 => flag (a != b)
  | 2 => flag (a.slt b)
  | 3 => flag (a.ult b)
  | 4 => a + b
  | 5 => a - b
  | 6 => a &&& b
  | 7 => a ||| b
  | 8 => a ^^^ b
  | _ => guardRem a b

/-- An operand of a micro-operation (R40): a field, a constant, an immediate or an earlier result. -/
def guardOperand (r : Rule) (hs : List (BitVec 512)) (done : List Word) (kind v : Nat) : Word :=
  match kind with
  | 0 => BitVec.ofNat 64 (matchField (hs.getD (v / 8) 0) (v % 8))
  | 1 => r.consts.getD v 0
  | 2 => signExtend 16 v
  | _ => done.getD v 0

/-- Whether a group satisfies the guard of a rule: its last micro-operation yields a nonzero value (Table 3.3). -/
def guardHolds (r : Rule) (hs : List (BitVec 512)) : Bool :=
  let done := r.guard.foldl (fun done u =>
    done ++ [guardOp u.op (guardOperand r hs done u.ka u.a) (guardOperand r hs done u.kb u.b)]) []
  match done.getLast? with
  | none => true
  | some w => w != 0

/-- Whether a group satisfies the joins of a rule. -/
def joinsHold (r : Rule) (hs : List (BitVec 512)) : Bool :=
  r.joins.all fun j => matchField (hs.getD j.1 0) j.2.1 == matchField (hs.getD j.2.2.1 0) j.2.2.2

/-- The home value of a header (R36). -/
def homeValue (m : Image) (h : BitVec 512) : Nat :=
  matchField h (((speciesOf m (hdrField h 0 2)).map (·.home)).getD 0)

/-- SEQ of a header. -/
def seqOf (h : BitVec 512) : Nat := hdrField h 4 4

/-- Whether a channelled group has the SEQ that its stage takes next, over all its consumed positions (R257, R258). -/
def seqHolds (l : Launch) (rule : Nat) (r : Rule) (hs : List (BitVec 512)) : Bool :=
  !l.channelled || match l.stages.find? (·.rule == rule) with
    | some t => seqOf (hs.getD 0 0) == t.next % 2 ^ 32
        && match ((List.range hs.length).zip hs).filterMap (fun (p, h) => if bit r.cats p then none else some (seqOf h)) with
          | [] => true
          | q :: qs => qs.all (· == q)
    | none => false

/-! ## The choice of a group (R239, R240) -/

/-- Tiles of a launch that can take part in a match, in age order (R239). -/
def candidates (u : CUnit) (v lid : Nat) : List Tile :=
  sortBy (fun a b => a.stamp ≤ b.stamp) (u.tiles.filter fun t => t.vif == v && t.lid == lid && t.place != .escrow)

/-- Whether a tile may stand at a position: the species, and no read-lock where it is consumed (R239). -/
def standsAt (m : Image) (r : Rule) (p : Nat) (t : Tile) : Bool :=
  ((r.species[p]?).bind fun i => m.species[i]?).map (·.code) == some (hdrField t.hdr 0 2)
    && (bit r.cats p || t.locks == 0)

/-- The positions from `p` on, filled in ascending order: each takes the oldest tile that still leaves the group
completable (R240 step 3). `q` is the position that `t` holds already. -/
def fillGroup (l : Launch) (rule : Nat) (r : Rule) (ts : List Tile) (q : Nat) (t : Tile) :
    Nat → List Tile → Option (List Tile)
  | 0, g =>
    let hs := g.map (·.hdr)
    let home := homeValue l.image t.hdr
    if (hs.all fun h => homeValue l.image h == home) && joinsHold r hs && guardHolds r hs && seqHolds l rule r hs then some g
    else none
  | n + 1, g =>
    if g.length = q then fillGroup l rule r ts q t n (g ++ [t])
    else ts.findSome? fun k =>
      if standsAt l.image r g.length k && k.id != t.id && !(g.any (·.id == k.id)) then fillGroup l rule r ts q t n (g ++ [k])
      else none

/-- The group of a rule that a tile takes, in the lowest consumed position that it can fill. -/
def groupWith (l : Launch) (rule : Nat) (r : Rule) (ts : List Tile) (t : Tile) : Option (List Tile) :=
  (List.range r.species.length).findSome? fun p =>
    if !bit r.cats p && standsAt l.image r p t then fillGroup l rule r ts p t r.species.length [] else none

/-- Rules in the order in which a unit prefers them: by class, then from its pointer on (R240 step 2). -/
def ruleOrder (m : Image) (ptr : Nat) : List Nat :=
  let n := m.rules.length
  (List.range 4).flatMap fun c =>
    ((List.range n).map fun i => (ptr + i) % n).filter fun i => ((m.rules[i]?).map (·.cls)) == some c

/-- The match that a decision performs: the rule and its group (R240). -/
def chooseMatch (l : Launch) (u : CUnit) : Option (Nat × List Tile) :=
  let ts := candidates u l.vif l.lid
  ts.findSome? fun t =>
    if t.locks = 0 then (ruleOrder l.image (unitLaunch u l.vif l.lid).ptr).findSome? fun i =>
      (groupWith l i (l.image.rules.getD i default) ts t).map fun g => (i, g)
    else none

/-! ## The backwater (R244, R245) -/

/-- The tile that moves out of a full store for another: the youngest resident one without a read-lock, those of a group
apart. -/
def outgoing (u : CUnit) (keep : List Nat) : Option Tile :=
  if residents u < Config.residentSlots then none else youngestFree (u.tiles.filter fun t => !keep.contains t.id)

/-- A tile of a unit in another place, at an index. -/
def CUnit.place (u : CUnit) (id : Nat) (p : Place) (n : Nat) : CUnit :=
  { u with tiles := u.tiles.map fun t => if t.id = id then { t with place := p, index := n } else t }

/-- A backwater tile is resident again, and each move is charged to the HBM weir of its tile's VIF. Where the store is full and every
resident tile is locked or of the group itself, no rule names a tile to move out: the store then has one tile more (DESIGN CHOICE, log
88). -/
def bringBack (s : State) (g : Nat) (keep : List Nat) (t : Tile) : State :=
  let u := s.unit g
  match outgoing u keep with
  | some y => charge (charge (s.setUnit ((u.place y.id .backwater 0).place t.id .resident y.index)) y.vif 1 64) t.vif 1 64
  | none => charge (s.setUnit (u.place t.id .resident (freeSlot u .resident))) t.vif 1 64

/-- `BACKWATER_RETURN` (R245): a free resident slot takes the oldest backwater tile of those whose HBM weir is open. -/
def execBackwaterReturn (g v lid : Nat) (s : State) : Out :=
  let u := s.unit g
  let ts := sortBy (fun a b => a.stamp ≤ b.stamp) (u.tiles.filter fun t => t.place == .backwater && weirOpen s t.vif 1)
  match ts.head? with
  | some t =>
    if residents u < Config.residentSlots ∧ t.vif = v ∧ t.lid = lid then .next (bringBack s g [] t) else .next s
  | none => .next s

/-! ## Arrivals (R38, R246, R258) -/

/-- A header enters its unit: it takes its stamp and becomes resident, or a tile spills to the backwater (R38, R244, R245). -/
def enterUnit (s : State) (f : Flying) : State :=
  let u := s.unit f.sgn
  let t : Tile := { id := u.nextStamp, vif := f.vif, lid := f.lid, hdr := f.hdr, ptag := f.ptag, stamp := u.nextStamp
                    place := .resident, index := 0, locks := 0 }
  let u := putTile { u with nextStamp := u.nextStamp + 1 } t
  let k := unitLaunch u f.vif f.lid
  chargeMoves s (s.setUnit (setUnitLaunch u { k with recv := k.recv + 1, act := true })) f.sgn

/-- Whether the queue of its stage lets a header in (R258). -/
def queueOpen (s : State) (f : Flying) : Bool := ((s.launch f.vif f.lid).map fun l => queueAdmits l f.hdr).getD false

/-- Whether a header that the buffer holds for the same unit goes before another: one that came before it, and whose queue
lets it in (R246, R258). -/
def heldBefore (s : State) (f : Flying) : Bool :=
  s.flying.any fun e => e.vif == f.vif && e.sgn == f.sgn && queueOpen s e && match e.held, f.held with
    | some a, some b => a < b
    | some _, none => true
    | none, _ => false

/-- Whether a header finds room at its unit (R246, R258). -/
def findsRoom (s : State) (f : Flying) : Bool := roomFor s f.vif f.sgn != 0 && queueOpen s f && !heldBefore s f

/-- Whether the move to the backwater that a header's entry makes of a tile of its VIF may be made now (R295; log 70). -/
def entryOpen (s : State) (f : Flying) : Bool := movesOpen s (enterUnit s f) f.sgn f.vif

/-- `TILE_ARRIVAL` (R38, R244, R246): injected headers of a launch reach a unit in the order of their acceptance (R59);
one that finds no room takes a place of the transit buffer, while that has one (R247). -/
def execTileArrival (n : Nat) (s : State) : Out :=
  match s.flying[n]? with
  | none => .next s
  | some f =>
    let first := !((s.flying.take n).any fun e => e.held.isNone && e.vif == f.vif && e.lid == f.lid && e.sgn == f.sgn
      && bit (hdrField f.hdr 2 1) 1 && bit (hdrField e.hdr 2 1) 1)
    if f.held.isSome || !first then .next s
    else if !findsRoom s f then
      if bufferFree s f.vif = 0 then .next s
      else .next { s with seq := s.seq + 1, flying := s.flying.set n { f with held := some s.seq } }
    else if !entryOpen s f then .next s
    else .next (enterUnit { s with flying := s.flying.eraseIdx n } f)

/-- `TRANSIT_ENTRY` (R246): a held header enters when room frees, in the order in which the headers came. -/
def execTransitEntry (n : Nat) (s : State) : Out :=
  match s.flying[n]? with
  | none => .next s
  | some f =>
    if f.held.isNone || !findsRoom s f || !entryOpen s f then .next s
    else .next (enterUnit { s with flying := s.flying.eraseIdx n } f)

/-! ## The match (R42 to R44, R240, R241) -/

/-- The lowest record index of an SG that is free (log 31). -/
def freeIndex (u : CUnit) : Option Nat := (List.range Config.records).find? fun x => !(u.reactions.any (·.x == x))

/-- The headers of a group in the window of their reaction (R267). -/
def showHeaders (s : State) (p : VifParams) (g : Nat) (r : Reaction) : State :=
  ((List.range r.reactants.length).zip r.reactants).foldl (fun s (n, t) =>
    let a := windowAddr p.id g (windowVa p r.x r.gen n)
    let m := (s.mem.clear a 64).write a (bytesOfNat 64 t.hdr.toNat) []
    { s with mem := if t.ptag then m.setTag (a + 32) else m }) s

/-- The first free escrow slots of a unit, lowest first (log 52). -/
def freeEscrow (u : CUnit) (n : Nat) : List Nat :=
  ((List.range Config.escrowSlots).filter fun i => !u.tiles.any fun t => t.place == .escrow && t.index == i).take n

/-- The reactants of a group, each with the slot that it has from then on: consumed tiles take escrow slots, catalysts keep
theirs (R42, R44). -/
def reactantsOf (r : Rule) (u : CUnit) (ts : List Tile) : List Reactant :=
  let free := freeEscrow u ts.length
  ((List.range ts.length).zip ts).map fun (n, t) =>
    let cat := bit r.cats n
    let before := ((List.range n).filter fun k => !bit r.cats k).length
    let here := ((u.tiles.find? (·.id == t.id)).map (·.index)).getD 0
    ⟨t.id, if cat then here else free.getD before 0, t.hdr, t.ptag, cat⟩

/-- A unit with the reactants of a match taken: consumed tiles in escrow, catalysts under a read-lock (R42). -/
def takeReactants (u : CUnit) (qs : List Reactant) : CUnit :=
  { u with tiles := u.tiles.map fun t => match qs.find? (·.tile == t.id) with
    | none => t
    | some q => if q.cat then { t with locks := t.locks + 1 } else { t with place := .escrow, index := q.slot } }

/-- A match, performed (R42): consumed tiles go to escrow, catalysts take a read-lock, and a reaction is MATCHED. -/
def performMatch (s : State) (g : Nat) (l : Launch) (i : Nat) (ts : List Tile) (x : Nat) : State :=
  let r := l.image.rules.getD i default
  let p := ((s.vif l.vif).map (·.p)).getD default
  let s := (ts.filter (·.place == .backwater)).foldl (fun s t => bringBack s g (ts.map (·.id)) t) s
  let u := s.unit g
  let qs := reactantsOf r u ts
  let u := takeReactants u qs
  let gen := ((u.gens.find? (·.1 == x)).map (·.2)).getD 0
  let q : Reaction :=
    { x := x, gen := gen, vif := l.vif, lid := l.lid, rule := i, state := .matched, shape := r.crew
      base := frameVa p g x, first := 0, live := [], committed := [], offset := r.entry, fault := 0, wait := .nothing
      ready := none, outcome := false, reactants := qs
      taken := 0, emitted := [], products := [], order := u.order, started := false, aborting := false }
  let k := unitLaunch u l.vif l.lid
  let u := setUnitLaunch { u with reactions := u.reactions ++ [q], order := u.order + 1 }
    { k with ptr := (i + 1) % max 1 l.image.rules.length, act := true }
  let l := { l with stages := l.stages.map fun t => if t.rule = i ∧ l.channelled then { t with next := t.next + 1 } else t }
  let s := showHeaders ((s.setUnit u).setLaunch l) p g q
  charge s l.vif 4 1

/-- What a decision of a unit for a launch comes to (R43, R240, R241, R245, R295): it waits, it finds no match, or it makes
one. -/
inductive Decision where
  | waits
  | nothing
  | made (s : State)

/-- The decision of a unit for a launch: it waits for escrow slots and a record (R43), for the HBM weir of its VIF where it moves
tiles of that (R295), and while the MATCH weir is exhausted (R242). -/
def decide' (s : State) (g : Nat) (l : Launch) : Decision :=
  let u := s.unit g
  if !weirOpen s l.vif 4 then .waits
  else match chooseMatch l u, freeIndex u with
    | none, _ => .nothing
    | some (i, ts), some x =>
      let need := (consumedSpecies (l.image.rules.getD i default)).length
      let room := decide ((u.tiles.filter (·.place == .escrow)).length + need ≤ Config.escrowSlots)
      let t := performMatch s g l i ts x
      if !room || (ts.any (·.place == .backwater) && !weirOpen s l.vif 1) || !movesOpen s t g l.vif then .waits else .made t
    | some _, none => .waits

/-- The launches that a unit serves, from the one after that of its last decision on (R241). -/
def launchTurn (s : State) (g : Nat) : List Launch :=
  let ls := s.launches.filter fun l => l.state == .running && l.units.contains g
  match (s.unit g).last with
  | none => ls
  | some p =>
    let n := ((ls.findIdx? fun l => (l.vif, l.lid) == p).map (· + 1)).getD 0
    ls.drop n ++ ls.take n

/-- Whether a group of a launch is satisfiable at a unit. -/
def satisfiableAt (s : State) (l : Launch) (g : Nat) : Bool := (chooseMatch l (s.unit g)).isSome

/-- Whether a launch is slack (R248): its LAST has come, nothing of it reacts or is on its way, an INJECT that waits apart (R247),
and no unit of it has a satisfiable group. No event of it occurs any more (R250). -/
def isSlack (s : State) (l : Launch) : Bool :=
  l.last && (reactionsOf s l.vif l.lid).isEmpty && !(s.flying.any fun f => f.vif == l.vif && f.lid == l.lid)
    && !((s.vif l.vif).any fun f => f.injects.any (·.lid == l.lid)) && !l.units.any (satisfiableAt s l)

/-- Whether a launch has the next decision of a unit: those before it in turn wait (R241), or are slack and have none (R250). -/
def hasTurn (s : State) (g v lid : Nat) : Bool :=
  ((launchTurn s g).find? fun l => match decide' s g l with
    | .waits => false
    | .nothing => !isSlack s l
    | .made _ => true).map (fun l => (l.vif, l.lid)) == some (v, lid)

/-- A unit whose last decision was for a launch. -/
def decidedFor (s : State) (g v lid : Nat) : State := s.setUnit { s.unit g with last := some (v, lid) }

/-- `MATCH_DECISION` (R240 to R242): a unit makes the decisions of its launches in round-robin order. -/
def execMatchDecision (g v lid : Nat) (s : State) : Out :=
  match s.launch v lid with
  | none => .next s
  | some l =>
    if !hasTurn s g v lid then .next s
    else match decide' s g l with
      | .waits => .next s
      | .nothing => .next (decidedFor (markAct s g v lid) g v lid)
      | .made t => .next (decidedFor t g v lid)

/-! ## Commit and abort (R52, R53, R247, R258) -/

/-- Whether a reaction has nothing left to wait for before its ending step (R191). -/
def mayEnd (s : State) (g : Nat) (r : Reaction) : Bool := !storesOut s g r && !opsOut s g r

/-- Whether a reaction is to commit: every live member waits in `commit`, or it waits for room in ENDING (R51, R247). -/
def committing (r : Reaction) : Bool := !r.aborting && (r.state == .ending || (r.state == .running && allCommitted r))

/-- Products of a reaction as they enter the basin (R31, R32). -/
def fixedProducts (r : Reaction) : List (BitVec 512 × Bool) := r.products.map fun h => (fixHeader r.vif 0 h.1, h.2)

/-- The commit step (R52, R60, R249). -/
def commitStep (s : State) (g : Nat) (l : Launch) (r : Reaction) : Option State :=
  if (fixedProducts r).all fun h => queueAdmits l h.1 then
    (tryPlace s l (fixedProducts r)).map fun s =>
      let u := unlock (s.unit g) r
      let gone := (r.reactants.filter (!·.cat)).map (·.tile)
      let u := { u with tiles := u.tiles.filter fun t => !gone.contains t.id }
      let k := unitLaunch u r.vif r.lid
      let u := setUnitLaunch u { k with sent := k.sent + r.products.length, act := true }
      let l := { l with commits := l.commits + 1 }
      let s := freeRecord ((s.setUnit u).setLaunch l) g r
      if l.reactLimit ≠ 0 ∧ l.reactLimit ≤ l.commits then enterWinding s l .limit 0 else s
  else none

/-- `REACTION_COMMIT` (R52): a reaction that finds no room for its products (R247), or in its queue (R258), waits in ENDING. -/
def execReactionCommit (g x : Nat) (s : State) : Out :=
  match s.reaction g x with
  | none => .next s
  | some r => match s.launch r.vif r.lid with
    | none => .next s
    | some l =>
      if !committing r ∨ l.state ≠ .running ∨ !mayEnd s g r then .next s
      else .next ((commitStep s g l r).getD (s.setReaction g { r with state := .ending }))

/-- `REACTION_ABORT` (R53): the step of an abort, or of a commit that the wind-down has overtaken (R247). -/
def execReactionAbort (g x : Nat) (s : State) : Out :=
  match s.reaction g x with
  | none => .next s
  | some r =>
    let winding := ((s.launch r.vif r.lid).map (·.state == .winding)).getD false
    let live := ((s.launch r.vif r.lid).map (·.state != .ended)).getD false
    if r.state != .ending || !mayEnd s g r || !live || !(r.aborting || winding) || !abortOpen s g r then .next s
    else .next (settleWinding (abortStep s g r) r.vif r.lid)

/-! ## Limits, slack and drain (R60, R62, R248 to R250) -/

/-- `CYCLE_LIMIT` (R60). -/
def execCycleLimit (v lid : Nat) (s : State) : Out :=
  match s.launch v lid with
  | none => .next s
  | some l => if l.state ≠ .running ∨ l.cycleLimit = 0 then .next s else .next (enterWinding s l .limit 0)

/-- ACT of a unit for a launch as a token finds it (R249). -/
def actAt (s : State) (l : Launch) (g : Nat) : Bool :=
  let u := s.unit g
  (unitLaunch u l.vif l.lid).act || (u.reactions.any fun r => r.vif == l.vif && r.lid == l.lid)
    || satisfiableAt s l g || s.flying.any fun f => f.held.isSome && f.vif == l.vif && f.lid == l.lid && f.sgn == g

/-- `SLACK_WAVE` (R250): a wave ends; slack is declared when two waves agree. An INJECT that waits keeps the launch from
slack (R247). -/
def execSlackWave (v lid : Nat) (s : State) : Out :=
  match s.vif v, s.launch v lid with
  | some f, some l =>
    if l.state ≠ .running then .next s
    else
      let act := l.units.any (actAt s l)
      let sent := l.injected + (l.units.map fun g => (unitLaunch (s.unit g) v lid).sent).sum
      let recv := (l.units.map fun g => (unitLaunch (s.unit g) v lid).recv).sum
      let slack := l.last && !act && sent == recv && l.wave == some (false, sent) && !f.injects.any (·.lid == lid)
      let s := l.units.foldl (fun s g => s.setUnit (setUnitLaunch (s.unit g) { unitLaunch (s.unit g) v lid with act := false })) s
      let l := { l with wave := some (act, sent) }
      .next (if slack then startDrain s { l with status := .complete } else s.setLaunch l)
  | _, _ => .next s

/-- `DRAIN_WRITE` (R62, R315): a launch that has wound down enters DRAINING, with the tiles that have reached their units
by then; in DRAINING, one tile is written to the first buffer of its launch, without its tag (R34), and COMPLETE follows
the last. -/
def execDrainWrite (v lid : Nat) (s : State) : Out :=
  match s.vif v, s.launch v lid with
  | some f, some l =>
    if woundDown s l then .next (startDrain s l)
    else match l.toDrain, f.buffers.find? (·.1 == lid) with
    | h :: rest, some b =>
      if l.state ≠ .draining ∨ !weirOpen s v 3 ∨ linkDown s .fabric then .next s
      else
        let m := s.mem.write (foreignAddr 4 v b.2.1) (bytesOfNat 64 h.toNat) []
        let bs := if b.2.2 ≤ 1 then f.buffers.erase b
          else upsert (· == b) (lid, b.2.1 + 64, b.2.2 - 1) f.buffers
        let l := { l with toDrain := rest, drained := l.drained + 1 }
        let u := charge (({ s with mem := m }.setVif { f with buffers := bs }).setLaunch l) v 3 64
        .next (if rest.isEmpty then finishLaunch u l l.status l.faultAddr else u)
    | _, _ => .next s
  | _, _ => .next s

end Sys2Proof.Machine
end

