-- ==== Sys2Proof/Machine/Overlay.lean ====
section
/-! DEFINITION. Overlay slots: which hold what, which can be loaded, and the start of a load (R63, R286). -/

namespace Sys2Proof.Machine

/-- What a slot of a tile holds, if it has been loaded. -/
def slotAt (s : State) (g t n : Nat) : Option Slot := s.slots.find? fun k => k.sgn == g && k.tile == t && k.slot == n

/-- The slot of a tile that holds an overlay of a launch, loaded or on its way. -/
def slotHolding (s : State) (g t v lid ovl : Nat) : Option Slot :=
  s.slots.find? fun k => k.sgn == g && k.tile == t && k.vif == v && k.lid == lid && k.ovl == ovl

/-- Whether a reaction of the tile executes from a slot, or is kept in place on a core of it (R63, R330); one in ENDING executes no
more. -/
def slotInUse (s : State) (k : Slot) : Bool :=
  s.cores.any fun c => c.1.sgn == k.sgn && tileIndex c.1.idx == k.tile && match c.2.rx.bind (s.reaction c.1.sgn) with
    | some r => r.vif == k.vif && r.lid == k.lid && r.state != .ending
        && ((s.launch r.vif r.lid).bind fun l => (l.image.rules[r.rule]?).map (·.ovl)) == some k.ovl
    | none => false

/-- Whether a slot of a tile can be loaded (R63). -/
def slotLoadable (s : State) (g t n : Nat) : Bool :=
  match slotAt s g t n with
  | none => true
  | some k => !k.loading && k.pins.isEmpty && !slotInUse s k

/-- The slot of a tile to load: of those that can be, the least recently used; one that nothing was loaded into first. -/
def slotToLoad (s : State) (g t : Nat) : Option Nat :=
  let age := fun n => (((slotAt s g t n).filter (·.len != 0)).map (·.use + 1)).getD 0
  match slotLoadable s g t 0, slotLoadable s g t 1 with
  | true, true => some (if age 1 < age 0 then 1 else 0)
  | true, false => some 0
  | false, true => some 1
  | false, false => none

/-- A slot, replaced. -/
def State.setSlot (s : State) (k : Slot) : State :=
  { s with slots := upsert (fun j => j.sgn == k.sgn && j.tile == k.tile && j.slot == k.slot) k s.slots }

/-- The copy engine starts to load an overlay into a slot; its bytes are charged to the HBM weir (R63). -/
def startLoad (s : State) (g t n : Nat) (l : Launch) (ovl : Nat) : State :=
  let len := ((l.image.overlays[ovl]?).map (·.2)).getD 0
  charge (s.setSlot ⟨g, t, n, l.vif, l.lid, ovl, len, s.tick, true, []⟩) l.vif 1 len

end Sys2Proof.Machine
end

