-- ==== Sys2Proof/Machine/FloatFn.lean ====
section
/-! DEFINITION. Square root and the special functions (R126, R127, Table 6.4).

The transcendental functions are evaluated in integer arithmetic with bounds on the error, at rising precision, until
the last bit is settled (log 20). Such a function of a rational operand, other than the listed exact cases, is
irrational, so its value lies strictly inside the bounds. -/

namespace Sys2Proof.Machine

/-- The functions of VUN minors 0 to 7 (Table 4.17). -/
inductive Fn where
  | sqrt | rcp | rsqrt | exp | log | sin | cos | tanh
  deriving DecidableEq, Repr, Inhabited

def Fn.num : Fn → Nat
  | .sqrt => 0 | .rcp => 1 | .rsqrt => 2 | .exp => 3 | .log => 4 | .sin => 5 | .cos => 6 | .tanh => 7

/-! ## Bounds -/

/-- The integer square root, bit by bit from bit `k - 1`. -/
def isqrtFrom (n : Nat) : Nat → Nat → Nat
  | 0, r => r
  | k + 1, r => isqrtFrom n k (if (r + 2 ^ k) * (r + 2 ^ k) ≤ n then r + 2 ^ k else r)

def isqrt (n : Nat) : Nat := isqrtFrom n (Nat.log2 n / 2 + 1) 0

/-- Σ y^n / n! in units of 2^−P, by floors, over `f` more terms from term `n`. -/
def expSum (P y : Nat) : Nat → Nat → Nat → Nat
  | 0, _, _ => 0
  | f + 1, n, t => t + expSum P y f (n + 1) (t * y / 2 ^ P / (n + 1))

/-- An interval squared `j` times, in units of 2^−P. -/
def squares (P : Nat) : Nat → Nat × Nat → Nat × Nat
  | 0, i => i
  | j + 1, i => squares P j (i.1 * i.1 / 2 ^ P, i.2 * i.2 / 2 ^ P + 1)

/-- m · 2^e in units of 2^−P, rounded down. -/
def fixed (P m : Nat) (e : Int) : Nat :=
  if 0 ≤ e + P then m * 2 ^ (e + P).toNat else m / 2 ^ (-(e + P)).toNat

/-- Bounds on e^x for 0 ≤ x < 2^12, in units of 2^−P. -/
def expBounds (P m : Nat) (e : Int) : Nat × Nat :=
  let n := P / 4 + 8
  let s := expSum P (fixed P m (e - 17)) n 0 (2 ^ P)
  squares P 17 (s - 4 * n, s + 4 * n)

/-- Σ (±1)^n z^(2n+1) / (2n+1), in units of 2^−P, with t = z^(2n+1). -/
def oddSum (P : Nat) (z2 : Int) (alternate : Bool) : Nat → Nat → Int → Int
  | 0, _, _ => 0
  | f + 1, n, t =>
    t / (2 * n + 1 : Nat) + oddSum P z2 alternate f (n + 1) ((if alternate then -t else t) * z2 / (2 ^ P : Nat))

/-- atan (1/k) or atanh (1/k) in units of 2^−P; the error is below twice the number of terms. -/
def arcOf (P k : Nat) (alternate : Bool) : Int :=
  oddSum P ((2 ^ P / (k * k) : Nat) : Int) alternate (P / 3 + 4) 0 ((2 ^ P / k : Nat) : Int)

/-- π/2 in units of 2^−P, and a bound on its error. -/
def halfPi (P : Nat) : Int × Nat := (8 * arcOf P 5 true - 2 * arcOf P 239 true, 40 * (P / 3 + 4))

/-- Bounds on ln (m · 2^e), in units of 2^−P. -/
def logBounds (P m : Nat) (e : Int) : Int × Int :=
  let l := Nat.log2 m
  let up := 4 * 2 ^ l < 3 * m
  let d : Int := ((if up then 2 ^ (l + 1) else 2 ^ l : Nat) : Int)
  let k : Int := e + l + (if up then 1 else 0)
  let z := ((m : Int) - d) * (2 ^ P : Nat) / (m + d)
  let v := 2 * oddSum P (z * z / (2 ^ P : Nat)) false (P / 3 + 4) 0 z + 2 * k * arcOf P 3 false
  let err : Int := ((8 * (P / 3 + 4) * (1 + k.natAbs) : Nat) : Int)
  (v - err, v + err)

/-- Taylor sums of sine (`n` odd) or cosine (`n` even) at r, in units of 2^−P: terms ± r^n / n!. -/
def trigSum (P : Nat) (r2 : Int) : Nat → Nat → Int → Int
  | 0, _, _ => 0
  | f + 1, n, t => t + trigSum P r2 f (n + 2) (-t * r2 / (2 ^ P : Nat) / ((n + 1) * (n + 2) : Nat))

/-- Bounds on sin (m · 2^e) or cos (m · 2^e), in units of 2^−P. -/
def trigBounds (P m : Nat) (e : Int) (cosine : Bool) : Int × Int :=
  let big := (exponentOf m 1 e + 2).toNat
  let q := P + big + 8
  let (h, err) := halfPi q
  let x : Int := (fixed q m e : Nat)
  let n := (2 * x + h) / (2 * h)
  let r := (x - n * h) / (2 ^ (q - P) : Nat)
  let terms := P / 4 + 8
  let w : Int := ((n.natAbs + 1) * err / 2 ^ (q - P) + 4 * terms + 4 : Nat)
  let r2 := r * r / (2 ^ P : Nat)
  let quad := (n + (if cosine then 1 else 0)) % 4
  let v := if quad % 2 = 0 then trigSum P r2 terms 1 r else trigSum P r2 terms 0 (2 ^ P : Nat)
  let v := if quad < 2 then v else -v
  (v - w, v + w)

/-- Bounds on a transcendental function of m · 2^e above zero: sign, lower and upper magnitude, and their unit's
exponent; nothing where the sign is not settled. `neg` is the operand's sign. -/
def boundsOf (fn : Fn) (P : Nat) (neg : Bool) (m : Nat) (e : Int) : Option (Bool × Nat × Nat × Int) :=
  let top := exponentOf m 1 e
  let signed := fun (flip : Bool) (b : Int × Int) =>
    if 0 < b.1 then some (flip, b.1.toNat, b.2.toNat, -(P : Int))
    else if b.2 < 0 then some (!flip, (-b.2).toNat, (-b.1).toNat, -(P : Int)) else none
  -- just below a value: (1 − 2^−80, 1) times m · 2^e
  let below := some (neg, m * 2 ^ 80 - m, m * 2 ^ 80, e - 80)
  match fn with
  | .exp =>
    if 11 ≤ top then some (false, 2 ^ 150, 2 ^ 150 + 1, if neg then -8192 else 8192)
    else
      let (lo, hi) := expBounds P m e
      let l := Nat.log2 hi
      if neg then some (false, 2 ^ (2 * P + l) / hi, 2 ^ (2 * P + l) / lo + 1, -(P : Int) - l) else some (false, lo, hi, -(P : Int))
  | .log => signed false (logBounds P m e)
  | .sin => if top < -41 then below else signed neg (trigBounds P m e false)
  | .cos => signed false (trigBounds P m e true)
  | .tanh =>
    if top < -41 then below
    else if 6 ≤ top then some (neg, 2 ^ 150 - 1, 2 ^ 150, -150)
    else
      let (lo, hi) := expBounds P m (e + 1)
      some (neg, (lo - 2 ^ P) * 2 ^ P / (lo + 2 ^ P), (hi - 2 ^ P) * 2 ^ P / (hi + 2 ^ P) + 1, -(P : Int))
  | _ => none

/-! ## Rounding -/

/-- m · 2^q rounded to the nearest value of `n` significant bits, in one spelling. -/
def nearest (n m : Nat) (e : Int) : Nat × Int :=
  let (a, q) := roundFree n 0 false m 1 e
  if a = 2 ^ n then (2 ^ (n - 1), q + 1) else (a, q)

/-- Whether m · 2^q rounds to a tiny value of a format (R103). -/
def isTiny (f : Fmt) (mode : Nat) (neg : Bool) (m : Nat) (q : Int) : Bool :=
  let (u, uq) := roundFree (f.mbits + 1) mode neg m 1 q
  !dyadicLe (2 ^ f.mbits) f.minExp u uq

/-- A fixed approximation rounded to the destination; NX and UF follow the exact value where `inexact` (R127, log 19). -/
def roundStar (f : Fmt) (mode : Nat) (flush neg inexact : Bool) (m : Nat) (q : Int) : Nat × Nat :=
  let (r, fl) := roundPos f mode flush false neg m 1 q
  (r, if inexact then fl ||| fNX ||| (if isTiny f mode neg m q then fUF else 0) else fl)

/-- Whether a format takes the fixed approximation of R127. -/
def usesStar (f : Fmt) : Bool := 23 ≤ f.mbits

/-- An irrational value strictly between lo · 2^e and hi · 2^e, rounded as R127 says, where the bounds settle it. -/
def settled (f : Fmt) (mode : Nat) (flush neg : Bool) (lo hi : Nat) (e : Int) : Option (Nat × Nat) :=
  -- every rounding boundary must be a multiple of the unit
  if Nat.log2 lo < f.mbits + 16 then none
  else if usesStar f then
    let a := nearest (f.mbits + 11) (2 * lo + 1) (e - 1)
    if a = nearest (f.mbits + 11) (2 * hi - 1) (e - 1) then some (roundStar f mode flush neg true a.1 a.2) else none
  else
    let a := roundPos f mode flush false neg (2 * lo + 1) 1 (e - 1)
    if a = roundPos f mode flush false neg (2 * hi - 1) 1 (e - 1) then some a else none

/-- A transcendental function at rising precision. -/
def evaluate (fn : Fn) (f : Fmt) (mode : Nat) (flush neg : Bool) (m : Nat) (e : Int) : Option (Nat × Nat) :=
  [192, 448, 1024].findSome? fun P => (boundsOf fn P neg m e).bind fun b => settled f mode flush b.1 b.2.1 b.2.2.1 b.2.2.2

/-- √(m · 2^e) or its reciprocal above zero: an integer below it at a unit, and whether it is exact. -/
def rootOf (inverse : Bool) (m : Nat) (e : Int) : Nat × Int × Bool :=
  let (m, e) := if e % 2 = 0 then (m, e) else (2 * m, e - 1)
  let k := 80 + Nat.log2 m
  if inverse then
    let v := 2 ^ (2 * k) / m
    let s := isqrt v
    (s, -(k : Int) - e / 2, s * s * m == 2 ^ (2 * k))
  else
    let s := isqrt (m * 2 ^ (2 * k))
    (s, e / 2 - k, s * s == m * 2 ^ (2 * k))

/-- A function of an operand above zero, or below it where the function is defined there, and not one of the exact
cases of Table 6.4. -/
def fnFinite (fn : Fn) (f : Fmt) (t mode : Nat) (flush neg : Bool) (n m : Nat) (e : Int) : Nat × Nat :=
  match fn with
  | .sqrt =>
    let (s, q, exact) := rootOf false m e
    if exact then roundPos f mode flush false false s 1 q else roundPos f mode flush false false (2 * s + 1) 1 (q - 1)
  | .rcp =>
    let exact := m == 2 ^ Nat.log2 m
    if usesStar f then
      let (a, q) := roundFree (f.mbits + 11) 0 false 1 m (-e)
      roundStar f mode flush neg (!exact) a q
    else roundPos f mode flush false neg 1 m (-e)
  | .rsqrt =>
    let (s, q, exact) := rootOf true m e
    let (s, q) := if exact then (s, q) else (2 * s + 1, q - 1)
    if usesStar f then
      let (a, q) := nearest (f.mbits + 11) s q
      roundStar f mode flush false (!exact) a q
    else roundPos f mode flush false false s 1 q
  | fn => match evaluate fn f mode flush neg m e with
    | some r => r
    | none =>
      let w := Config.special fn.num n t mode
      (w % 2 ^ f.width, fNX)

/-- The value 1 of a format. -/
def Fmt.one (f : Fmt) : Nat := f.bias * 2 ^ f.mbits

/-- A function of a lane (R127, Table 6.4): the result and its flags. -/
def fnLane (fn : Fn) (t mode : Nat) (flush : Bool) (n : Nat) : Nat × Nat :=
  let f := fmtOfType t
  let zero := fun (neg : Bool) => if neg then f.signBit else 0
  match unpack f flush n with
  | .nan => (f.nan, nanFlag f n)
  | .inf neg =>
    match fn with
    | .sqrt => if neg then (f.nan, fNV) else (f.infBits false, 0)
    | .rcp => (zero neg, 0)
    | .rsqrt => if neg then (f.nan, fNV) else (0, 0)
    | .exp => if neg then (0, 0) else (f.infBits false, 0)
    | .log => if neg then (f.nan, fNV) else (f.infBits false, 0)
    | .sin => (f.nan, fNV)
    | .cos => (f.nan, fNV)
    | .tanh => (zero neg + f.one, 0)
  | .fin neg m e =>
    if m = 0 then
      match fn with
      | .sqrt => (zero neg, 0)
      | .rcp => (f.infBits neg, fDZ)
      | .rsqrt => (f.infBits neg, fDZ)
      | .exp => (f.one, 0)
      | .log => (f.infBits true, fDZ)
      | .sin => (zero neg, 0)
      | .cos => (f.one, 0)
      | .tanh => (zero neg, 0)
    else if neg && (fn == .sqrt || fn == .rsqrt || fn == .log) then (f.nan, fNV)
    else if fn = .log ∧ n = f.one then (0, 0)
    else fnFinite fn f t mode flush neg n m e

end Sys2Proof.Machine
end

