-- ==== Sys2Proof/Machine/Series.lean ====
section
/-! DEFINITION. The series rules of jets (R140 to R144, Table 7.3), on the coefficients of one lane. -/

namespace Sys2Proof.Machine

/-- What every rounding point of an instruction shares: TYPE, effective mode and FLUSH. -/
structure Rounding where
  t     : Nat
  mode  : Nat
  flush : Bool
  deriving DecidableEq, Repr, Inhabited

def Rounding.fmt (r : Rounding) : Fmt := fmtOfType r.t

/-- A coefficient times an exact weight, with NV for a signalling NaN. -/
def weighted (r : Rounding) (w : Int) (x : Nat) : Ex × Nat := (exScale w (unpack r.fmt r.flush x), nanFlag r.fmt x)

/-- A term w·x·y, exact (R141). -/
def termOf (r : Rounding) (w : Int) (x y : Nat) : Ex × Nat :=
  let (p, v) := exMul (unpack r.fmt r.flush x) (unpack r.fmt r.flush y)
  (exScale w p, v ||| nanFlag r.fmt x ||| nanFlag r.fmt y)

/-- The sum of a rounded value and an exact one, rounded. -/
def roundSum (r : Rounding) (a : Ex × Nat) (b : Ex × Nat) : Nat × Nat :=
  let (x, v) := exAdd r.mode a.1 b.1
  let (n, w) := roundEx r.fmt r.mode r.flush false x
  (n, a.2 ||| b.2 ||| v ||| w)

/-- The procedure `Coef` (R141): a start value, the terms, an exact divisor. -/
def coef (r : Rounding) (e : Option (Ex × Nat)) (terms : List (Ex × Nat)) (d : Option (Ex × Nat)) : Nat × Nat :=
  let first : (Ex × Nat) × List (Ex × Nat) :=
    match e, terms with
    | some s, [] => (s, [])
    | some s, x :: rest => let (n, f) := roundSum r s x; ((unpack r.fmt r.flush n, f), rest)
    | none, x :: rest =>
      let (n, f) := roundEx r.fmt r.mode r.flush false x.1
      ((unpack r.fmt r.flush n, f ||| x.2), rest)
    | none, [] => ((.fin false 0 0, 0), [])
  let t := first.2.foldl (fun (t : Ex × Nat) x => let (n, f) := roundSum r t x; (unpack r.fmt r.flush n, f)) first.1
  match d with
  | none => let (n, _) := roundEx r.fmt r.mode r.flush false t.1; (n, t.2)
  | some q => let (n, f) := roundDiv r.fmt r.mode r.flush t.1 q.1; (n, f ||| t.2 ||| q.2)

/-- Terms for i from `lo` to `hi` (R141). -/
def terms (lo hi : Nat) (f : Nat → Ex × Nat) : List (Ex × Nat) := (List.range (hi + 1 - lo)).map fun j => f (lo + j)

/-- Coefficients 0 to n, each from the ones before it. -/
def series (n : Nat) (step : Nat → List Nat → Nat × Nat) : List (Nat × Nat) :=
  (List.range (n + 1)).foldl (fun cs k => cs ++ [step k (cs.map (·.1))]) []

/-- Two series side by side; the flags of the second are dropped (R144). -/
def twoSeries (n : Nat) (step : Nat → List Nat → List Nat → (Nat × Nat) × Nat) : List (Nat × Nat) :=
  ((List.range (n + 1)).foldl (fun (p : List (Nat × Nat) × List Nat) k =>
    let (c, q) := step k (p.1.map (·.1)) p.2
    (p.1 ++ [c], p.2 ++ [q])) ([], [])).1

/-- An exact integer as a divisor; none for 1. -/
def intDivisor (k : Nat) : Option (Ex × Nat) := if k = 1 then none else some (.fin false k 0, 0)

/-- Coefficient i of a list. -/
def co (l : List Nat) (i : Nat) : Nat := l.getD i 0

def jetMul (r : Rounding) (n : Nat) (a b : List Nat) : List (Nat × Nat) :=
  series n fun k _ => coef r none (terms 0 k fun i => termOf r 1 (co a i) (co b (k - i))) none

/-- `vfma` (`w` = 1) and `vfms` (`w` = −1). -/
def jetFma (r : Rounding) (w : Int) (n : Nat) (a b d : List Nat) : List (Nat × Nat) :=
  series n fun k _ => coef r (some (weighted r 1 (co d k))) (terms 0 k fun i => termOf r w (co a i) (co b (k - i))) none

def jetDiv (r : Rounding) (n : Nat) (a b : List Nat) : List (Nat × Nat) :=
  series n fun k c => coef r (some (weighted r 1 (co a k))) (terms 1 k fun i => termOf r (-1) (co b i) (co c (k - i)))
    (some (weighted r 1 (co b 0)))

/-- A function value at coefficient 0 (R143). -/
def fnAt (r : Rounding) (fn : Fn) (a : List Nat) : Nat × Nat := fnLane fn r.t r.mode r.flush (co a 0)

def jetRcp (r : Rounding) (n : Nat) (a : List Nat) : List (Nat × Nat) :=
  series n fun k c =>
    if k = 0 then fnAt r .rcp a
    else coef r none (terms 1 k fun i => termOf r (-1) (co a i) (co c (k - i))) (some (weighted r 1 (co a 0)))

def jetSqrt (r : Rounding) (n : Nat) (a : List Nat) : List (Nat × Nat) :=
  series n fun k c =>
    if k = 0 then fnAt r .sqrt a
    else coef r (some (weighted r 1 (co a k))) (terms 1 (k - 1) fun i => termOf r (-1) (co c i) (co c (k - i)))
      (some (weighted r 2 (co c 0)))

def jetRsqrt (r : Rounding) (n : Nat) (a : List Nat) : List (Nat × Nat) :=
  series n fun k c =>
    if k = 0 then fnAt r .rsqrt a
    else coef r none (terms 1 k fun i => termOf r ((i : Int) - 2 * k) (co a i) (co c (k - i)))
      (some (weighted r (2 * k) (co a 0)))

def jetExp (r : Rounding) (n : Nat) (a : List Nat) : List (Nat × Nat) :=
  series n fun k c =>
    if k = 0 then fnAt r .exp a
    else coef r none (terms 1 k fun i => termOf r i (co a i) (co c (k - i))) (intDivisor k)

def jetLog (r : Rounding) (n : Nat) (a : List Nat) : List (Nat × Nat) :=
  series n fun k c =>
    if k = 0 then fnAt r .log a
    else coef r (some (weighted r k (co a k))) (terms 1 (k - 1) fun i => termOf r (-i) (co c i) (co a (k - i)))
      (some (weighted r k (co a 0)))

/-- One coefficient of a sine series from the cosine series (`w` = 1), or of a cosine series from the sine series
(`w` = −1). -/
def trigCoef (r : Rounding) (w : Int) (k : Nat) (a other : List Nat) : Nat × Nat :=
  coef r none (terms 1 k fun i => termOf r (w * i) (co a i) (co other (k - i))) (intDivisor k)

def jetSin (r : Rounding) (n : Nat) (a : List Nat) : List (Nat × Nat) :=
  twoSeries n fun k c q =>
    if k = 0 then (fnAt r .sin a, (fnAt r .cos a).1) else (trigCoef r 1 k a q, (trigCoef r (-1) k a c).1)

def jetCos (r : Rounding) (n : Nat) (a : List Nat) : List (Nat × Nat) :=
  twoSeries n fun k c p =>
    if k = 0 then (fnAt r .cos a, (fnAt r .sin a).1) else (trigCoef r (-1) k a p, (trigCoef r 1 k a c).1)

def jetTanh (r : Rounding) (n : Nat) (a : List Nat) : List (Nat × Nat) :=
  twoSeries n fun k c u =>
    let ck := if k = 0 then fnAt r .tanh a
      else coef r none (terms 1 k fun i => termOf r i (co a i) (co u (k - i))) (intDivisor k)
    let c := c ++ [ck.1]
    let ts := terms 0 k fun i => termOf r (-1) (co c i) (co c (k - i))
    let uk := coef r (if k = 0 then some (.fin false 1 0, 0) else none) ts none
    (ck, uk.1)

/-- Coefficient-wise sum or difference (R142). -/
def jetAdd (r : Rounding) (minus : Bool) (n : Nat) (a b : List Nat) : List (Nat × Nat) :=
  (List.range (n + 1)).map fun k =>
    if minus then fpSub r.fmt r.mode r.flush (co a k) (co b k) else fpAdd r.fmt r.mode r.flush (co a k) (co b k)

def jetNeg (r : Rounding) (n : Nat) (a : List Nat) : List (Nat × Nat) :=
  (List.range (n + 1)).map fun k => (co a k ^^^ r.fmt.signBit, 0)

/-- The series of a function of VUN. -/
def jetFn (r : Rounding) (fn : Fn) (n : Nat) (a : List Nat) : List (Nat × Nat) :=
  match fn with
  | .sqrt => jetSqrt r n a
  | .rcp => jetRcp r n a
  | .rsqrt => jetRsqrt r n a
  | .exp => jetExp r n a
  | .log => jetLog r n a
  | .sin => jetSin r n a
  | .cos => jetCos r n a
  | .tanh => jetTanh r n a

end Sys2Proof.Machine
end

