-- ==== Sys2Proof/Machine/Vector.lean ====
section
/-! DEFINITION. Vector loads and stores, and the vector instructions with their jet meaning (R124 to R132, R142,
R204 to R206). -/

namespace Sys2Proof.Machine

/-! ## Vector loads and stores -/

/-- The memory type, element size and stride of a pointer's FORMAT under a TYPE (Table 10.2). -/
def memElement (key : Cap) (t : Nat) : Nat × Nat × Nat :=
  match key.format with
  | 1 => (0, 8, 8) | 2 => (1, 4, 4) | 3 => (2, 2, 2) | 4 => (3, 2, 2) | 5 => (4, 1, 1) | 6 => (5, 1, 1) | 8 => (6, 1, 1)
  | 9 => (7, 4, 4) | 10 => (1, 4, 4 * 2 ^ key.blog) | 11 => (0, 8, 8 * 2 ^ key.blog)
  | _ => (t, widthOf t / 8, widthOf t / 8)

/-- The places of `n` elements: one run where they are contiguous, else one run for each (R185, R204). -/
def elementLocs (s : State) (key : Cap) (a : Word) (n es st : Nat) (kind : Access) : Res (List Loc) :=
  if st = es then locate s key.space a (n * es) kind
  else do
    let ls ← (List.range n).mapM fun i => locate s key.space (effAddr { key with bits := a.zeroExtend 128 } 0 1 (i * st : Nat)) es kind
    .ok ls.flatten

/-- The checks of `vld` and `vst` (R204), and the places of the elements. -/
def vectorLocs (s : State) (i : Instr) (v : Nat) (key : Cap) (a : Word) (t need : Nat) (kind : Access) : Res (List Loc) := do
  legal i (v < s.ctx.vcount)
  let (_, es, st) := memElement key t
  let n := lanesOf t
  capCheck s.ctx.level key a ((n - 1) * st + es) need
  guardTrap (key.space != 6) .capPerm a
  formatCheck key a
  elementLocs s key a n es st kind

/-- The effective address of a vector access: D is in units of 128 bytes (R204). -/
def vectorAddr (s : State) (k : BitVec 4) (x : BitVec 5) (c : BitVec 2) (o : BitVec 5) : Word :=
  effAddr (s.k k.toNat) (s.x x.toNat) (2 ^ c.toNat) (o.toInt * 128)

/-- One element converted, or its bits where the types are equal (R205). -/
def convertElement (s : State) (from' to' n : Nat) : Nat × Nat :=
  if from' = to' then (n, 0) else convert from' to' s.ctx.mode s.ctx.flush false n

/-- The granules of a register into which bad lanes of `w` bytes fall, as pool offsets. -/
def laneGranules (v w : Nat) (bad : List Bool) : List Nat :=
  (List.range 4).filterMap fun g =>
    if (List.range bad.length).any fun i => bad.getD i false && w * i / 32 == g then some (128 * v + 32 * g) else none

/-- `vld` (R204, R205). -/
def execVld (d : BitVec 6) (k : BitVec 4) (x : BitVec 5) (c : BitVec 2) (t : BitVec 4) (o : BitVec 5) (s : State) : Out :=
  conclude s do
    let key := s.k k.toNat
    let a := vectorAddr s k x c o
    let ty := t.toNat
    let ls ← vectorLocs s (.vld d k x c t o) d.toNat key a ty permLoad .load
    readable s ls a
    let (mt, es, _) := memElement key ty
    let bs := chunks es (lanesOf ty) (readLocs s ls)
    let flags := badBytes s ls
    let res := bs.map fun b => convertElement s mt ty (natOfBytes b)
    let bad := (List.range bs.length).map fun i => ((flags.drop (es * i)).take es).any id
    let (v, fl) := packLanes ty res
    let u := vset s d.toNat v (laneGranules d.toNat (widthOf ty / 8) bad)
    issueAll s (setFlags u fl).advance [movedTo key.space (lanesOf ty * es) ls]

/-- `vst` (R204, R205): poison is carried to memory (R186). -/
def execVst (d : BitVec 6) (k : BitVec 4) (x : BitVec 5) (c : BitVec 2) (t : BitVec 4) (o : BitVec 5) (s : State) : Out :=
  conclude s do
    let key := s.k k.toNat
    let a := vectorAddr s k x c o
    let ty := t.toNat
    let ls ← vectorLocs s (.vst d k x c t o) d.toNat key a ty permStore .store
    let (mt, es, _) := memElement key ty
    let res := (lanes ty (vget s d.toNat)).map (convertElement s ty mt)
    let src := vectorBad s d.toNat
    let bad := (List.range (lanesOf ty)).flatMap fun i => List.replicate es (src.getD (widthOf ty / 8 * i) false)
    let u := coreStore s ls (res.flatMap fun r => bytesOfNat es r.1) bad []
    issueAll s (setFlags u (res.foldl (fun f r => f ||| r.2) 0)).advance [movedTo key.space (lanesOf ty * es) ls]

/-- The FORMAT whose element is a TYPE (Table 5.12); 0 where there is none. -/
def formatOfType (t : Nat) : Nat :=
  match t with
  | 0 => 1 | 1 => 2 | 2 => 3 | 3 => 4 | 4 => 5 | 5 => 6 | 6 => 8 | 7 => 9 | _ => 0

/-- Addresses of the elements of `vldx` or `vstx`, checked (R206). The checks of SPACE 6 and of the format, which have no lane, come after
those of every lane, with the address of lane 0: R206 states neither (DESIGN CHOICE, log 87). -/
def indexedAddrs (s : State) (i : Instr) (d v : Nat) (key : Cap) (c t need : Nat) : Res (List Word) := do
  legal i (s.ctx.order == 0 && d < s.ctx.vcount && v < s.ctx.vcount)
  match (vectorSource s v).low with
  | some p => trap .poisonUse p
  | none =>
    let as := (lanes t (vget s v)).map fun n => effAddr key (BitVec.ofNat 64 n) (2 ^ c) 0
    let _ ← as.mapM fun a => capCheck s.ctx.level key a (widthOf t / 8) need
    let a := as.getD 0 0
    guardTrap (key.space != 6) .capPerm a
    guardTrap (key.format < 12) .formatReserved a
    guardTrap (key.format == 0 || key.format == formatOfType t) .formatNotAddressable a
    guardTrap (blogOk key.format key.blog) .formatReserved a
    .ok as

/-- `vldx` (R206): each element is a separate piece, moved as it is. -/
def execVldx (d a : BitVec 6) (k : BitVec 4) (c : BitVec 2) (t : BitVec 4) (s : State) : Out :=
  conclude s do
    let key := s.k k.toNat
    let ty := t.toNat
    let w := widthOf ty / 8
    let as ← indexedAddrs s (.vldx d a k c t) d.toNat a.toNat key c.toNat ty permLoad
    let els ← as.mapM fun p => loadBytes s key.space p w
    let v := natOfBytes (els.flatMap (·.1))
    let u := vset s d.toNat v (laneGranules d.toNat w (els.map fun e => e.2.1.any id))
    issueAll s u.advance [movedTo key.space 128 (els.flatMap (·.2.2))]

/-- `vstx` (R206): the elements are stored in ascending lane order. -/
def execVstx (d a : BitVec 6) (k : BitVec 4) (c : BitVec 2) (t : BitVec 4) (s : State) : Out :=
  conclude s do
    let key := s.k k.toNat
    let ty := t.toNat
    let w := widthOf ty / 8
    let as ← indexedAddrs s (.vstx d a k c t) d.toNat a.toNat key c.toNat ty permStore
    let ls ← as.mapM fun p => locate s key.space p w .store
    let u := storeElements w s ls (poolRead s (128 * d.toNat) 128) (vectorBad s d.toNat)
    issueAll s u.advance [movedTo key.space 128 ls.flatten]

/-! ## Elementwise forms (R124, Table 6.3) -/

/-- The rounding of an instruction (R99). -/
def roundingOf (s : State) (t r : Nat) : Rounding := ⟨t, s.ctx.rmode r, s.ctx.flush⟩

/-- An integer lane operation, wrapping (R95). -/
def intLane (f : Int → Int → Int) (t a b : Nat) : Nat × Nat := (wrap (widthOf t) (f (intOf t a) (intOf t b)), 0)

def laneAdd (r : Rounding) (a b : Nat) : Nat × Nat :=
  if isInt r.t then intLane (· + ·) r.t a b else fpAdd r.fmt r.mode r.flush a b
def laneSub (r : Rounding) (a b : Nat) : Nat × Nat :=
  if isInt r.t then intLane (· - ·) r.t a b else fpSub r.fmt r.mode r.flush a b
def laneMul (r : Rounding) (a b : Nat) : Nat × Nat :=
  if isInt r.t then intLane (· * ·) r.t a b else fpMul r.fmt r.mode r.flush a b
def laneDiv (r : Rounding) (a b : Nat) : Nat × Nat := fpDiv r.fmt r.mode r.flush a b
def laneMinMax (greater : Bool) (r : Rounding) (a b : Nat) : Nat × Nat :=
  if isInt r.t then intLane (fun x y => if decide (x < y) == greater then y else x) r.t a b
  else fpMinMax r.fmt r.flush greater a b

/-- A lane operation on two sources. -/
def twoLanes (t : Nat) (f : Nat → Nat → Nat × Nat) (xs : List Nat) : Nat × Nat :=
  packLanes t (List.zipWith f (lanes t (xs.getD 0 0)) (lanes t (xs.getD 1 0)))

/-- A lane operation on three sources. -/
def threeLanes (t : Nat) (f : Nat → Nat → Nat → Nat × Nat) (xs : List Nat) : Nat × Nat :=
  packLanes t (List.zipWith (fun a bd => f a bd.1 bd.2) (lanes t (xs.getD 0 0))
    (List.zip (lanes t (xs.getD 1 0)) (lanes t (xs.getD 2 0))))

/-- A form of two sources that has a jet meaning. -/
def binaryOp (i : Instr) (lane : Rounding → Nat → Nat → Nat × Nat) (jet : Rounding → Nat → List Nat → List Nat → List (Nat × Nat))
    (d a b : BitVec 6) (t : BitVec 4) (r : BitVec 3) (q : BitVec 1) (s : State) : Out :=
  let ro := roundingOf s t.toNat r.toNat
  conclude s (jetOrVector s i t.toNat q.toNat [a.toNat, b.toNat] d.toNat
    (jetOp s i t.toNat d.toNat [a.toNat, b.toNat] fun o => jet ro s.ctx.order (o.getD 0 []) (o.getD 1 []))
    (vectorOp s i q.toNat d.toNat [a.toNat, b.toNat] false (twoLanes t.toNat (lane ro))))

/-- A form of two sources that has no jet meaning: ILLEGAL under jets (R81). -/
def plainOp (i : Instr) (t : Nat) (f : Nat → Nat → Nat × Nat) (d a b : BitVec 6) (q : BitVec 1) (s : State) : Out :=
  conclude s (vectorOp s i q.toNat d.toNat [a.toNat, b.toNat] false (twoLanes t f))

/-- `vfma` and `vfms`: VD is the addend (R123, R124). -/
def fusedOp (i : Instr) (minus : Bool) (d a b : BitVec 6) (t : BitVec 4) (r : BitVec 3) (q : BitVec 1) (s : State) : Out :=
  let ro := roundingOf s t.toNat r.toNat
  let srcs := [a.toNat, b.toNat, d.toNat]
  conclude s (jetOrVector s i t.toNat q.toNat srcs d.toNat
    (jetOp s i t.toNat d.toNat srcs fun o =>
      jetFma ro (if minus then -1 else 1) s.ctx.order (o.getD 0 []) (o.getD 1 []) (o.getD 2 []))
    (vectorOp s i q.toNat d.toNat srcs false (threeLanes t.toNat fun x y z => fpFma ro.fmt ro.mode ro.flush minus x y z)))

/-- `vadd` (Table 6.3, Table 7.3). -/
def execVadd (d a b : BitVec 6) (t : BitVec 4) (r : BitVec 3) (q : BitVec 1) (s : State) : Out :=
  binaryOp (.vadd d a b t r q) laneAdd (fun r n a b => jetAdd r false n a b) d a b t r q s

/-- `vsub` (Table 6.3, Table 7.3). -/
def execVsub (d a b : BitVec 6) (t : BitVec 4) (r : BitVec 3) (q : BitVec 1) (s : State) : Out :=
  binaryOp (.vsub d a b t r q) laneSub (fun r n a b => jetAdd r true n a b) d a b t r q s

/-- `vmul` (Table 6.3, Table 7.3). -/
def execVmul (d a b : BitVec 6) (t : BitVec 4) (r : BitVec 3) (q : BitVec 1) (s : State) : Out :=
  binaryOp (.vmul d a b t r q) laneMul (jetMul) d a b t r q s

/-- `vdiv` (Table 6.3, Table 7.3). -/
def execVdiv (d a b : BitVec 6) (t : BitVec 4) (r : BitVec 3) (q : BitVec 1) (s : State) : Out :=
  binaryOp (.vdiv d a b t r q) laneDiv (jetDiv) d a b t r q s

/-- `vmin` (Table 6.3, R98). -/
def execVmin (d a b : BitVec 6) (t : BitVec 4) (q : BitVec 1) (s : State) : Out :=
  plainOp (.vmin d a b t q) t.toNat (laneMinMax false (roundingOf s t.toNat 0)) d a b q s

/-- `vmax` (Table 6.3, R98). -/
def execVmax (d a b : BitVec 6) (t : BitVec 4) (q : BitVec 1) (s : State) : Out :=
  plainOp (.vmax d a b t q) t.toNat (laneMinMax true (roundingOf s t.toNat 0)) d a b q s

/-- `vfma` (Table 6.3, Table 7.3). -/
def execVfma (d a b : BitVec 6) (t : BitVec 4) (r : BitVec 3) (q : BitVec 1) (s : State) : Out := fusedOp (.vfma d a b t r q) false d a b t r q s

/-- `vfms` (Table 6.3, Table 7.3). -/
def execVfms (d a b : BitVec 6) (t : BitVec 4) (r : BitVec 3) (q : BitVec 1) (s : State) : Out := fusedOp (.vfms d a b t r q) true d a b t r q s

/-! ## Unary forms (R126, R127) -/

/-- A lane operation on one source. -/
def oneLane (t : Nat) (f : Nat → Nat × Nat) (xs : List Nat) : Nat × Nat := packLanes t ((lanes t (xs.getD 0 0)).map f)

/-- A function of VUN minors 0 to 7. -/
def functionOp (i : Instr) (fn : Fn) (d a : BitVec 6) (t : BitVec 4) (r : BitVec 3) (q : BitVec 1) (s : State) : Out :=
  let ro := roundingOf s t.toNat r.toNat
  conclude s (jetOrVector s i t.toNat q.toNat [a.toNat] d.toNat
    (jetOp s i t.toNat d.toNat [a.toNat] fun o => jetFn ro fn s.ctx.order (o.getD 0 []))
    (vectorOp s i q.toNat d.toNat [a.toNat] false (oneLane t.toNat (fnLane fn t.toNat ro.mode ro.flush))))

/-- `vsqrt` (R126, R127). -/
def execVsqrt (d a : BitVec 6) (t : BitVec 4) (r : BitVec 3) (q : BitVec 1) (s : State) : Out :=
  functionOp (.vsqrt d a t r q) .sqrt d a t r q s

/-- `vrcp` (R126, R127). -/
def execVrcp (d a : BitVec 6) (t : BitVec 4) (r : BitVec 3) (q : BitVec 1) (s : State) : Out :=
  functionOp (.vrcp d a t r q) .rcp d a t r q s

/-- `vrsqrt` (R126, R127). -/
def execVrsqrt (d a : BitVec 6) (t : BitVec 4) (r : BitVec 3) (q : BitVec 1) (s : State) : Out :=
  functionOp (.vrsqrt d a t r q) .rsqrt d a t r q s

/-- `vexp` (R126, R127). -/
def execVexp (d a : BitVec 6) (t : BitVec 4) (r : BitVec 3) (q : BitVec 1) (s : State) : Out :=
  functionOp (.vexp d a t r q) .exp d a t r q s

/-- `vlog` (R126, R127). -/
def execVlog (d a : BitVec 6) (t : BitVec 4) (r : BitVec 3) (q : BitVec 1) (s : State) : Out :=
  functionOp (.vlog d a t r q) .log d a t r q s

/-- `vsin` (R126, R127). -/
def execVsin (d a : BitVec 6) (t : BitVec 4) (r : BitVec 3) (q : BitVec 1) (s : State) : Out :=
  functionOp (.vsin d a t r q) .sin d a t r q s

/-- `vcos` (R126, R127). -/
def execVcos (d a : BitVec 6) (t : BitVec 4) (r : BitVec 3) (q : BitVec 1) (s : State) : Out :=
  functionOp (.vcos d a t r q) .cos d a t r q s

/-- `vtanh` (R126, R127). -/
def execVtanh (d a : BitVec 6) (t : BitVec 4) (r : BitVec 3) (q : BitVec 1) (s : State) : Out :=
  functionOp (.vtanh d a t r q) .tanh d a t r q s

/-- `vneg` (R126, R97): the sign bit, or 0 − a. -/
def execVneg (d a : BitVec 6) (t : BitVec 4) (q : BitVec 1) (s : State) : Out :=
  let ty := t.toNat
  let i : Instr := .vneg d a t q
  conclude s (jetOrVector s i ty q.toNat [a.toNat] d.toNat
    (jetOp s i ty d.toNat [a.toNat] fun o => jetNeg (roundingOf s ty 0) s.ctx.order (o.getD 0 []))
    (vectorOp s i q.toNat d.toNat [a.toNat] false (oneLane ty fun n =>
      (if isInt ty then wrap (widthOf ty) (-(n : Int)) else n ^^^ (fmtOfType ty).signBit, 0))))

/-- `vabs` (R126, R97). -/
def execVabs (d a : BitVec 6) (t : BitVec 4) (q : BitVec 1) (s : State) : Out :=
  let ty := t.toNat
  conclude s (vectorOp s (.vabs d a t q) q.toNat d.toNat [a.toNat] false (oneLane ty fun n =>
    (if isInt ty then wrap (widthOf ty) (intOf ty n).natAbs else n % (fmtOfType ty).signBit, 0)))

/-- `vmov` under jets (R142): coefficients 0 to n with their poison, zero in the padding. -/
def jetMov (s : State) (i : Instr) (d a : Nat) : Res State := do
  legal i (jetFits s a && jetFits s d)
  let g := groupSize s.ctx.order
  .ok ((List.range g).foldl (fun u c =>
    if c ≤ s.ctx.order then
      vset u (g * d + c) (vget s (g * a + c))
        ((poolPoison s (128 * (g * a + c)) 128).map fun o => o - 128 * (g * a + c) + 128 * (g * d + c))
    else vset u (g * d + c) 0 []) s).advance

/-- `vmov` (R126, R122): the 128 bytes, poison included. -/
def execVmov (d a : BitVec 6) (t : BitVec 4) (q : BitVec 1) (s : State) : Out :=
  let i : Instr := .vmov d a t q
  conclude s (jetOrVector s i t.toNat q.toNat [a.toNat] d.toNat (jetMov s i d.toNat a.toNat)
    (vectorOp s i q.toNat d.toNat [a.toNat] true fun xs => (xs.getD 0 0, 0)))

/-! ## Compare, select, permute and logic (R128 to R131) -/

/-- Whether a relation holds for two lanes, and its flags (R128). -/
def compareLane (t rel : Nat) (flush : Bool) (a b : Nat) : Bool × Nat :=
  let pick := fun (c : Int) => match rel with
    | 0 => c == 0
    | 1 => c != 0
    | 2 => decide (c < 0)
    | 3 => decide (c ≤ 0)
    | 4 => decide (0 < c)
    | 5 => decide (0 ≤ c)
    | 6 => false
    | _ => true
  if isInt t then
    let x := intOf t a
    let y := intOf t b
    (pick (if x < y then -1 else if x = y then 0 else 1), 0)
  else
    let f := fmtOfType t
    if isNan f a || isNan f b then
      (rel == 1 || rel == 6, if 2 ≤ rel && rel ≤ 5 then fNV else nanFlag f a ||| nanFlag f b)
    else (pick (exCompare (unpack f flush a) (unpack f flush b)), 0)

/-- `vcmp` (R128): RM holds the relation. -/
def execVcmp (d a b : BitVec 6) (t : BitVec 4) (r : BitVec 3) (q : BitVec 1) (s : State) : Out :=
  let ty := t.toNat
  plainOp (.vcmp d a b t r q) ty (fun x y =>
    let (h, f) := compareLane ty r.toNat s.ctx.flush x y
    (if h then 2 ^ widthOf ty - 1 else 0, f)) d a b q s

/-- `vsel` (R129): VD supplies the mask. Whether a floating mask lane of -0, or a subnormal one under FLUSH, is nonzero, R129 does
not say: here a lane is nonzero where any bit of it is (DESIGN CHOICE, log 65). -/
def execVsel (d a b : BitVec 6) (t : BitVec 4) (q : BitVec 1) (s : State) : Out :=
  conclude s (vectorOp s (.vsel d a b t q) q.toNat d.toNat [a.toNat, b.toNat, d.toNat] false
    (threeLanes t.toNat fun x y m => (if m ≠ 0 then x else y, 0)))

/-- `vperm` (R130). -/
def execVperm (d a b : BitVec 6) (t : BitVec 4) (q : BitVec 1) (s : State) : Out :=
  let ty := t.toNat
  conclude s (vectorOp s (.vperm d a b t q) q.toNat d.toNat [a.toNat, b.toNat] false fun xs =>
    let src := lanes ty (xs.getD 0 0)
    packLanes ty ((lanes ty (xs.getD 1 0)).map fun j => (src.getD (j % lanesOf ty) 0, 0)))

/-- A form of VLOG on whole lanes (R131). -/
def logicOp (i : Instr) (t : BitVec 4) (f : Nat → Nat → Nat) (d a b : BitVec 6) (q : BitVec 1) (s : State) : Out :=
  plainOp i t.toNat (fun x y => (f x y, 0)) d a b q s

/-- `vand` (R131). -/
def execVand (d a b : BitVec 6) (t : BitVec 4) (q : BitVec 1) (s : State) : Out :=
  logicOp (.vand d a b t q) t (fun x y => x &&& y) d a b q s

/-- `vor` (R131). -/
def execVor (d a b : BitVec 6) (t : BitVec 4) (q : BitVec 1) (s : State) : Out :=
  logicOp (.vor d a b t q) t (fun x y => x ||| y) d a b q s

/-- `vxor` (R131). -/
def execVxor (d a b : BitVec 6) (t : BitVec 4) (q : BitVec 1) (s : State) : Out :=
  logicOp (.vxor d a b t q) t (fun x y => x ^^^ y) d a b q s

/-- `vsll` (R131). -/
def execVsll (d a b : BitVec 6) (t : BitVec 4) (q : BitVec 1) (s : State) : Out :=
  let w := widthOf t.toNat
  logicOp (.vsll d a b t q) t (fun x y => x * 2 ^ (y % w) % 2 ^ w) d a b q s

/-- `vsrl` (R131). -/
def execVsrl (d a b : BitVec 6) (t : BitVec 4) (q : BitVec 1) (s : State) : Out :=
  let w := widthOf t.toNat
  logicOp (.vsrl d a b t q) t (fun x y => x / 2 ^ (y % w)) d a b q s

/-- `vsra` (R131). -/
def execVsra (d a b : BitVec 6) (t : BitVec 4) (q : BitVec 1) (s : State) : Out :=
  let w := widthOf t.toNat
  logicOp (.vsra d a b t q) t (fun x y => wrap w (toSigned w x / (2 ^ (y % w) : Nat))) d a b q s

/-- `vcopysign` (R131). -/
def execVcopysign (d a b : BitVec 6) (t : BitVec 4) (q : BitVec 1) (s : State) : Out :=
  let w := widthOf t.toNat
  logicOp (.vcopysign d a b t q) t (fun x y => x % 2 ^ (w - 1) + y / 2 ^ (w - 1) * 2 ^ (w - 1)) d a b q s

/-! ## Reductions (R132, R107) -/

/-- One level of the pairwise tree. -/
def treeLevel (f : Nat → Nat → Nat × Nat) : List (Nat × Nat) → List (Nat × Nat)
  | a :: b :: t => let (r, fl) := f a.1 b.1; (r, a.2 ||| b.2 ||| fl) :: treeLevel f t
  | l => l

/-- The pairwise tree of 2^levels lanes. -/
def treeReduce (f : Nat → Nat → Nat × Nat) : Nat → List (Nat × Nat) → List (Nat × Nat)
  | 0, l => l
  | n + 1, l => treeReduce f n (treeLevel f l)

/-- A reduction into lane 0; the other lanes are zero. -/
def reduceOp (i : Instr) (f : Nat → Nat → Nat × Nat) (d a : BitVec 6) (t : BitVec 4) (q : BitVec 1) (s : State) : Out :=
  conclude s (vectorOp s i q.toNat d.toNat [a.toNat] false fun xs =>
    (treeReduce f 7 ((lanes t.toNat (xs.getD 0 0)).map fun n => (n, 0))).getD 0 (0, 0))

/-- `vred.add` (R132). -/
def execVredAdd (d a : BitVec 6) (t : BitVec 4) (r : BitVec 3) (q : BitVec 1) (s : State) : Out :=
  reduceOp (.vredAdd d a t r q) (laneAdd (roundingOf s t.toNat r.toNat)) d a t q s

/-- `vred.min` (R132). -/
def execVredMin (d a : BitVec 6) (t : BitVec 4) (q : BitVec 1) (s : State) : Out :=
  reduceOp (.vredMin d a t q) (laneMinMax false (roundingOf s t.toNat 0)) d a t q s

/-- `vred.max` (R132). -/
def execVredMax (d a : BitVec 6) (t : BitVec 4) (q : BitVec 1) (s : State) : Out :=
  reduceOp (.vredMax d a t q) (laneMinMax true (roundingOf s t.toNat 0)) d a t q s

/-! ## Conversions (R133, R134) -/

/-- Elements converted: as many as the type with fewer lanes has; the other lanes are zero. -/
def convertLanes (src dst mode : Nat) (flush sat : Bool) (v : Nat) : Nat × Nat :=
  let n := Nat.min (lanesOf src) (lanesOf dst)
  packLanes dst (((lanes src v).take n).map (convert src dst mode flush sat))

/-- `vcvt` (R133). -/
def execVcvt (d a : BitVec 6) (x : BitVec 1) (src t : BitVec 4) (r : BitVec 3) (q : BitVec 1) (s : State) : Out :=
  conclude s (vectorOp s (.vcvt d a x src t r q) q.toNat d.toNat [a.toNat] false fun xs =>
    convertLanes src.toNat t.toNat (s.ctx.rmode r.toNat) s.ctx.flush (x == 1) (xs.getD 0 0))

/-- Elements of the amax form (R134): where the two types are equal, a quiet NaN is unchanged (log 38). -/
def amaxLanes (src dst mode : Nat) (flush : Bool) (v : Nat) : Nat × Nat :=
  let n := Nat.min (lanesOf src) (lanesOf dst)
  packLanes dst (((lanes src v).take n).map fun x =>
    if src = dst ∧ isNan (fmtOfType src) x ∧ !isSignalling (fmtOfType src) x then (x, 0)
    else convert src dst mode flush true x)

/-- The amax form of `vcvt` (R134): it saturates, and records the magnitudes of the elements that it converts. -/
def execVcvtAmax (d a : BitVec 6) (m : BitVec 2) (src t : BitVec 4) (r : BitVec 3) (q : BitVec 1) (s : State) : Out :=
  conclude s do
    let i : Instr := .vcvtAmax d a m src t r q
    let sq := q.toNat
    windowCheck i sq [a.toNat] d.toNat
    vectorCheck s i sq [a.toNat] d.toNat
    let x ← readSource s sq a.toNat
    match x.low with
    | some p => trap .poisonUse p
    | none =>
      let n := Nat.min (lanesOf src.toNat) (lanesOf t.toNat)
      let (v, fl) := amaxLanes src.toNat t.toNat (s.ctx.rmode r.toNat) s.ctx.flush x.value
      let (u, moved) ← writeVector s (advanceSources s [a.toNat] [x]) sq d.toNat v []
      let u ← issueAll s u (x.moved ++ moved)
      .ok (setAmax (setFlags u fl) m.toNat src.toNat ((lanes src.toNat x.value).take n)).advance

end Sys2Proof.Machine
end

