-- ==== Sys2Proof/Machine/Matrix.lean ====
section
/-! DEFINITION. The matrix unit: tiles, runs of steps, remote steps (R155 to R176). -/

namespace Sys2Proof.Machine

/-! ## Tiles and panels -/

/-- First byte of a slot, or of a half of it, in the pool (R155). -/
def slotBase (s : State) (slot half : Nat) : Nat := s.ctx.accBase + 4608 * slot + 2304 * half

/-- Bytes that a step in a mode writes. -/
def tileBytes (mode : Nat) : Nat := if mode = 7 then 2304 else 4608

/-- A panel: rows of 64 bytes. -/
abbrev Panel := List (List Byte)

/-- TYPE codes of the A and B elements of a mode (Table 8.1). -/
def modeTypes (mode : Nat) : Nat × Nat :=
  match mode with
  | 0 => (2, 2) | 1 => (3, 3) | 2 => (4, 4) | 3 => (5, 5) | 4 => (4, 5) | 5 => (5, 4) | 6 => (6, 6) | _ => (0, 0)

/-- Elements of a row of 64 bytes. -/
def rowElements (t : Nat) (row : List Byte) : List Nat :=
  splitLanes (widthOf t) (512 / widthOf t) (natOfBytes row)

/-- The exact sum of products and a previous value (R106), before its rounding: the value and NV. -/
def exactSum (mode : Nat) (prev : Ex) (ps : List (Ex × Nat)) : Ex × Nat :=
  let all := prev :: ps.map (·.1)
  let nv := ps.foldl (fun f p => f ||| p.2) 0
  let pos := all.contains (.inf false)
  let neg := all.contains (.inf true)
  let mixed := if pos && neg then fNV else 0
  if all.contains .nan || (pos && neg) then (.nan, nv ||| mixed)
  else if pos then (.inf false, nv)
  else if neg then (.inf true, nv)
  else ((ps.foldl (fun a p => (exAdd mode a p.1).1) prev), nv)

/-- One element of a floating-point step (R106, R158): the accumulator format, the operand formats, the previous value
and the two rows. -/
def stepElement (acc fa fb : Fmt) (mode : Nat) (flush : Bool) (prev : Nat) (a b : List Nat) : Nat × Nat :=
  let ps := List.zipWith (fun x y =>
    let (p, v) := exMul (unpack fa flush x) (unpack fb flush y)
    (p, v ||| nanFlag fa x ||| nanFlag fb y)) a b
  let (x, v) := exactSum mode (unpack acc false prev) ps
  let (n, w) := roundEx acc mode false false x
  (n, v ||| w ||| nanFlag acc prev)

/-- One element of an INT8 step (R95). -/
def stepInt (prev : Nat) (a b : List Nat) : Nat × Nat :=
  let v := (List.zipWith (fun x y => toSigned 8 x * toSigned 8 y) a b).foldl (· + ·) (toSigned 36 prev)
  if v < -(2 ^ 35 : Int) then (2 ^ 35, fSAT)
  else if (2 ^ 35 : Int) ≤ v then (2 ^ 35 - 1, fSAT)
  else (wrap 36 v, 0)

/-- A whole step (R158): the tile's bytes after it, and its flags. -/
def stepTile (smode mode : Nat) (flush : Bool) (tile : List Byte) (a b : Panel) : List Byte × Nat :=
  let m := tileRows smode
  let w := if smode = 7 then 72 else 36
  let (ta, tb) := modeTypes smode
  let as := a.map (rowElements ta)
  let bs := b.map (rowElements tb)
  let prev := splitLanes w (m * m) (natOfBytes tile)
  let cell := fun (c : Nat × List Nat × List Nat) =>
    if smode = 6 then stepInt c.1 c.2.1 c.2.2
    else stepElement (if smode = 7 then w72 else a36) (fmtOfType ta) (fmtOfType tb) mode flush c.1 c.2.1 c.2.2
  let res := (prev.zip (as.flatMap fun x => bs.map fun y => (x, y))).map cell
  (bytesOfNat (tileBytes smode) (joinLanes w (res.map (·.1))), res.foldl (fun f r => f ||| r.2) 0)

/-! ## Operand descriptors (R159 to R162, Table 8.2) -/

structure Desc where
  sq   : Bool
  q    : Nat
  iv   : Nat
  nsm1 : Nat
  str  : Nat
  off  : Nat
  rest : Bool
  deriving DecidableEq, Repr, Inhabited

/-- A descriptor's fields; `rest` where its reserved bits are zero. -/
def descOf (w : Word) : Desc :=
  let n := w.toNat
  ⟨bit n 63, bitsOf n 60 3, bitsOf n 54 6, bitsOf n 46 8, bitsOf n 16 11, bitsOf n 0 11, bitsOf n 27 19 == 0 && bitsOf n 11 5 == 0⟩

/-- The checks of R159 on an A descriptor. -/
def descAOk (s : State) (d : Desc) (idx : Bool) : Bool :=
  d.rest && (idx || d.iv == 0) && d.nsm1 == 0 && (!idx || d.iv < s.ctx.vcount)
    && (!d.sq || (d.off == 0 && d.str == 0 && !idx))

/-- The checks of R159 on a B descriptor. -/
def descBOk (d : Desc) : Bool := d.rest && d.iv == 0 && (!d.sq || (d.off == 0 && d.str == 0))

/-- Whether a stream can serve as an operand (R212). -/
def streamReadable (s : State) (d : Desc) : Bool := !d.sq || ((s.q d.q).isOpen && (s.q d.q).dir == 0)

/-- First bytes of the segments of a step in the pool (R160). -/
def segments (d : Desc) (rows : List Nat) (step : Nat) : List Nat :=
  rows.map fun r => 64 * d.off + 64 * d.str * r + 64 * step

/-- The first segment that leaves the pool or touches the accumulator region (R162). -/
def badSegment (s : State) (segs : List Nat) : Option Nat :=
  segs.find? fun o => Config.poolBytes < o + 64 || (s.ctx.accBase < o + 64 && o < s.ctx.accBase + 4608 * s.ctx.acc)

/-- A panel for a step: its rows, the `tvalue` of its first poisoned granule, the first address that cannot be reached, the
state with its stream advanced and the charges. -/
structure PanelRead where
  rows   : Panel
  low    : Option Word
  uncorr : Option Word
  after  : State
  moved  : List Moved

/-- The lowest poisoned granule of the first row of 64 bytes that has one. -/
def rowPoison (hits : Hits) : Option Word :=
  ((lowest (hits.filter (·.1 < 64))).orElse fun _ => lowest hits).map fun a => BitVec.ofNat 64 a

/-- Reads of a stream, one after another (R161): poison, that of a fibre list too, and what cannot be reached are told to
the step, which looks at all poison first (R169). -/
def streamPanel (q : Nat) : Nat → State → Res PanelRead
  | 0, s => .ok ⟨[], none, none, s, []⟩
  | n + 1, s =>
    match streamRead s (s.q q) with
    | .ok d => do
      let p ← streamPanel q n (s.setQ q d.after)
      .ok ⟨chunks 64 2 d.bytes ++ p.rows, (rowPoison d.hits).orElse fun _ => p.low, p.uncorr, p.after, d.moved ++ p.moved⟩
    | .error (.trap .poisonUse v) => .ok ⟨[], some v, none, s, []⟩
    | .error (.trap .memUncorr v) => do
      let p ← streamPanel q n (s.setQ q (s.q q).next)
      .ok { p with uncorr := some v }
    | .error e => .error e

/-- The first poisoned granule of pool segments. -/
def segmentPoison (s : State) (segs : List Nat) : Option Word :=
  (segs.findSome? fun o => (poolPoison s o 64).head?).map fun o => BitVec.ofNat 64 o

/-- The panel of a step from its descriptor (R160, R161). -/
def readPanel (s : State) (d : Desc) (m : Nat) (segs : List Nat) : Res PanelRead :=
  if d.sq then streamPanel d.q (m / 2) s
  else .ok ⟨segs.map fun o => poolRead s o 64, segmentPoison s segs, none, s, []⟩

/-- The latched panel of `m` rows (R163). -/
def latchRows (c : Ctx) (m : Nat) : Panel := chunks 64 m ((bytesOfNat 2048 c.latch.toNat).take (64 * m))

/-- `tvalue` of the first poisoned granule of the latch (R169). -/
def latchPoison (c : Ctx) (m : Nat) : Option Word :=
  ((List.range (2 * m)).find? fun g => bit c.latchBad.toNat g).map fun g => BitVec.ofNat 64 (2 ^ 32 + 32 * g)

/-! ## The status word (R172, Table 8.5) -/

namespace Ctx

def mField (c : Ctx) (lo len : Nat) : Nat := bitsOf c.mstat.toNat lo len
def setM (c : Ctx) (lo len v : Nat) : Ctx := { c with mstat := BitVec.ofNat 64 (setBits c.mstat.toNat lo len v) }
def pend (c : Ctx) : Bool := bit c.mstat.toNat 63
def lv (c : Ctx) : Bool := bit c.mstat.toNat 16

/-- PEND, MPC, DONE, PFL, RMODE and RFLUSH cleared (R170). -/
def clearRun (c : Ctx) : Ctx := ((((c.setM 63 1 0).setM 48 9 0).setM 32 16 0).setM 24 4 0).setM 18 6 0

end Ctx

/-- What R170 clears before a MAT form other than `mma` and `mstat`. -/
def dropRun (s : State) : State := s.setCtx s.ctx.clearRun

/-! ## `mma` (R169) -/

/-- Where the FORMAT 7 check of R161 puts `tvalue`: the stream's current address. -/
def streamAddress (s : State) (q : StreamReg) : Res Word := do
  let walk := fun (q : StreamReg) => if q.base.format = 7 ∧ 4 ≤ q.base.blog then blockOffset s.ctx.level q q.pos
    else walkOffset q q.pos (if q.base.format = 7 then 1 else 0)
  let (off, _, _) ← walkStream s walk walkRounds q []
  .ok (q.at' off)

/-- A CF8 stream in an operand must have blocks of 32 elements or more (R161). -/
def codedOk (s : State) (d : Desc) : Res Unit :=
  let q := s.q d.q
  if d.sq ∧ q.base.format = 7 ∧ q.base.blog < 5 then do
    let a ← streamAddress s q
    trap .formatNotAddressable a
  else .ok ()

/-- The run of an `mma` retires: its flags go to `fflags` (R169). -/
def retireRun (s : State) : State :=
  let f := s.ctx.mField 18 6
  let s := setFlags s f
  let s := s.setCtx ((s.ctx.setM 63 1 0).setM 18 6 0)
  (s.setMe { s.me with hold := .none, rows := [], rowsBad := none }).advance

/-- `mma` (R159, R161, R163, R169): the run starts or resumes; its steps are events of the unit (log 28). -/
def execMma (a b : BitVec 5) (c : BitVec 4) (x : BitVec 1) (y : BitVec 2) (h : BitVec 1) (m : BitVec 3) (s : State) : Out :=
  conclude s do
    let i : Instr := .mma a b c x y h m
    let da := descOf (s.x a.toNat)
    let db := descOf (s.x b.toNat)
    let idx := x == 1
    legal i (c.toNat < s.ctx.acc)
    legal i (descAOk s da idx && (if y = 2 then s.x b.toNat == 0 else descBOk db))
    legal i (!(y != 2 && da.sq && db.sq && da.q == db.q))
    legal i (streamReadable s da && (y == 2 || streamReadable s db))
    legal i (y != 2 || (s.ctx.lv && s.ctx.mField 60 3 == m.toNat))
    codedOk s da
    if y = 2 then .ok () else codedOk s db
    let t := s.ctx
    let resume := t.pend && t.mField 32 16 == t.pc
    let t := if resume then t
      else ((t.setM 48 9 0).setM 18 6 0).setM 24 4 (t.round.toNat % 16)
    let t := ((t.setM 63 1 1).setM 32 16 t.pc).setM 17 1 0
    let n := tileRows m.toNat
    let rows := if idx then (lanes 7 (vget s da.iv)).take n else List.range n
    let u := s.setMe { s.me with
      ctx := t, hold := .matrix, rows := rows
      rowsBad := if idx then (poolPoison s (128 * da.iv) (4 * n)).head? else none }
    if t.mField 48 9 < (if y = 2 then 1 else db.nsm1 + 1) then .ok u else .ok (retireRun u)

/-- A trap of a step that sets ERR (R169). -/
def stepTrap (s : State) (cause : Cause) (v : Word) : State :=
  let s := s.setMe { s.me with hold := .none, ctx := s.ctx.setM 17 1 1 }
  takeTrap s cause v

/-- One step of the pending run of the current core (R169). -/
def runStep (s : State) (a b : BitVec 5) (c : BitVec 4) (y : BitVec 2) (h : BitVec 1) (m : BitVec 3) : Res State := do
  let da := descOf (s.x a.toNat)
  let db := descOf (s.x b.toNat)
  let n := tileRows m.toNat
  let step := s.ctx.mField 48 9
  let sa := if da.sq then [] else segments da s.me.rows step
  let sb := if y = 2 ∨ db.sq then [] else segments db (List.range n) step
  match badSegment s (sa ++ sb) with
  | some o => trap .capBounds (BitVec.ofNat 64 o)
  | none =>
    let pa ← readPanel s da n sa
    let pb ← if y = 2 then .ok ⟨latchRows s.ctx n, latchPoison s.ctx n, none, pa.after, []⟩ else readPanel pa.after db n sb
    let base := slotBase s c.toNat h.toNat
    let len := tileBytes m.toNat
    let low : Option Word :=
      [s.me.rowsBad.map fun o => BitVec.ofNat 64 o, pa.low, pb.low, ((poolPoison s base len).head?.map fun o => BitVec.ofNat 64 o)].findSome? id
    match low, pa.uncorr.orElse fun _ => pb.uncorr with
    | some v, _ => .ok (stepTrap s .poisonUse v)
    | none, some v => .ok (stepTrap s .memUncorr v)
    | none, none =>
      let (tile, fl) := stepTile m.toNat (s.ctx.mField 24 3) (bit s.ctx.mstat.toNat 27) (poolRead s base len) pa.rows pb.rows
      let u := poolWrite pb.after base tile []
      let t := (u.ctx.setM 18 6 (u.ctx.mField 18 6 ||| fl)).setM 48 9 (step + 1)
      let t := if y = 1 then
          { ((t.setM 16 1 1).setM 60 3 m.toNat) with
            latch := BitVec.ofNat 16384 (natOfBytes pb.rows.flatten), latchBad := 0 }
        else t
      let u := u.setMe { u.me with ctx := t, rowsBad := none }
      let u ← issueAll s u (pa.moved ++ pb.moved)
      if step + 1 < (if y = 2 then 1 else db.nsm1 + 1) then .ok u else .ok (retireRun u)

/-- `MMA_STEP_COMPLETE`: one step of the run of a core (R169). A step that cannot go on leaves the run pending. -/
def execMmaStepComplete (c : CoreId) (s : State) : Out :=
  let s := { s with cur := c }
  if s.me.run != .running || s.me.hold != .matrix then .next s
  else match decodeBytes (s.codeBytes s.ctx.pc) with
    | .ok (.mma a b t _ y h m, _) =>
      match runStep s a b t y h m with
      | .error (.hold u) => .next (u.setCtx { u.ctx with streams := s.ctx.streams })
      | r => conclude (s.setMe { s.me with hold := .none }) r
    | _ => .next s

/-! ## The other forms -/

/-- `mzero` (R168). -/
def execMzero (c : BitVec 4) (h : BitVec 2) (s : State) : Out :=
  conclude s do
    legal (.mzero c h) (c.toNat < s.ctx.acc)
    let base := slotBase s c.toNat (if h = 3 then 1 else 0)
    let u := dropRun s
    .ok { u with mem := u.mem.clear (poolAddr s.cur base) (if h = 0 then 4608 else 2304) }.advance

/-- The pending run of the code that a handler left is abandoned: in the steward frame, from which `tret` reloads MSTAT, or in
the context area (R170; log 8). -/
def abandonRun (s : State) : State :=
  match s.ctx.level with
  | .user => s
  | .supervisor =>
    let a := frameAddr s + 856
    let t := { s.ctx with mstat := BitVec.ofNat 64 (s.mem.readNat a 8) }
    { s with mem := s.mem.writeNat a 8 (t.clearRun.setM 17 1 0).mstat.toNat }
  | .machine => s.setMe { s.me with saved := s.me.saved.map fun t => t.clearRun.setM 17 1 0 }

/-- `mstat` (R168, R170). -/
def execMstat (a : BitVec 5) (c : BitVec 1) (s : State) : Out :=
  let v := s.ctx.mstat
  let u := if c = 1 then abandonRun (s.setCtx (s.ctx.clearRun.setM 17 1 0)) else s
  .next (u.retire a.toNat v)

/-- Row geometry of a view: bits of an element, elements of a row, TYPE of its lanes (Tables 8.4). -/
def viewOf (v : Nat) : Nat × Nat × Nat :=
  match v with
  | 1 => (72, 16, 0)
  | 2 => (36, 32, 7)
  | _ => (36, 32, 1)

/-- An element of a tile read as a lane (R166). -/
def fromTile (s : State) (v n : Nat) : Nat × Nat :=
  match v with
  | 2 =>
    let i := toSigned 36 n
    if i < intMin 7 then (2 ^ 31, fSAT) else if intMax 7 < i then (2 ^ 31 - 1, fSAT) else (wrap 32 i, 0)
  | v =>
    let (f, g) := if v = 1 then (w72, fp64) else (a36, fp32)
    let (r, w) := roundEx g s.ctx.mode s.ctx.flush false (unpack f false n)
    (r, w ||| nanFlag f n)

/-- A lane written as an element of a tile (R166). -/
def toTile (s : State) (v n : Nat) : Nat × Nat :=
  match v with
  | 2 => (wrap 36 (toSigned 32 n), 0)
  | v =>
    let (f, g) := if v = 1 then (fp64, w72) else (fp32, a36)
    let (r, w) := roundEx g s.ctx.mode false false (unpack f s.ctx.flush n)
    (r, w ||| nanFlag f n)

/-- The elements of 144 bytes of a row, each with whether its source bytes touch a poisoned granule. -/
def rowOf' (s : State) (v off : Nat) : List (Nat × Bool) :=
  let (w, n, _) := viewOf v
  let gs := poolPoison s off 144
  ((List.range n).zip (splitLanes w n (natOfBytes (poolRead s off 144)))).map fun (i, e) =>
    let lo := off + w * i / 8
    let hi := off + (w * i + w - 1) / 8
    (e, gs.any fun g => g ≤ hi && lo < g + 32)

/-- Pool granules that bad elements of a row of 144 bytes at an offset land in. -/
def rowGranules (v off : Nat) (bad : List Bool) : List Nat :=
  let (w, _, _) := viewOf v
  (List.range bad.length).flatMap fun i =>
    if bad.getD i false then
      (blocksOf 32 (off + w * i / 8) ((w * i + w - 1) / 8 - w * i / 8 + 1)).map (32 * ·) else []

/-- Row offset that a selector names (R165). -/
def rowSelect (s : State) (c v : Nat) (x : Word) : Nat :=
  if v = 1 then slotBase s c (bitsOf x.toNat 4 1) + 144 * bitsOf x.toNat 0 4
  else slotBase s c 0 + 144 * bitsOf x.toNat 0 5

/-- `mrd` (R165, R166). -/
def execMrd (a : BitVec 5) (c : BitVec 4) (v : BitVec 2) (d : BitVec 6) (s : State) : Out :=
  conclude s do
    legal (.mrd a c v d) (c.toNat < s.ctx.acc && d.toNat < s.ctx.vcount)
    let (_, _, t) := viewOf v.toNat
    let row := rowOf' s v.toNat (rowSelect s c.toNat v.toNat (s.x a.toNat))
    let (w, fl) := packLanes t (row.map fun e => fromTile s v.toNat e.1)
    let u := vset (dropRun s) d.toNat w (laneGranules d.toNat (widthOf t / 8) (row.map (·.2)))
    .ok (setFlags u fl).advance

/-- A row of a tile made from lanes, each with its poison: its 144 bytes, the pool granules that become poisoned, and the
flags. -/
def makeRow (s : State) (v off : Nat) (ls : List Nat) (bad : List Bool) : List Byte × List Nat × Nat :=
  let (w, _, _) := viewOf v
  let res := ls.map (toTile s v)
  (bytesOfNat 144 (joinLanes w (res.map (·.1))), rowGranules v off bad, res.foldl (fun f r => f ||| r.2) 0)

/-- Whether each lane of 128 bytes has a poisoned byte. -/
def laneBad (t : Nat) (bad : List Bool) : List Bool :=
  (List.range (lanesOf t)).map fun i => ((bad.drop (widthOf t / 8 * i)).take (widthOf t / 8)).any id

/-- `mwr` (R165, R166). -/
def execMwr (a : BitVec 5) (c : BitVec 4) (v : BitVec 2) (d : BitVec 6) (s : State) : Out :=
  conclude s do
    legal (.mwr a c v d) (c.toNat < s.ctx.acc && d.toNat < s.ctx.vcount)
    let (_, _, t) := viewOf v.toNat
    let off := rowSelect s c.toNat v.toNat (s.x a.toNat)
    let (bs, gs, fl) := makeRow s v.toNat off (lanes t (vget s d.toNat)) (laneBad t (vectorBad s d.toNat))
    .ok (setFlags (poolWrite (dropRun s) off bs gs) fl).advance

/-- The checks of one access of `mld` or `mst` (R167), and its place: any FORMAT but 0 is FORMAT_NOT_ADDRESSABLE. -/
def tileAccess (s : State) (key : Cap) (a : Word) (n need : Nat) (kind : Access) : Res (List Loc) := do
  capCheck s.ctx.level key a n need
  guardTrap (key.space ≤ 2) .capPerm a
  guardTrap (key.format == 0) .formatNotAddressable a
  guardTrap (blogOk key.format key.blog) .formatReserved a
  locate s key.space a n kind

/-- The view of a row format FMT. -/
def viewOfFmt (f : Nat) : Nat := f - 1

/-- Rows of a tile in memory: the address of each (R167). -/
def rowAddrs (s : State) (key : Cap) (a b : BitVec 5) (n : Nat) : List Word :=
  let a0 := effAddr key (s.x a.toNat) 1 0
  (List.range n).map fun r =>
    BitVec.ofNat 64 (a0.toNat / 2 ^ 56 * 2 ^ 56 + (a0.toNat % 2 ^ 56 + r * (s.x b.toNat).toNat) % 2 ^ 56)

/-- The half that HSEL names. -/
def halfOf (h : BitVec 2) : Nat := if h = 3 then 1 else 0

/-- Offsets of the tags that a raw copy between memory and a slot carries: those of whole granules on both sides (R166). -/
def rawTags (l : List Nat) : List Nat := l.filter (· % 16 == 0)

/-- `mld` (R165 to R167). -/
def execMld (a b : BitVec 5) (c : BitVec 4) (h f : BitVec 2) (k : BitVec 4) (s : State) : Out :=
  conclude s do
    legal (.mld a b c h f k) (c.toNat < s.ctx.acc)
    let key := s.k k.toNat
    let base := slotBase s c.toNat (halfOf h)
    if f = 0 then
      let n := if h = 0 then 4608 else 2304
      let p := effAddr key (s.x a.toNat) 1 0
      let ls ← tileAccess s key p n permLoad .load
      readable s ls p
      let u := poolWrite (dropRun s) base (readLocs s ls) ((badGranules base (badBytes s ls)).map (32 * ·))
      let u := { u with mem := u.mem.setTags ((rawTags (tagsOf s.mem ls)).map fun o => (poolAddr s.cur base + o) / 16) }
      issueAll s u.advance [movedTo key.space n ls]
    else
      let v := viewOfFmt f.toNat
      let (_, _, t) := viewOf v
      let rows := if v = 1 then 16 else 32
      let as := rowAddrs s key a b rows
      let places ← as.mapM fun p => tileAccess s key p 128 permLoad .load
      let _ ← (as.zip places).mapM fun p => readable s p.2 p.1
      let made := ((List.range rows).zip places).map fun p =>
        makeRow s v (base + 144 * p.1) (lanes t (natOfBytes (readLocs s p.2))) (laneBad t (badBytes s p.2))
      let u := poolWrite (dropRun s) base (made.flatMap (·.1)) (made.flatMap (·.2.1))
      issueAll s (setFlags u (made.foldl (fun f r => f ||| r.2.2) 0)).advance [movedTo key.space (128 * rows) places.flatten]

/-- `mst` (R165 to R167). -/
def execMst (a b : BitVec 5) (c : BitVec 4) (h f : BitVec 2) (k : BitVec 4) (s : State) : Out :=
  conclude s do
    legal (.mst a b c h f k) (c.toNat < s.ctx.acc)
    let key := s.k k.toNat
    let base := slotBase s c.toNat (halfOf h)
    if f = 0 then
      let n := if h = 0 then 4608 else 2304
      let p := effAddr key (s.x a.toNat) 1 0
      let ls ← tileAccess s key p n permStore .store
      let gs := poolPoison s base n
      let bad := (List.range n).map fun i => gs.contains ((base + i) / 32 * 32)
      let tags := if p.toNat % 16 = 0 then rawTags (tagsOf s.mem [poolLoc s.cur s.cur base n]) else []
      issueAll s (coreStore (dropRun s) ls (poolRead s base n) bad tags).advance [movedTo key.space n ls]
    else
      let v := viewOfFmt f.toNat
      let (_, _, t) := viewOf v
      let rows := if v = 1 then 16 else 32
      let as := rowAddrs s key a b rows
      let places ← as.mapM fun p => tileAccess s key p 128 permStore .store
      let (u, fl) := ((List.range rows).zip places).foldl (fun (st : State × Nat) p =>
        let row := rowOf' s v (base + 144 * p.1)
        let res := row.map fun e => fromTile s v e.1
        let bs := bytesOfNat 128 (joinLanes (widthOf t) (res.map (·.1)))
        let bad := row.flatMap fun e => List.replicate (widthOf t / 8) e.2
        (coreStore st.1 p.2 bs bad [], st.2 ||| res.foldl (fun g r => g ||| r.2) 0)) (dropRun s, 0)
      issueAll s (setFlags u fl).advance [movedTo key.space (128 * rows) places.flatten]

/-! ## Remote steps (R173 to R176) -/

/-- The target of a command: a core of the sender's SG (Table 8.6). -/
def cmdTarget (m : MatrixCmd) : CoreId := ⟨m.sender.sgn, bitsOf m.word.toNat 56 8⟩

/-- Whether what arrives for record x at a core waits in its spill ring, because its reaction is pre-empted there (R176, R335). -/
def Core.spillsFor (k : Core) (x : Nat) : Bool := k.evicted.any (·.x == x) || (k.rx == some x && k.preempted)

/-- A command reaches its target: the spill ring takes it while its reaction is pre-empted there (R176, R335), unless that aborts,
which waits for its commands (R191); else the queue of the unit, 8 deep (R174); nothing while there is no room. -/
def takeCmd (s : State) (m : MatrixCmd) : Option State :=
  let c := cmdTarget m
  let k := s.core c
  if k.spillsFor m.x && !(s.reaction c.sgn m.x).any (·.aborting) then ringPut s c m.x (.cmd m)
  else if k.cmdsFull then none
  else some (s.setCore c { k with cmds := k.cmds ++ [m] })

/-- `mxsend` (R173, R174): it holds while the matrix busy flag of its core is set (R28), and while the queue of its target is full,
where no rule says whether the sender's network interface might take it (DESIGN CHOICE, log 67): that holds a command only for a
full spill ring (R335). -/
def execMxsend (a b : BitVec 5) (k : BitVec 4) (s : State) : Out :=
  conclude s do
    let i : Instr := .mxsend a b k
    let w := (s.x a.toNat).toNat
    let mode := bitsOf w 45 3
    let d := descOf (s.x b.toNat)
    legal i (bitsOf w 48 4 == 0 && bitsOf w 0 40 == 0 && (mode == 7 || !bit w 44))
    legal i (descAOk s d false && !d.sq)
    let n := tileRows mode
    let segs := segments d (List.range n) 0
    match badSegment s segs with
    | some o => trap .capBounds (BitVec.ofNat 64 o)
    | none =>
      let at' : Word := BitVec.ofNat 64 (bitsOf w 56 8 * 2 ^ 17 + slotBase s (bitsOf w 52 4) (bitsOf w 44 1))
      let key := s.k k.toNat
      capCheck s.ctx.level key at' (tileBytes mode) (permStore + permRemote)
      guardTrap (key.space == 1) .capPerm at'
      let _ ← locate s 1 at' (tileBytes mode) .store
      match segmentPoison s segs with
      | some p => trap .poisonUse p
      | none =>
        let t := s.core ⟨s.cur.sgn, bitsOf w 56 8⟩
        if matrixBusy s s.cur || (t.cmdsFull && !t.spillsFor (s.me.rx.getD 0)) then .error (.hold s)
        else
          let (me, num) := if bit w 43 then issueNum s.me (bitsOf w 40 3) else (s.me, 0)
          let u := dropRun (s.setMe me)
          let cmd : MatrixCmd :=
            { word := s.x a.toNat, panel := BitVec.ofNat 16384 (natOfBytes (segs.flatMap fun o => poolRead s o 64))
              mode := s.ctx.mode, flush := s.ctx.flush, sender := s.cur, x := s.me.rx.getD 0
              gen := (s.myReaction.map (·.gen)).getD 0, vif := s.myVif.getD 0, num := num.toNat }
          .ok ((takeCmd u cmd).getD (u.setMe { u.me with cmdOut := some cmd })).advance

/-- Whether a command waits while a handler has the target from its reaction (R171; log 28). -/
def cmdWaits (s : State) (c : CoreId) (m : MatrixCmd) : Bool :=
  let k := s.core c
  k.rx == some m.x && k.ctx.level != .user && !((s.reaction c.sgn m.x).map (·.aborting)).getD false

/-- Whether the target refuses a command (R175). Of a command in mode 7, whose step takes half a slot, only the half that it names is
asked about poison: whether the other counts as well, R175 does not say (DESIGN CHOICE, log 78). -/
def cmdRefused (s : State) (c : CoreId) (m : MatrixCmd) : Bool :=
  let k := s.core c
  let t := { s with cur := c }
  let mode := bitsOf m.word.toNat 45 3
  let slot := bitsOf m.word.toNat 52 4
  let base := slotBase t slot (bitsOf m.word.toNat 44 1)
  !(k.rx == some m.x && ((s.reaction c.sgn m.x).map (·.gen)) == some m.gen)
    || k.ctx.acc ≤ slot || !k.ctx.lv || k.ctx.mField 60 3 != mode
    || (latchPoison k.ctx (tileRows mode)).isSome || !(poolPoison t base (tileBytes mode)).isEmpty

/-- A command is refused by its target, or applied as one step (R174, R175). -/
def applyCmd (s : State) (m : MatrixCmd) : State :=
  let c := cmdTarget m
  if cmdRefused s c m then refuseCmd s m
  else
    let t := { s with cur := c }
    let mode := bitsOf m.word.toNat 45 3
    let base := slotBase t (bitsOf m.word.toNat 52 4) (bitsOf m.word.toNat 44 1)
    let n := tileRows mode
    let panel := chunks 64 n ((bytesOfNat 2048 m.panel.toNat).take (64 * n))
    let (tile, fl) := stepTile mode m.mode m.flush (poolRead t base (tileBytes mode)) panel (latchRows t.ctx n)
    let u := setFlags (poolWrite t base tile []) fl
    let u := u.setCtx (u.ctx.setM 0 16 (u.ctx.mField 0 16 + 1))
    settleCmd { u with cur := s.cur } m

/-- `REMOTE_STEP_APPLY`: the unit of a core applies or refuses the oldest command that may go (R174, R175). -/
def execRemoteStepApply (c : CoreId) (s : State) : Out :=
  let k := s.core c
  match k.cmds.findIdx? (!cmdWaits s c ·) with
  | none => .next s
  | some n => match k.cmds[n]? with
    | none => .next s
    | some m => .next (applyCmd (s.setCore c { k with cmds := k.cmds.eraseIdx n }) m)

/-- Commands that the network interfaces of cores hold reach their targets when those have room (R174). -/
def settleCmdOut (s : State) : State :=
  (s.cores.filter (·.2.cmdOut.isSome)).foldl (fun s c =>
    let k := s.core c.1
    match k.cmdOut with
    | none => s
    | some m => (takeCmd (s.setCore c.1 { k with cmdOut := none }) m).getD s) s

end Sys2Proof.Machine
end

