-- ==== Sys2Proof/Machine/Ring.lean ====
section
/-! DEFINITION. What a spill ring gives back: transfers that land, and the delivery of a ring (R282, R283, R335, R339). -/

namespace Sys2Proof.Machine

/-- The core that a transfer is bound for, and its offset, channel and length there (Table 12.3). -/
def Transfer.target (t : Transfer) : CoreId := ⟨bitsOf t.word.toNat 56 5, bitsOf t.word.toNat 48 8⟩
def Transfer.offset (t : Transfer) : Nat := 64 * bitsOf t.word.toNat 36 12
def Transfer.chan (t : Transfer) : Nat := bitsOf t.word.toNat 28 8
def Transfer.len (t : Transfer) : Nat := 64 * bitsOf t.word.toNat 16 12

/-- A member that waits in `xsel` for a channel that has received its transfer retires (R283). -/
def settleXsel (s : State) (c : CoreId) (chan len : Nat) : State :=
  let t := { s with cur := c }
  match instrAt t with
  | some (.xsel d a) =>
    if t.me.hold = .xsel ∧ (t.x a.toNat).toNat = chan then
      { (t.setMe { t.me with hold := .none }).retire d.toNat (BitVec.ofNat 64 len) with cur := s.cur }
    else s
  | _ => s

/-- The scratch of a transfer's destination begins here: by the split of the reaction that its core runs, or of the rule that it
serves. -/
def Transfer.scratch (s : State) (t : Transfer) : Nat :=
  let k := s.core t.target
  let rule := (s.launch t.vif t.lid).bind fun l =>
    (l.stages.find? fun g => g.sgn == t.target.sgn && g.cores.contains t.target.idx).bind fun g => l.image.rules[g.rule]?
  match k.rx, rule with
  | none, some r => ({ k.ctx with partition := partitionWord r.vregs r.acc } : Ctx).scratch
  | _, _ => k.ctx.scratch

/-- Whether the destination of a transfer refuses it: the range leaves its scratch, or the channel has received one in this phase
(R282). -/
def xferRefused (s : State) (t : Transfer) : Bool :=
  let k := s.core t.target
  t.offset < t.scratch s || Config.poolBytes < t.offset + t.len || k.chans.any (·.1 == t.chan)

/-- A transfer lands in the pool of its destination, or is refused, or meets a dead link (R181, R282). -/
def landTransfer (s : State) (t : Transfer) : State :=
  let c := t.target
  if linkDown s (.sg c.sgn) then recordFor s t.sender t.x t.gen 5 0
  else if xferRefused s t then recordFor s t.sender t.x t.gen 5 1
  else
    let a := poolAddr c t.offset
    let bad := badGranules a ((List.range t.len).map t.poison.contains)
    let k := s.core c
    let u := ({ s with mem := s.mem.write a t.bytes bad } : State).setCore c { k with chans := k.chans ++ [(t.chan, t.len)] }
    let u := if bad.isEmpty then u else recordFor u t.sender t.x t.gen 5 2
    settleXsel u c t.chan t.len

/-- One item of a spill ring is delivered. A message whose queue is still full goes back to the ring (R339), and so does a command
while a handler has the core from its reaction (R176; log 28). -/
def deliverItem (s : State) : RingItem → State
  | .mail m => match deliver s m with
    | .settled t n => reply t m n
    | .spills t x => spillMail s t m x
  | .cmd m =>
    let c := cmdTarget m
    if cmdWaits s c m then
      let k := s.core c
      s.setCore c { k with ring := k.ring ++ [⟨m.x, .cmd m⟩] }
    else applyCmd s m
  | .xfer t => landTransfer s t

/-- What the spill ring of a core holds for a reaction is delivered in arrival order (R335, R339). -/
def deliverRing (s : State) (c : CoreId) (x : Nat) : State :=
  let k := s.core c
  (k.ring.filter (·.x == x)).foldl (fun s e => deliverItem s e.item) (s.setCore c { k with ring := k.ring.filter (·.x != x) })

end Sys2Proof.Machine
end

