-- ==== Sys2Proof/Machine/Sched.lean ====
section
/-! DEFINITION. What a free core takes, overlay loads, pre-emption, eviction and restore (R45 to R48, R63, R64, R233 to R237,
R254, R291, R329 to R335, R344). -/

namespace Sys2Proof.Machine

/-! ## Whose core, whose pool (R45, R233, R256, R291) -/

/-- Whether an SG takes part: it is enabled, and its partition is not being tested (R344). -/
def sgWorks (s : State) (g : Nat) : Bool := sgEnabled s g && !linkDown s (.sg g)

/-- Whether a core is free for work. -/
def coreFree (s : State) (c : CoreId) : Bool :=
  let k := s.core c
  c.idx < 256 && sgWorks s c.sgn && k.run == .idle && k.hold == .none && k.rx.isNone

/-- Whether an address lies in the pool of a core. -/
def inPoolOf (c : CoreId) (a : Nat) : Bool := poolAddr c 0 ≤ a && a < poolAddr c 0 + 2 ^ 17

/-- Whether an operation reads or writes the pool of a core of its SG (R331). -/
def opTouches (o : EngineOp) (c : CoreId) : Bool :=
  o.core.sgn == c.sgn && ((o.core.idx == c.idx && (bit o.ctl.toNat 4 || (capOffsets o.op).any fun f =>
      (o.cap f).tag && (o.cap f).space == 0))
    || (capOffsets o.op).any fun f => (o.cap f).tag && (o.cap f).space == 1 && bitsOf (o.cap f).va 17 8 == c.idx)

/-- Whether every access to a pool that has been accepted has been performed, but for some operations (R291, R331). -/
def poolQuietBut (s : State) (c : CoreId) (but : EngineOp → Bool) : Bool :=
  !(s.stores.any fun f => inPoolOf c f.addr) && !(s.ops.any fun o => opTouches o c && !but o)

/-- Whether every access to a pool that has been accepted has been performed (R291). -/
def poolQuiet (s : State) (c : CoreId) : Bool := poolQuietBut s c fun _ => false

/-! ## Tiles and their VIF (R64) -/

/-- The cores of a tile. -/
def tileCores (g t : Nat) : List CoreId := (List.range 4).map fun i => ⟨g, 4 * t + i⟩

/-- Whether a tile is another VIF's: the slots of a tile are those of the VIF that it passed to last, or that loaded it first. -/
def tileForeign (s : State) (g t v : Nat) : Bool := s.slots.any fun k => k.sgn == g && k.tile == t && k.vif != v

/-- Whether a core of a tile could take a reaction of a VIF with its pool: that is the VIF's, or it is quiet and passes (R291). -/
def poolOpen (s : State) (c : CoreId) (v : Nat) : Bool := (s.core c).owner == some v || poolQuiet s c

/-- Whether a tile has drained: no core of it has a reaction or runs, and its pools are quiet (R64, R291). -/
def tileDrained (s : State) (g t : Nat) : Bool :=
  (tileCores g t).all fun c => (s.core c).rx.isNone && (s.core c).run != .running && (s.core c).hold == .none && poolQuiet s c

/-- Whether a tile is that of a VIF, or may pass to it now. -/
def tileOpen (s : State) (g t v : Nat) : Bool := !tileForeign s g t v || tileDrained s g t

/-- The stage that a core serves: its launch and its rule (R256). -/
def stageOf (s : State) (c : CoreId) : Option (Launch × Stage) :=
  (s.launches.filter (·.state != .ended)).findSome? fun l =>
    (l.stages.find? fun t => t.sgn == c.sgn && t.cores.contains c.idx).map fun t => (l, t)

/-- Whether the stages let a core run a reaction: a stage core serves its stage, and the reaction with sequence number s
runs on stage core s mod SC (R256, R258). -/
def stageAllows (s : State) (c : CoreId) (r : Reaction) (l : Launch) : Bool :=
  match stageOf s c with
  | some (k, t) => k.vif == r.vif && k.lid == r.lid && t.rule == r.rule
      && t.cores[((r.reactants.head?.map fun q => seqOf q.hdr).getD 0) % max 1 t.cores.length]? == some c.idx
  | none => !l.channelled

/-- Whether a tile has the overlay of a reaction, or can load it (R63), its slots emptied where it passes to the reaction's
VIF (R64). -/
def tileTakes (s : State) (g t : Nat) (r : Reaction) : Bool :=
  match ruleOf s r with
  | some rule => tileForeign s g t r.vif || (slotHolding s g t r.vif r.lid rule.ovl).isSome || (slotToLoad s g t).isSome
  | none => false

/-- First core and size of the aligned block of a reaction's shape that holds a core (R45). -/
def blockAt (r : Reaction) (c : Nat) : Nat × Nat :=
  let size := crewSize r.shape
  (c / size * size, size)

/-- Cores and tiles of a block. -/
def blockCores (b : Nat × Nat) : List Nat := (List.range b.2).map (b.1 + ·)
def blockTiles (b : Nat × Nat) : List Nat := (List.range ((b.2 + 3) / 4)).map (b.1 / 4 + ·)

/-- Whether the cores and tiles of the block that holds a core could take a reaction of its SG (R233). -/
def blockTakes (s : State) (c : CoreId) (r : Reaction) : Bool :=
  match s.launch r.vif r.lid with
  | none => false
  | some l =>
    let b := blockAt r c.idx
    weirOpen s r.vif 0 && ((blockCores b).all fun i =>
        coreFree s ⟨c.sgn, i⟩ && bit (l.mask.getD c.sgn 0) (tileIndex i) && stageAllows s ⟨c.sgn, i⟩ r l)
      && (blockTiles b).all fun t => tileTakes s c.sgn t r

/-! ## The choice (R234 to R237, Table 11.1) -/

/-- Whether the wait of a suspended reaction is for a counter of a core. -/
def waitsOn (r : Reaction) (c : Nat) : Bool := match r.wait with
  | .timeline _ k _ => k == c
  | _ => false

/-- Suspended reactions of an SG whose condition is met and which no core has taken. -/
def resumable (s : State) (g : Nat) : List Reaction :=
  (s.unit g).reactions.filter fun r => r.state == .suspended && r.ready.isSome && !onCore s g r.x

/-- The first evicted reaction of a core that can resume, among those that the scheduler's own work has let past, or among
the others (R237, R254). -/
def firstEvicted (s : State) (c : CoreId) (paused : Bool) : Option Evicted :=
  (s.core c).evicted.find? fun e => e.paused == paused && weirOpen s e.vif 0
    && ((s.reaction c.sgn e.x).map fun r => !r.aborting && tileTakes s c.sgn (tileIndex c.idx) r).getD false

/-- The first of a list by a number. -/
def firstBy (f : Reaction → Nat) (rs : List Reaction) : Option Reaction :=
  rs.foldl (fun b r => match b with
    | some k => if f r < f k then some r else b
    | none => some r) none

/-- Row 2 of Table 11.1 for a core. -/
def timelineWork (s : State) (c : CoreId) : Option Reaction :=
  firstBy (fun r => r.ready.getD 0) ((resumable s c.sgn).filter fun r => waitsOn r c.idx && blockTakes s c r)

/-- Whether a core has work of rows 1 or 2 of Table 11.1, which it takes before any other (R234, R237). -/
def ownFirst (s : State) (c : CoreId) : Bool :=
  (firstEvicted s c false).isSome || (firstEvicted s c true).isSome || (timelineWork s c).isSome

/-- Whether a core is eligible for a reaction of its SG (R233): a crew starts only where no member's core has work of its own that goes
before (R234). -/
def eligible (s : State) (c : CoreId) (r : Reaction) : Bool :=
  blockTakes s c r && (r.shape == 0 || (blockCores (blockAt r c.idx)).all fun i => !ownFirst s ⟨c.sgn, i⟩)

/-- MATCHED reactions of an SG that no core has taken. -/
def waiting (s : State) (g : Nat) : List Reaction :=
  (s.unit g).reactions.filter fun r => r.state == .matched && !onCore s g r.x

/-- The class of a reaction. -/
def classOf (s : State) (r : Reaction) : Nat := ((ruleOf s r).map (·.cls)).getD 3

/-- Whether a tile can take the overlay of a reaction in time: it is resident there, or a slot holds no pinned line (R236). -/
def tileWillTake (s : State) (g t : Nat) (r : Reaction) : Bool :=
  tileTakes s g t r || (List.range 2).any fun n => ((slotAt s g t n).map (·.pins.isEmpty)).getD true

/-- The oldest MATCHED reaction of the highest class of an SG where it is a crew that cannot start, with the first core of
the block that the SG reserves for it (R236). -/
def newReserve (s : State) (g : Nat) : Option (Nat × Nat) :=
  let ms := waiting s g
  let top := (ms.map (classOf s)).foldl min 3
  match firstBy (·.order) (ms.filter fun r => classOf s r == top) with
  | none => none
  | some r =>
    let size := crewSize r.shape
    let bases := (List.range (256 / size)).map (size * ·)
    if r.shape = 0 || bases.any fun b => eligible s ⟨g, b⟩ r then none
    else (s.launch r.vif r.lid).bind fun l =>
      (bases.find? fun b => blockPermitted l g b size && (blockTiles (b, size)).all fun t => tileWillTake s g t r).map (r.x, ·)

/-- Whether a reservation stands: its crew has not started, and no older reaction of an equal or higher class waits
(R236). -/
def reserveStands (s : State) (g : Nat) (p : Nat × Nat) : Bool :=
  match (waiting s g).find? (·.x == p.1) with
  | some r => !(waiting s g).any fun q => q.order < r.order && classOf s q ≤ classOf s r
  | none => false

/-- A unit's reservations: dropped, and made, as R236 says. -/
def settleReserve (s : State) (u : CUnit) : CUnit :=
  let kept := u.reserve.filter (reserveStands s u.sgn)
  { u with reserve := match newReserve s u.sgn with
    | some p => if kept.any (·.1 == p.1) then kept else kept ++ [p]
    | none => kept }

/-- Whether the reservations of an SG let a MATCHED reaction start on the block that holds a core: the cores of a reserved
block start nothing new of the same or a lower class (R236). -/
def unreserved (s : State) (g : Nat) (r : Reaction) (c : Nat) : Bool :=
  (s.unit g).reserve.all fun p => match (waiting s g).find? (·.x == p.1) with
    | none => true
    | some q => q.x == r.x || classOf s r < classOf s q
        || (blockCores (blockAt r c)).all fun i => i < p.2 || p.2 + crewSize q.shape ≤ i

/-- Rank of a VIF's remaining core-cycle budget: unlimited first (R235, R293). -/
def rankOf (s : State) (v : Nat) : Bool × Int :=
  match s.vif v with
  | some f => if f.p.budgets.getD 0 Config.unlimited = Config.unlimited then (true, 0) else (false, f.rem.getD 0 0)
  | none => (false, 0)

/-- Whether a VIF goes before another on a core (R235). -/
def before (s : State) (last : Option Nat) (a b : Nat) : Bool :=
  let ra := rankOf s a
  let rb := rankOf s b
  let turn : Nat → Nat := fun v => match last with
    | some n => (v + 255 - n) % 256
    | none => v
  if ra.1 != rb.1 then ra.1 else if ra.2 != rb.2 then decide (rb.2 < ra.2) else decide (turn a < turn b)

/-- Row 4 of Table 11.1: of the most urgent class, of the VIF that goes first, the reaction matched first. -/
def newWork (s : State) (c : CoreId) : Option Reaction :=
  let rs := (waiting s c.sgn).filter fun r => eligible s c r && unreserved s c.sgn r c.idx
  (List.range 4).findSome? fun k =>
    let ks := rs.filter fun r => classOf s r == k
    (ks.foldl (fun (b : Option Nat) r => match b with
      | some w => if before s (s.core c).lastVif r.vif w then some r.vif else b
      | none => some r.vif) none).bind fun w => firstBy (·.order) (ks.filter (·.vif == w))

/-- What a free core takes. -/
inductive Work where
  | back (e : Evicted)
  | start (r : Reaction)

/-- Row 3 of Table 11.1 for a core. -/
def memoryWork (s : State) (c : CoreId) : Option Reaction :=
  firstBy (fun r => r.ready.getD 0)
    ((resumable s c.sgn).filter fun r => (match r.wait with | .timeline .. => false | _ => true) && eligible s c r)

/-- The choice of Table 11.1. A reaction that was pre-empted for work of rows 1 or 2 comes after that work (R254). -/
def chooseWork (s : State) (c : CoreId) : Option Work :=
  match firstEvicted s c false with
  | some e => some (.back e)
  | none => match timelineWork s c with
    | some r => some (.start r)
    | none => match firstEvicted s c true with
      | some e => some (.back e)
      | none => match memoryWork s c with
        | some r => some (.start r)
        | none => (newWork s c).map .start

/-- The VIF of a core's work. -/
def Work.vif : Work → Nat
  | .back e => e.vif
  | .start r => r.vif

/-! ## Starts and resumptions (R46, R49, R63, R275, R291, R351) -/

/-- A core passes to the VIF of a reaction that starts or resumes on it: its steward's code is that of the VIF (R320), and a pool
that was another VIF's is cleared (R291), and so is one that since a reset is nobody's, whose bytes may be another VIF's still (R46). -/
def passCore (s : State) (c : CoreId) (f : Vif) : State :=
  let k := s.core c
  if k.owner = some f.p.id then s
  else
    let m := s.mem.clear (poolAddr c 0) (2 ^ 17)
    let s := { s with mem := (m.clear (handlerAddr c 4096) 4096).write (handlerAddr c 4096) f.p.steward [] }
    s.setCore c { k with owner := some f.p.id }

/-- A slot of a tile that is a VIF's and holds nothing. -/
def emptySlot (g t v n : Nat) : Slot := ⟨g, t, n, v, noLid, 0, 0, 0, false, []⟩

/-- The slots of a tile that has passed to a VIF: emptied, with their pins. -/
def emptySlots (s : State) (g t v : Nat) : List Slot :=
  s.slots.filter (fun k => !(k.sgn == g && k.tile == t)) ++ [emptySlot g t v 0, emptySlot g t v 1]

/-- A tile passes to a VIF: its slots are emptied, every pin is released, and the CORE weir of the VIF is charged for the time
(R64). -/
def passTile (s : State) (g t : Nat) (f : Vif) : State :=
  if tileForeign s g t f.p.id then
    let s : State := { s with slots := emptySlots s g t f.p.id }
    charge ((tileCores g t).foldl (fun s c => s.setCore c { s.core c with ibufPins := [] }) s) f.p.id 0 (1 + Config.extraCycles s.tick)
  else s

/-- `crewcoord` of a member (Table 3.6). -/
def coordWord (base size c : Nat) : Word :=
  BitVec.ofNat 64 (size * 2 ^ 16 + (c - base) * 2 ^ 8 + (rowOf c - rowOf base) * 2 ^ 4 + (colOf c - colOf base))

/-- The registers of a member at a start or a resumption (R46). -/
def startCtx (f : Vif) (l : Launch) (rule : Rule) (r : Reaction) (base c : Nat) (outcome : Option (Nat × Word)) : Ctx :=
  let frame := Cap.range 2 (permLoad + permStore + permLoadK + permStoreK) r.base rule.frame
  let t : Ctx := { Ctx.init with
    k := ((Vector.replicate 16 Cap.null).setIfInBounds 14 frame).setIfInBounds 15 (snapshotCap f.p l)
    partition := partitionWord rule.vregs rule.acc, crewcoord := coordWord base (crewSize r.shape) c, fault := r.fault
    pc := r.offset, level := .user, space := .overlay, phase := if l.channelled then l.phase else 0 }
  match outcome with
  | some (d, v) => t.setX d v
  | none => t

/-- Whether the overlay of a reaction is still on its way to a tile of its block (R63). -/
def crewLoading (s : State) (g : Nat) (b : Nat × Nat) (v lid ovl : Nat) : Bool :=
  (blockTiles b).any fun t => ((slotHolding s g t v lid ovl).map (·.loading)).getD true

/-- A member starts: the vector registers and the accumulators read zero, and it waits while the overlay of its reaction loads into a
tile of the block, so that none runs before the reaction is RUNNING (R56, R63). -/
def startMember (s : State) (f : Vif) (l : Launch) (rule : Rule) (r : Reaction) (b : Nat × Nat) (outcome : Option (Nat × Word))
    (c : CoreId) : State :=
  let s := passCore s c f
  let t := startCtx f l rule r b.1 c.idx outcome
  let s := { s with mem := s.mem.clear (poolAddr c 0) t.scratch }
  let k := s.core c
  s.setCore c { k with
    ctx := t, saved := none, run := .running, rx := some r.x, overflow := []
    hold := if crewLoading s c.sgn b r.vif r.lid rule.ovl then .overlay else .none
    irqs := if l.state = .winding then [windCode] else []
    preempted := false, rows := [], rowsBad := none
    lastVif := if r.started then k.lastVif else some r.vif
    evicted := k.evicted.map fun e => { e with paused := false } }

/-- The overlay of a reaction in a tile: used now, or its load begins (R63). Which slot was used least recently, R63 does not
say how to count: here a slot is used when a reaction that executes from it is picked up or resumes, and when its load
begins, and not by each fetch from it (DESIGN CHOICE, log 58). -/
def takeSlot (s : State) (g t : Nat) (l : Launch) (ovl : Nat) : State :=
  match slotHolding s g t l.vif l.lid ovl with
  | some k => s.setSlot { k with use := s.tick }
  | none => match slotToLoad s g t with
    | some n => startLoad s g t n l ovl
    | none => s

/-- The register that a resumed `wmem` writes, and its outcome (R275). -/
def outcomeOf (s : State) (r : Reaction) : Option (Nat × Word) :=
  match r.wait with
  | .word .. => some (s.mem.readNat (pinnedAddr r.vif r.base + 8) 1 % 32, if r.outcome then 1 else 0)
  | _ => none

/-- A reaction starts or resumes on the block that holds a core. -/
def startReaction (s : State) (c : CoreId) (f : Vif) (l : Launch) (rule : Rule) (r : Reaction) : State :=
  let b := blockAt r c.idx
  let s := (blockTiles b).foldl (fun s t => takeSlot (passTile s c.sgn t f) c.sgn t l rule.ovl) s
  let s := if r.started then s else { s with mem := s.mem.clear (pinnedAddr r.vif r.base) rule.frame }
  let out := if r.state = .suspended then outcomeOf s r else none
  let s := (blockCores b).foldl (fun s i => startMember s f l rule r b out ⟨c.sgn, i⟩) s
  let loading := crewLoading s c.sgn b r.vif r.lid rule.ovl
  s.setReaction c.sgn { r with
    first := b.1, live := blockCores b, committed := [], started := true, fault := 0
    state := if loading then r.state else .running }

/-- `REACTION_PICKUP` (R234): a free core takes the first item of Table 11.1. Where its tile is another VIF's, it first waits
until the tile has drained (R64), where its pool is, until that is quiet (R291), and a load holds while the HBM weir is exhausted. For an evicted reaction the overlay
is made resident; `RESTORE` then resumes it. -/
def execReactionPickup (c : CoreId) (s : State) : Out :=
  if !coreFree s c then .next s
  else match chooseWork s c with
    | none => .next s
    | some (.back e) => match s.vif e.vif, (s.reaction c.sgn e.x).bind fun r => s.launch e.vif r.lid with
      | some f, some l => match (s.reaction c.sgn e.x).bind (ruleOf s) with
        | some rule =>
          let t := tileIndex c.idx
          if !tileOpen s c.sgn t e.vif || !weirOpen s e.vif 1 then .next s
          else
            let u := passTile s c.sgn t f
            .next (if (slotHolding u c.sgn t e.vif l.lid rule.ovl).isSome then u else takeSlot u c.sgn t l rule.ovl)
        | none => .next s
      | _, _ => .next s
    | some (.start r) => match s.vif r.vif, s.launch r.vif r.lid, ruleOf s r with
      | some f, some l, some rule =>
        let ts := blockTiles (blockAt r c.idx)
        let loads := ts.any fun t => tileForeign s c.sgn t r.vif || (slotHolding s c.sgn t r.vif r.lid rule.ovl).isNone
        let pools := (blockCores (blockAt r c.idx)).all fun i => poolOpen s ⟨c.sgn, i⟩ r.vif
        if !pools || !(ts.all fun t => tileOpen s c.sgn t r.vif) || (loads && !weirOpen s r.vif 1) then .next s
        else .next (startReaction s c f l rule r)
      | _, _, _ => .next s

/-! ## Overlay loads (R63, R367) -/

/-- The reactions that wait for the overlay of a slot and for no other tile any more. -/
def loadedReactions (s : State) (k : Slot) : List Reaction :=
  (s.unit k.sgn).reactions.filter fun r => r.vif == k.vif && r.lid == k.lid && (ruleOf s r).map (·.ovl) == some k.ovl
    && !crewLoading s k.sgn (blockAt r r.first) k.vif k.lid k.ovl

/-- The members of a reaction whose overlay is in every tile of its block go on together, and the reaction is RUNNING (R56, R63). -/
def wakeCrew (s : State) (g : Nat) (r : Reaction) : State :=
  let waits := fun (c : CoreId × Core) => c.1.sgn == g && c.2.rx == some r.x && c.2.hold == .overlay
  if s.cores.any waits then
    let s := { s with cores := s.cores.map fun c => if waits c then (c.1, { c.2 with hold := .none }) else c }
    if r.state = .matched ∨ r.state = .suspended then s.setReaction g { r with state := .running } else s
  else s

/-- `OVERLAY_LOAD_COMPLETE` (R63, R367): the slot has the relocated copy. An access outside the leases ends the launch
(R303); bytes of a page that is not resident hold the load (R306). -/
def execOverlayLoadComplete (g t n : Nat) (s : State) : Out :=
  match slotAt s g t n with
  | none => .next s
  | some k =>
    if !k.loading then .next s
    else match s.vif k.vif, s.launch k.vif k.lid with
      | some f, some l =>
        let o := l.image.overlays.getD k.ovl (0, 0)
        let va := l.image.va + o.1
        if l.state = .ended then .next (s.setSlot { k with loading := false })
        else if !withinLeases f l 2 va o.2 false then .next (finishLaunch (s.setSlot { k with loading := false }) l .leaseFault va)
        else match vifRead s f 2 va o.2 with
          | none => .next s
          | some bs =>
            let a := slotAddr g t n 0
            let m := (s.mem.clear a (2 ^ 16)).write a (relocated l.image o bs) ((vifPoison s f va o.2).map (a / 32 + ·))
            let s : State := { s with mem := m }.setSlot { k with loading := false }
            .next ((loadedReactions s k).foldl (fun s r => wakeCrew s g r) s)
      | _, _ => .next (s.setSlot { k with loading := false })

/-! ## Interrupts (R254, R295, R329, R344) -/

/-- Whether a core runs a reaction. -/
def runsReaction (s : State) (c : CoreId) : Bool := (s.core c).run == .running && (s.core c).rx.isSome

/-- Whether the scheduler has work for a core that only it can run: rows 1 and 2 of Table 11.1 (R254). -/
def ownWork (s : State) (c : CoreId) : Bool :=
  ((s.core c).evicted.any fun e => weirOpen s e.vif 0)
    || (resumable s c.sgn).any fun r => waitsOn r c.idx && weirOpen s r.vif 0

/-- `INTERRUPT_PREEMPT` (Table 14.4, R254). -/
def execInterruptPreempt (c : CoreId) (s : State) : Out :=
  .next (if runsReaction s c && ownWork s c then interruptCore s c preemptCode else s)

/-- What Table 11.1 would give a core if it were free. -/
def workIfFree (s : State) (c : CoreId) : Option Work :=
  chooseWork (s.setCore c { s.core c with run := .idle, hold := .none, rx := none }) c

/-- Whether the CORE weir of a reaction is exhausted while its core has work of another VIF (R295). -/
def heldForOther (s : State) (c : CoreId) (r : Reaction) : Bool :=
  !weirOpen s r.vif 0 && (((workIfFree s c).map (·.vif != r.vif)).getD false)

/-- Whether a free core of a core's tile has work of another VIF than a reaction's, for which the tile must pass (R64). -/
def tileWanted (s : State) (c : CoreId) (r : Reaction) : Bool :=
  (tileCores c.sgn (tileIndex c.idx)).any fun d => coreFree s d && (((chooseWork s d).map (·.vif != r.vif)).getD false)

/-- `INTERRUPT_SWITCH` (Table 14.4, R64, R295). -/
def execInterruptSwitch (c : CoreId) (s : State) : Out :=
  .next (match (s.core c).rx.bind (s.reaction c.sgn) with
    | some r => if runsReaction s c && (heldForOther s c r || tileWanted s c r) then interruptCore s c switchCode else s
    | none => s)

/-- `INTERRUPT_WIND` (Table 14.4): it reaches a core that holds a reaction whose launch winds down. The cores of a launch that
has ended took it as that ended (R344). -/
def execInterruptWind (c : CoreId) (s : State) : Out :=
  .next (match (s.core c).rx.bind (s.reaction c.sgn) with
    | some r =>
      if !r.aborting && ((s.launch r.vif r.lid).map (·.state == .winding)).getD false then interruptCore s c windCode else s
    | none => s)

/-- `INTERRUPT_WAKE` (R309, R345): a parked core goes on with an empty TLB and its TSC's generations. -/
def execInterruptWake (c : CoreId) (s : State) : Out :=
  let k := s.core c
  .next (if k.run = .parked then
    s.setCore c { k with run := .running, tlb := [], gens := s.vifs.map fun f => (f.p.id, f.gen) } else s)

/-! ## Eviction and restore (R330 to R335) -/

/-- `n` bytes copied without poison and tags. -/
def copyPlain (m : Memory) (a b n : Nat) : Memory :=
  let c := m.copy a b n
  { c with
    poison := c.poison.filter fun g => ¬ (b ≤ 32 * g ∧ 32 * g < b + n)
    tags := c.tags.filter fun g => ¬ (b ≤ 16 * g ∧ 16 * g < b + n) }

/-- The base of a context record. -/
def recordAt (f : Vif) (c : CoreId) (slot : Nat) : Nat := pinnedAddr f.p.id (f.p.saveBase + saveOffset c slot)

/-- The merge of a reaction that the tree has started (R334). -/
def heldMerge (s : State) (c : CoreId) (x : Nat) : Option EngineOp :=
  s.ops.find? fun o => o.op == 7 && o.core == c && o.x == x && o.begun && o.finished.isNone

/-- The current head entry of a run of a merge: as it has been read, or as it stands in memory; of a run that is used up, and of one
that cannot be read, zeros. -/
def mergeHead (s : State) (o : EngineOp) (r : Nat) : List Byte :=
  if r < o.num' 48 2 ∧ o.cursor.heads.getD r 0 < o.num' (64 + 4 * r) 4 then
    match engineRead o (r + 1) (o.cap 0) (headOffset o r) 8 permLoad with
    | .ok g => g.bs
    | .error _ =>
      let t := asEngine s o
      match enginePlaces t (o.cap 0) (effAddr (o.cap 0) 0 1 (headOffset o r)) 8 permLoad .engine with
      | .ok ls => readLocs t ls
      | .error _ => List.replicate 8 0
  else List.replicate 8 0

/-- The MERGE field (R334): the command block, the current heads, the cursors, the output count and the flags. -/
def mergeBytes (s : State) (c : CoreId) (x : Nat) : List Byte :=
  match heldMerge s c x with
  | none => []
  | some o =>
    padTo 128 o.block ++ (List.range 16).flatMap (mergeHead s o) ++ (List.range 16).flatMap (fun r => bytesOfNat 4 (o.cursor.heads.getD r 0))
      ++ bytesOfNat 4 o.cursor.pos
      ++ bytesOfNat 4 (1 + 2 * o.tl + (if bit o.ctl.toNat 4 then 2 ^ 4 else 0) + (if bit o.ctl.toNat 3 then 2 ^ 5 else 0))

/-- Whether an operation is a merge of a reaction on a core. -/
def EngineOp.mergeOf (o : EngineOp) (c : CoreId) (x : Nat) : Bool := o.op == 7 && o.core == c && o.x == x

/-- Whether the tree has started or deferred every merge of a reaction on a core (R334). -/
def mergesHeld (s : State) (c : CoreId) (x : Nat) : Bool :=
  s.ops.all fun o => !o.mergeOf c x || o.begun || o.deferred

/-- Merges of an evicted reaction count as completed for its core's counters from now on (R334). -/
def setMergesAside (s : State) (c : CoreId) (x : Nat) : State :=
  let mine := fun (o : EngineOp) => o.mergeOf c x && !o.setAside
  let k := (s.ops.filter mine).foldl (fun k o => completeNum k o.tl o.num) (s.core c)
  { s.setCore c k with ops := s.ops.map fun (o : EngineOp) => if mine o then { o with setAside := true } else o }

/-- The record, the context and the pool of a core's reaction, written by the save engine, and SPILL cleared. -/
def writeRecord (s : State) (c : CoreId) (f : Vif) (r : Reaction) (t : Ctx) (slot : Nat) : State :=
  let a := recordAt f c slot
  let block := blockBytes (s.setCore c { s.core c with ctx := t }) c (recordState c r 1) (mergeBytes s c r.x)
  let m := copyPlain (s.mem.write a block []) (poolAddr c 0) (a + 8192) Config.poolBytes
  { s with mem := m.clear (a + spillOffset) ringBytes }

/-- Bytes that an eviction or a restore moves (R331). -/
def moveBytes : Nat := 106496

/-- The first context record of a core that is free for a VIF (R330). -/
def freeRecordSlot (k : Core) (v : Nat) : Option Nat :=
  (List.range 2).find? fun n => !(k.evicted.any fun e => e.vif == v && e.slot == n)

/-- Whether the handler of a core holds a pre-empted reaction that may be evicted (R330): its launch runs, and it does not
end. -/
def evictable (s : State) (c : CoreId) (r : Reaction) : Bool :=
  (s.core c).preempted && (s.core c).inHandler && r.state == .preempted && !r.aborting
    && ((s.launch r.vif r.lid).map (·.state == .running)).getD false

/-- Whether a core's handler does not return to its pre-empted reaction, because it is to be evicted: for the scheduler's own
work (R254), or for work of another VIF while its CORE weir is exhausted (R295). -/
def evictDue (s : State) : Bool :=
  match s.myReaction with
  | none => false
  | some r => evictable s s.cur r && (freeRecordSlot s.me r.vif).isSome
      && ((s.me.mcause.toNat == interruptCause preemptCode && r.shape == 0 && ownWork s s.cur)
        || (s.me.mcause.toNat == interruptCause switchCode && heldForOther s s.cur r))

/-- A context record lost (R333): its STATE is 2, what its spill ring holds goes to the dead-letter ring, and its reaction
ends. -/
def loseRecord (s : State) (c : CoreId) (f : Vif) (r : Reaction) (slot : Nat) : State :=
  let s : State := { s with mem := s.mem.writeNat (recordAt f c slot) 1 2 }
  loseReaction (dropRing s c r.x true) c.sgn r

/-- `EVICTION` (R330, R331, R333, R334): the handler of a pre-empted reaction has it saved, once its pool is quiet and where
a context record is free; `sound` says that the save engine met no uncorrectable error. -/
def execEviction (c : CoreId) (sound : Bool) (s : State) : Out :=
  let k := s.core c
  match k.saved, k.rx.bind (s.reaction c.sgn) with
  | some t, some r => match s.vif r.vif, freeRecordSlot k r.vif with
    | some f, some n =>
      if !evictable s c r || !poolQuietBut s c (·.mergeOf c r.x) || !mergesHeld s c r.x then .next s
      else
        let u := charge s r.vif 1 moveBytes
        if sound then
          let t := mergeArea t k.ctx
          let w := setMergesAside (writeRecord u c f r t n) c r.x
          let k := w.core c
          let e : Evicted := ⟨r.vif, n, r.x, k.mcause.toNat == interruptCause preemptCode, t.streams, t.below⟩
          .next (writeSpill (w.setCore c { k.leave with irqs := [], evicted := k.evicted ++ [e] }) c r.x)
        else .next (loseRecord (u.setCore c k.leave) c f r n)
    | _, _ => .next s
  | _, _ => .next s

/-- The pool, the context and the remap configuration of a context record, back on their core. -/
def readRecord (s : State) (c : CoreId) (f : Vif) (r : Reaction) (slot : Nat) : State :=
  let a := recordAt f c slot
  let b := s.mem.read a 8192
  let p := poolAddr c 0
  let m := copyPlain s.mem (a + 8192) p Config.poolBytes
  let bad := (List.range 3072).filter fun g => bit (fieldOf b 4480 384) g
  let tags := (List.range 6144).filter fun g => bit (fieldOf b 4864 768) g
  let m := { m with
    poison := insertNats (bad.map (p / 32 + ·)) m.poison
    tags := insertNats (tags.map (p / 16 + ·)) m.tags }
  let k := s.core c
  let t := blockTraps b (blockCtx s.seq b k.ctx)
  let e := k.evicted.find? (·.x == r.x)
  let held := (e.map Evicted.streams).getD (Vector.replicate 8 StreamReg.closed)
  { s with mem := m.writeNat a 1 0 }.setCore c { k with
    ctx := { t with remap := blockRemap b, streams := reloadStreams held t.streams, below := e.bind Evicted.below }
    saved := none, run := .running, hold := .none, preempted := false, rx := some r.x, irqs := [], overflow := []
    evicted := (k.evicted.filter fun (e : Evicted) => e.x != r.x).map fun (e : Evicted) => { e with paused := false } }

/-- `RESTORE` (R330, R333 to R335, R237): the first reaction of row 1 resumes on its core, with its overlay resident and its
merges back in the tree's queue, and what its spill ring holds is delivered; `sound` says that the context area can be
written and its record read, which no granule of the record that an error has spoilt lets it be (R342). -/
def execRestore (c : CoreId) (sound : Bool) (s : State) : Out :=
  if !coreFree s c then .next s
  else match chooseWork s c with
    | some (.back e) => match s.vif e.vif, s.reaction c.sgn e.x with
      | some f, some r => match s.launch r.vif r.lid, ruleOf s r with
        | some l, some rule =>
          let t := tileIndex c.idx
          let here := ((slotHolding s c.sgn t r.vif r.lid rule.ovl).map (!·.loading)).getD false
          if !here || tileForeign s c.sgn t e.vif || !poolOpen s c e.vif then .next s
          else
            let u := charge s e.vif 1 moveBytes
            if sound && (s.mem.poisonIn (recordAt f c e.slot) 131072).isEmpty then
              let u := takeSlot (readRecord (passCore u c f) c f r e.slot) c.sgn t l rule.ovl
              .next (deliverRing (rejoin (markRunning u c.sgn r.x) c r.x) c r.x)
            else
              let k := u.core c
              .next (loseRecord (u.setCore c { k with evicted := k.evicted.filter (·.x != r.x) }) c f r e.slot)
        | _, _ => .next s
      | _, _ => .next s
    | _ => .next s

/-! ## A tile passes to another VIF (R64, R291) -/

/-- `TILE_VIF_SWITCH` (R64): a tile that the VIF's mask permits and that has drained passes to it. -/
def execTileVifSwitch (g t v : Nat) (s : State) : Out :=
  match s.vif v with
  | none => .next s
  | some f => .next (if t < 64 && sgWorks s g && bit (f.p.mask.getD g 0) t && tileDrained s g t then passTile s g t f else s)

end Sys2Proof.Machine
end

