-- ==== Sys2Proof/Machine/Sync.lean ====
section
/-! DEFINITION. Barriers, exchange between stages, and instruction memory (R261 to R265, R280 to R286). -/

namespace Sys2Proof.Machine

/-! ## Barriers -/

/-- Members of a reaction that take part in its barriers (R261, R271). -/
def takingPart (r : Reaction) : List Nat := r.live.filter fun c => !r.committed.contains c

/-- Participants of a barrier of a crew on a wire: 0 the mesh row, 1 the column, 2 all (R261). -/
def crewParticipants (r : Reaction) (wire index : Nat) : List Nat :=
  (takingPart r).filter fun c => wire == 2 || (if wire = 0 then rowOf c == index else colOf c == index)

/-- Every stage core of a launch, in order (R256, R265). -/
def stageCores (l : Launch) : List CoreId := l.stages.flatMap fun t => t.cores.map fun c => ⟨t.sgn, c⟩

/-- Whether a transfer that a core has started has not landed yet and is not refused: it is on its way, or in a spill ring
(R281, R335). -/
def transferOut (s : State) (c : CoreId) : Bool :=
  s.xfers.any (·.sender == c) || s.cores.any fun k => k.2.ring.any fun e => match e.item with
    | .xfer t => t.sender == c
    | _ => false

/-- A barrier instruction retires. -/
def passBarrier (s : State) : State := (s.setMe { s.me with hold := .none, ctx := { s.ctx with arrival := none } }).advance

/-- A member arrives at the episode that is open on its wire, or opens one (R263, R264). -/
def arrive (s : State) (r : Reaction) (wire index : Nat) : State :=
  let mine := fun (b : Episode) => b.wire == wire && b.vif == r.vif && b.lid == r.lid
    && (wire == 3 || (b.index == index && b.sgn == s.cur.sgn && b.x == r.x))
  let (s, id) : State × Nat := match s.bars.find? mine with
    | some b => ({ s with bars := upsert mine { b with arrived := b.arrived ++ [s.cur] } s.bars }, b.id)
    | none =>
      let b : Episode :=
        { id := s.seq, wire := wire, index := index, sgn := s.cur.sgn, x := r.x, vif := r.vif, lid := r.lid
          arrived := [s.cur], limit := bitsOf s.ctx.bartimeout.toNat 0 32, start := s.me.cycle }
      ({ s with seq := s.seq + 1, bars := s.bars ++ [b] }, s.seq)
  s.setMe { s.me with hold := .barrier, ctx := { s.ctx with arrival := some ⟨wire, id⟩ } }

/-- Whether an arrival still stands in an open episode. -/
def standing (s : State) (a : Arrival) : Bool := s.bars.any fun b => b.id == a.episode && b.arrived.contains s.cur

/-- A barrier (R261 to R265, R280). A member arrives once the loads of its open streams are made (R189, R213). A barrier with a single
participant waits for its own stores; `BARRIER_RELEASE` does so for the others. -/
def barrierOp (i : Instr) (named : Nat) (s : State) : Out :=
  conclude s do
    let r ← reacting s i
    let channelled := (s.myLaunch.map (·.channelled)).getD false
    let wire := if named = 2 ∧ channelled then 3 else named
    let index := if wire = 0 then rowOf s.cur.idx else if wire = 1 then colOf s.cur.idx else 0
    match s.ctx.arrival with
    | some a =>
      if a.wire = wire ∧ s.released.contains a.episode then .ok (passBarrier s)
      else if a.wire = wire ∧ standing s a then .ok (s.setMe { s.me with hold := .barrier })
      else do
        afterStreams s
        .ok (arrive s r wire index)
    | none => do
      afterStreams s
      if wire = 3 then
        if s.ctx.phase % 2 = 1 ∧ transferOut s s.cur then .error (.hold s) else .ok (arrive s r wire index)
      else if crewParticipants r wire index = [s.cur.idx] then
        if ownStores s then .error (.hold s) else .ok (passBarrier s)
      else .ok (arrive s r wire index)

/-- `bar.row` (R280). -/
def execBarRow (s : State) : Out := barrierOp .barRow 0 s

/-- `bar.col` (R280). -/
def execBarCol (s : State) : Out := barrierOp .barCol 1 s

/-- `bar.sg` (R280). -/
def execBarSg (s : State) : Out := barrierOp .barSg 2 s

/-! ## Exchange (R281 to R284) -/

/-- What `xmit` and `xsel` ask first: the exchange phase of a channelled launch (R266). -/
def exchanging (s : State) (i : Instr) : Res Launch := do
  let _ ← reacting s i
  match s.myLaunch with
  | some l =>
    legal i (l.channelled && s.ctx.phase % 2 == 1)
    .ok l
  | none => trap .illegal (encodingOf i)

/-- `xmit` (R282): every load of an open stream comes before the edge that it makes (R213, R284). A capability of FORMAT 7 delivers the
bytes as they stand: R113 does not list `xmit` among what raises FORMAT_NOT_ADDRESSABLE, and R282 names no check of the format (DESIGN
CHOICE, log 74). -/
def execXmit (a : BitVec 5) (k : BitVec 4) (s : State) : Out :=
  conclude s do
    let i : Instr := .xmit a k
    let l ← exchanging s i
    let x := s.x a.toNat
    let w := x.toNat
    let len := bitsOf w 16 12
    legal i (bitsOf w 61 3 == 0 && 1 ≤ len && len ≤ 1536 && bitsOf w 36 12 + len ≤ 1536)
    let key := s.k k.toNat
    let p : Word := BitVec.ofNat 64 key.va
    capCheck s.ctx.level key p (64 * len) permLoad
    guardTrap (key.space == 0) .capPerm p
    guardTrap ((stageCores l).contains ⟨bitsOf w 56 5, bitsOf w 48 8⟩) .capPerm x
    let ls ← locate s 0 p (64 * len) .load
    afterStreams s
    if (s.me.cycle - s.me.phaseAt).toNat < bitsOf w 0 16 then .error (.hold s)
    else
      let bad := poolPoison s key.va (64 * len)
      let t : Transfer :=
        { word := x, bytes := readLocs s ls
          poison := (List.range (64 * len)).filter fun n => bad.contains ((key.va + n) / 32 * 32)
          sender := s.cur, x := s.me.rx.getD 0, gen := (s.myReaction.map (·.gen)).getD 0, vif := l.vif, lid := l.lid
          phase := s.ctx.phase, seq := s.seq, held := false }
      let u : State := { s with xfers := s.xfers ++ [t], seq := s.seq + 1 }
      .ok u.advance

/-- The length of the transfer that a channel of a core has received in this phase. -/
def channelLength (k : Core) (n : Nat) : Option Nat := (k.chans.find? (·.1 == n)).map (·.2)

/-- `xsel` (R283). -/
def execXsel (d a : BitVec 5) (s : State) : Out :=
  conclude s do
    let i : Instr := .xsel d a
    let _ ← exchanging s i
    let w := (s.x a.toNat).toNat
    legal i (bitsOf w 8 56 == 0)
    match channelLength s.me w with
    | some n => .ok (s.retire d.toNat (BitVec.ofNat 64 n))
    | none => .ok (holdFrom s .xsel)

/-! ## Instruction memory (R285, R286) -/

/-- A code range word (Table 12.4), with the checks of R285: the reaction, its launch, the overlay and the lines. -/
def codeRange (s : State) (i : Instr) (x : Word) (n : BitVec 2) : Res (Reaction × Launch × Nat × List Nat) := do
  let r ← reacting s i
  let w := x.toNat
  let ovl := bitsOf w 44 12
  let count := bitsOf w 16 10 + 1
  let off := bitsOf w 0 16
  legal i (n.toNat < 2 && bitsOf w 56 8 == 0 && bitsOf w 26 18 == 0 && off % 64 == 0)
  match s.myLaunch with
  | none => trap .illegal (encodingOf i)
  | some l =>
    match l.image.overlays[ovl]? with
    | none => trap .illegal (encodingOf i)
    | some o =>
      legal i (off + 64 * (count - 1) < o.2)
      legal i (n != 0 || (((ruleOf s r).map (·.ovl)) == some ovl && count ≤ 64))
      .ok (r, l, ovl, (List.range count).map (off / 64 + ·))

/-- Lines of an overlay of a launch. -/
def linesOf (l : Launch) (ovl : Nat) (ls : List Nat) : List Line := ls.map fun n => ⟨l.vif, l.lid, ovl, n⟩

/-- Whether a line of the instruction buffer is pinned. -/
def Core.pins (k : Core) (n : Line) : Bool := k.ibufPins.any (·.2 == n)

/-- Lines pinned for a reaction; a line that it has pinned already stays so. -/
def Core.pin (k : Core) (x : Nat) (ls : List Line) : Core :=
  { k with ibufPins := k.ibufPins ++ (ls.map (x, ·)).filter fun p => !k.ibufPins.contains p }

/-- Lines fetched into the instruction buffer: at most 64 stay, the pinned ones among them (R13, R286). -/
def fetchLines (k : Core) (ls : List Line) : Core :=
  let all := k.ibuf.filter (fun n => !ls.contains n) ++ ls
  let free := all.filter (!k.pins ·)
  let kept := free.drop (all.length - 64)
  { k with ibuf := all.filter fun n => k.pins n || kept.contains n }

/-- The overlay made resident in the current core's tile, where it is not yet and a slot can be loaded. -/
def prefetchOverlay (s : State) (l : Launch) (ovl : Nat) : Res State :=
  let g := s.cur.sgn
  let t := tileIndex s.cur.idx
  match slotHolding s g t l.vif l.lid ovl, slotToLoad s g t with
  | some _, _ => .ok s
  | none, some n => if weirOpen s l.vif 1 then .ok (startLoad s g t n l ovl) else .error (.hold s)
  | none, none => .ok s

/-- `ipf` (R286). -/
def execIpf (a : BitVec 5) (n : BitVec 2) (s : State) : Out :=
  conclude s do
    let (_, l, ovl, ls) ← codeRange s (.ipf a n) (s.x a.toNat) n
    if n = 0 then .ok (s.setMe (fetchLines s.me (linesOf l ovl ls))).advance
    else
      let u ← prefetchOverlay s l ovl
      .ok u.advance

/-- `ipin` (R286). -/
def execIpin (a : BitVec 5) (n : BitVec 2) (s : State) : Out :=
  conclude s do
    let i : Instr := .ipin a n
    let (r, l, ovl, ls) ← codeRange s i (s.x a.toNat) n
    let g := s.cur.sgn
    let t := tileIndex s.cur.idx
    if n = 0 then
      let k := s.me.pin r.x (linesOf l ovl ls)
      legal i ((k.ibufPins.map (·.2)).eraseDups.length ≤ 32)
      .ok (s.setMe (fetchLines k (linesOf l ovl ls))).advance
    else
      let pin := fun (u : State) => match slotHolding u g t l.vif l.lid ovl with
        | some k => u.setSlot { k with pins := insertNats ls k.pins }
        | none => u
      match slotHolding s g t l.vif l.lid ovl, slotToLoad s g t with
      | none, none =>
        if (List.range 2).any fun m => ((slotAt s g t m).map fun k => k.pins.isEmpty).getD true then .error (.hold s)
        else .ok s.advance
      | _, _ =>
        let u ← prefetchOverlay s l ovl
        .ok (pin u).advance

/-- `iunpin` (R286). -/
def execIunpin (a : BitVec 5) (n : BitVec 2) (s : State) : Out :=
  conclude s do
    let (_, l, ovl, ls) ← codeRange s (.iunpin a n) (s.x a.toNat) n
    if n = 0 then
      .ok (s.setMe { s.me with ibufPins := s.me.ibufPins.filter fun m => !(linesOf l ovl ls).contains m.2 }).advance
    else match slotHolding s s.cur.sgn (tileIndex s.cur.idx) l.vif l.lid ovl with
      | some k => .ok (s.setSlot { k with pins := k.pins.filter fun m => !ls.contains m }).advance
      | none => .ok s.advance

end Sys2Proof.Machine
end

