-- ==== Sys2Proof/Machine/Events.lean ====
section
/-! DEFINITION. Events that end waits, perform stores, release barriers and land transfers; requests of other devices; the
refill of weirs (R181, R231, R254, R261 to R265, R275, R281 to R283, R294, R311, R345). -/

namespace Sys2Proof.Machine

/-- A trap on a core that need not be the current one. -/
def trapOn (s : State) (c : CoreId) (cause : Cause) (v : Word) : State :=
  { takeTrap { s with cur := c } cause v with cur := s.cur }

/-- Cycles that a core has counted since its hold began. -/
def heldFor (k : Core) : Nat := (k.cycle - k.since).toNat

/-! ## User-level events (R231) -/

/-- `EVENT_TAKEN` (R231). -/
def execEventTaken (c : CoreId) (s : State) : Out :=
  let k := s.core c
  match k.ctx.events with
  | [] => .next s
  | (info, value) :: rest =>
    if k.run ≠ .running ∨ k.hold ≠ .none ∨ !eventDue { s with cur := c } then .next s
    else .next (s.setCore c { k with ctx := { k.ctx with
      epc := BitVec.ofNat 64 k.ctx.pc &&& returnMask, ecause := info &&& causeMask, evalue := value, inev := true, events := rest
      pc := bitsOf k.ctx.evec.toNat 2 14 * 4 } })

/-! ## Stores (R181, R185, R186, R197) -/

/-- Whether two pieces in flight have a common byte. -/
def InFlight.overlaps (f g : InFlight) : Bool := f.addr < g.addr + g.bytes.length && g.addr < f.addr + f.bytes.length

/-- Whether two pieces are stores of one agent (R179). -/
def InFlight.sameAgent (f g : InFlight) : Bool := f.core == g.core && f.priv == g.priv && (f.priv != .user || f.x == g.x)

/-- Whether two pieces are of one store. -/
def InFlight.sameStore (f g : InFlight) : Bool := f.sameAgent g && f.seq == g.seq

/-- Whether an older store of the same agent to a common byte is in flight (R188, R192). -/
def storeBefore (s : State) (n : Nat) (f : InFlight) : Bool := (s.stores.take n).any fun g => g.sameAgent f && g.overlaps f

/-- Granules that a store has written whole and good once this piece of it is performed: those that no other piece of it in
flight has a part of (R186). -/
def healed (s : State) (f : InFlight) : List Nat :=
  f.clean.filter fun g => !s.stores.any fun e => e.sameStore f && e.clean.contains g

/-- The other pieces of a store one of which has failed: what that piece was to write stays as it was (R181, R186). -/
def unclean (s : State) (f : InFlight) : State :=
  { s with stores := s.stores.map fun (e : InFlight) =>
      if e.sameStore f then { e with clean := e.clean.filter (!f.clean.contains ·) } else e }

/-- `STORE_COMPLETION` (R181, R182): a piece of a store is performed; or it fails for a dead link or is refused, which is
recorded (R197). COUNT rises with each piece that fails, where R197 does not say whether it counts instructions or their
single-copy atomic pieces (DESIGN CHOICE, log 60). -/
def execStoreCompletion (n : Nat) (s : State) : Out :=
  match s.stores[n]? with
  | none => .next s
  | some f =>
    let rest := { s with stores := s.stores.eraseIdx n }
    if storeBefore s n f then .next s
    else if (f.link.map (linkDown s)).getD false then .next (recordPending (unclean rest f) f.core f.x f.level 0)
    else if f.foreign && Config.foreignRefuses s.tick then .next (recordPending (unclean rest f) f.core f.x f.level 1)
    else
      let m := f.perform s.mem
      let t := { rest with mem := { m with poison := m.poison.filter (!(healed rest f).contains ·) } }
      .next (if f.poison.isEmpty then t else recordPending t f.core f.x f.level 2)

/-! ## Waits that end (R254, R275, R283, R345) -/

/-- The timeout of a suspended `wmem` (Table 12.2). -/
def frameTimeout (s : State) (r : Reaction) : Nat := s.mem.readNat (pinnedAddr r.vif r.base + 12) 4

/-- The timeout of a member's `wmem` expires (R275). -/
def memberTimeout (s : State) (c : CoreId) : State :=
  let t := { s with cur := c }
  match instrAt t with
  | some (.wmem d _ _ _) =>
    let limit := bitsOf (t.x d.toNat).toNat 0 32
    let waited := (BitVec.ofNat 64 (timerOf s c.sgn) - t.me.since).toNat
    if limit ≠ 0 ∧ limit ≤ waited then { (t.setMe { t.me with hold := .none }).retire d.toNat 0 with cur := s.cur } else s
  | _ => s

/-- `WMEM_TIMEOUT` (R275, R253): outcome 0, for a member that waits in place or for a suspended reaction, as the wait timer of its
SG counts (log 68). -/
def execWmemTimeout (c : CoreId) (x : Nat) (s : State) : Out :=
  if (s.core c).hold = .wmem ∧ (s.core c).rx = some x then .next (memberTimeout s c)
  else match s.reaction c.sgn x with
    | none => .next s
    | some r => match r.wait with
      | .word _ _ since =>
        let waited := timerOf s c.sgn - since
        if r.state ≠ .suspended ∨ r.ready ≠ none ∨ frameTimeout s r = 0 ∨ waited < frameTimeout s r then .next s
        else
          let u := s.unit c.sgn
          .next ((s.setUnit { u with order := u.order + 1 }).setReaction c.sgn { r with ready := some u.order, outcome := false })
      | _ => .next s

/-- A core's hold ends, and it goes on at the next instruction. -/
def goOn (k : Core) : Core := { k with hold := .none, ctx := { k.ctx with pc := k.ctx.pc + 4 } }

/-- A `pause` or `wfe` ends after its time: the body goes on, or is pre-empted where the scheduler has work that only this
core can run (R254, R345). -/
def pauseEnds (s : State) (c : CoreId) : State :=
  let alone := (((s.core c).rx.bind (s.reaction c.sgn)).map fun r => r.shape == 0 && !r.aborting).getD false
  if alone && (s.core c).ctx.level == .user && ownWork s c then interruptCore s c preemptCode else s.setCore c (goOn (s.core c))

/-- `PAUSE_EXPIRY` (R254). -/
def execPauseExpiry (c : CoreId) (s : State) : Out :=
  .next (if (s.core c).hold = .pause ∧ 64 ≤ heldFor (s.core c) then pauseEnds s c else s)

/-- `WFE_TIMEOUT` (R345). -/
def execWfeTimeout (c : CoreId) (s : State) : Out :=
  .next (if (s.core c).hold = .wfe ∧ 4096 ≤ heldFor (s.core c) then pauseEnds s c else s)

/-- `tvalue` of BAR_TIMEOUT (Table 11.5). -/
def barValue (wire index missing : Nat) (lowest : CoreId) : Word :=
  BitVec.ofNat 64 (wire % 4 * 2 ^ 62 + lowest.sgn % 32 * 2 ^ 24 + index % 16 * 2 ^ 20 + min 255 missing * 2 ^ 8 + lowest.idx % 256)

/-- `XSEL_TIMEOUT` (R283). -/
def execXselTimeout (c : CoreId) (s : State) : Out :=
  let k := s.core c
  let limit := bitsOf k.ctx.bartimeout.toNat 0 32
  .next (if k.hold = .xsel ∧ limit ≠ 0 ∧ limit < heldFor k then trapOn s c .barTimeout (barValue 3 0 1 c) else s)

/-! ## Barriers (R261 to R265) -/

/-- Whether a stage core counts as arrived at the launch barrier without being there (R265): it has no running reaction, and no group
for the NEXT of its stage. A reaction that is SUSPENDED does not run. -/
def idleAtBarrier (s : State) (l : Launch) (c : CoreId) : Bool :=
  let k := s.core c
  let u := s.unit c.sgn
  let ts := candidates u l.vif l.lid
  k.rx.isNone && !(k.evicted.any fun e => ((s.reaction c.sgn e.x).map fun r => r.vif == l.vif && r.lid == l.lid).getD false)
    && l.stages.all fun t => t.sgn != c.sgn || !t.cores.contains c.idx
      || !((ts.any fun q => q.locks == 0 && (groupWith l t.rule (l.image.rules.getD t.rule default) ts q).isSome)
        || u.reactions.any fun r => r.vif == l.vif && r.lid == l.lid && r.rule == t.rule && r.state != .suspended && stageAllows s c r l)

/-- Participants of an episode, in order, that have not arrived. -/
def missingAt (s : State) (b : Episode) : List CoreId :=
  let all : List CoreId :=
    if b.wire = 3 then match s.launch b.vif b.lid with
      | some l => (stageCores l).filter fun c => !idleAtBarrier s l c
      | none => []
    else match s.reaction b.sgn b.x with
      | some r => (crewParticipants r b.wire b.index).map fun i => ⟨b.sgn, i⟩
      | none => []
  sortBy (fun a b => decide (a.sgn < b.sgn) || (a.sgn == b.sgn && decide (a.idx ≤ b.idx)))
    (all.filter fun c => !b.arrived.contains c)

/-- Whether a core waits at an episode, running. -/
def waitsAt (k : Core) (b : Episode) : Bool :=
  k.hold == .barrier && k.ctx.arrival == some ⟨b.wire, b.id⟩

/-- Where memory holds the phase count of a launch's reactions on a core (Table 14.5, BARRIER): in context records, and in the
steward frame while the steward has one. -/
def phasePlaces (s : State) (l : Launch) (c : CoreId) : List Nat :=
  let k := s.core c
  let mine := k.evicted.filter fun e => (s.reaction c.sgn e.x).any fun r => r.vif == l.vif && r.lid == l.lid
  let records := mine.filterMap fun e => evictedAt s c e.x
  let inSteward := k.ctx.level == .supervisor || k.saved.any (·.level == .supervisor)
    || records.any fun a => s.mem.readNat (a + 850) 1 % 4 == 1
  let frame := if inSteward then (s.vif l.vif).map fun f => pinnedAddr l.vif (f.p.saveBase + saveOffset c 2) else none
  (records ++ frame.toList).map (· + 884)

/-- A phase count in memory goes on by one. -/
def countPhase (m : Memory) (a : Nat) : Memory := m.writeNat a 4 (m.readNat a 4 + 1)

/-- Stage cores go to the next phase (R281), and with them what memory holds of their reactions (log 9). -/
def nextPhase (s : State) (l : Launch) : State :=
  (stageCores l).foldl (fun s c =>
    let k := s.core c
    let s : State := { s with mem := (phasePlaces s l c).foldl countPhase s.mem }
    s.setCore c { k with chans := [], phaseAt := k.cycle, ctx := { k.ctx with phase := k.ctx.phase + 1 } })
    (s.setLaunch { l with phase := l.phase + 1 })

/-- Whether a participant of an episode has a store in flight that it made before it arrived (R189). -/
def arrivedStores (s : State) (b : Episode) : Bool :=
  s.stores.any fun f => b.arrived.contains f.core && f.priv == .user && match f.x.bind (s.reaction f.core.sgn) with
    | some r => if b.wire < 3 then r.x == b.x else r.vif == b.vif && r.lid == b.lid
    | none => false

/-- `BARRIER_RELEASE` (R261 to R263, R265): every participant has arrived, and its stores are performed (R189); those that
wait retire their barriers, and one that is pre-empted will when it resumes. -/
def execBarrierRelease (n : Nat) (s : State) : Out :=
  match s.bars[n]? with
  | none => .next s
  | some b =>
    if !(missingAt s b).isEmpty || arrivedStores s b then .next s
    else
      let away := b.arrived.any fun c => !waitsAt (s.core c) b
      let u := { s with bars := s.bars.eraseIdx n, released := if away then s.released ++ [b.id] else s.released }
      let u := b.arrived.foldl (fun u c =>
        let k := s.core c
        if waitsAt k b then u.setCore c { goOn k with ctx := { (goOn k).ctx with arrival := none } } else u) u
      .next (if b.wire = 3 then match s.launch b.vif b.lid with
        | some l => nextPhase u l
        | none => u
        else u)

/-- `BAR_TIMEOUT` (R264): the participants that wait on their cores trap, and the episode is cancelled. -/
def execBarTimeout (n : Nat) (s : State) : Out :=
  match s.bars[n]? with
  | none => .next s
  | some b =>
    match missingAt s b, b.arrived with
    | low :: rest, first :: _ =>
      if b.limit = 0 ∨ ((s.core first).cycle - b.start).toNat < b.limit then .next s
      else
        let v := barValue b.wire (if b.wire ≤ 1 then b.index else 0) (rest.length + 1) low
        .next (b.arrived.foldl (fun u c =>
          let k := s.core c
          if waitsAt k b then trapOn (u.setCore c { k with hold := .none, ctx := { k.ctx with arrival := none } }) c .barTimeout v
          else u) { s with bars := s.bars.eraseIdx n })
    | _, _ => .next s

/-! ## Exchange (R282, R284, R335) -/

/-- The evicted reaction of a transfer's launch on the core that it is bound for (R335). -/
def evictedStage (s : State) (t : Transfer) : Option Nat :=
  ((s.core t.target).evicted.find? fun e => ((s.reaction t.target.sgn e.x).map fun r => r.vif == t.vif && r.lid == t.lid).getD
    false).map (·.x)

/-- Whether a transfer's sender has an older store in flight, which the transfer follows (R284). -/
def xferWaits (s : State) (t : Transfer) : Bool :=
  s.stores.any fun f => f.core == t.sender && f.priv == .user && f.x == some t.x && f.seq < t.seq

/-- Whether the pool that a transfer is bound for belongs to its VIF; nothing where it has to pass first and may, else whether it has to
wait (R291; log 80). -/
def xferPasses (s : State) (t : Transfer) : Option Bool :=
  let k := s.core t.target
  if k.owner = some t.vif ∨ linkDown s (.sg t.target.sgn) then some true
  else if k.rx.isNone ∧ k.run ≠ .running ∧ poolQuiet s t.target then none
  else some false

/-- A transfer lands in a pool of its VIF: one that is another VIF's, or nobody's, passes first, and the transfer waits until it may
(R282, R291; log 80). -/
def arriveTransfer (s rest : State) (t : Transfer) : State :=
  match xferPasses s t, s.vif t.vif with
  | some false, _ => s
  | none, some f => landTransfer (passCore rest t.target f) t
  | _, _ => landTransfer rest t

/-- `XMIT_ARRIVAL` (R282, R284): the transfer lands, or is refused. For a core whose stage reaction is evicted it goes to the
spill ring, or its sender's network interface holds it while that has no room (R335). -/
def execXmitArrival (n : Nat) (s : State) : Out :=
  match s.xfers[n]? with
  | none => .next s
  | some t =>
    let rest : State := { s with xfers := s.xfers.eraseIdx n }
    if xferWaits s t then .next s
    else .next (match evictedStage s t with
      | none => arriveTransfer s rest t
      | some x => (ringPut rest t.target x (.xfer { t with held := false })).getD
          { s with xfers := s.xfers.set n { t with held := true } })

/-! ## Requests of other devices (R311, R313) -/

/-- What an atomic of another device leaves, and the old value that it returns. -/
def remoteResult (old : Nat) : RemoteAccess → Option Nat
  | .add v => some (old + v.toNat)
  | .swap v => some v.toNat
  | .cas e v => if old = e.toNat then some v.toNat else none
  | _ => none

/-- Bytes that a request touches. -/
def remoteLength : RemoteAccess → Nat
  | .read n => n
  | .write d => d.length
  | _ => 8

/-- Bytes that a request and what it gives back carry: the operands of an atomic, and the old value (R293). -/
def remotePayload : RemoteAccess → Nat
  | .read n => n
  | .write d => d.length
  | .cas _ _ => 24
  | _ => 16

/-- Bytes that a request brings, performed or not: data, or the operands of an atomic (R293). -/
def remoteBrings : RemoteAccess → Nat
  | .read _ => 0
  | .write d => d.length
  | .cas _ _ => 16
  | _ => 8

/-- Whether a request is an atomic. -/
def isAtomic : RemoteAccess → Bool
  | .read _ => false
  | .write _ => false
  | _ => true

/-- Bytes written to pieces of physical memory. -/
def writePieces (s : State) (space : Nat) : List Mapped → List Byte → State
  | [], _ => s
  | p :: t, bs =>
    let a := if space = 2 then hbmAddr p.pa else captAddr p.pa
    writePieces { s with mem := s.mem.write a (bs.take p.len) [] } space t (bs.drop p.len)

/-- The endpoint of other devices, as `sent` numbers it for a VIF. -/
def peerPort (v : Nat) : Nat := 512 + v

/-- `REMOTE_REQUEST` (R311): performed under the VIF's own translation and leases; one outside them, one whose memory
cannot be reached and an atomic that is misaligned or meets poison are refused, and change nothing but the FAB weir, which is charged
for what they brought (R293). What is read goes back to the device. -/
def execRemoteRequest (v space va : Nat) (q : RemoteAccess) (s : State) : Out :=
  match endpoint s v with
  | none => .next s
  | some f =>
    let n := remoteLength q
    let granted := (f.leases.filter fun e => e.resident && e.space == space).map fun e => (e.va, e.len)
    let refused := charge s v 3 (remoteBrings q)
    if linkDown s .fabric then .next s
    else if !((space == 2 || space == 3) && covered granted (granted.length + 1) va n) || (isAtomic q && va % 8 != 0) then .next refused
    else match translate (vifPage f space) (n + 1) va n with
      | none => .next refused
      | some ps =>
        let at' := fun (p : Mapped) => if space = 2 then hbmAddr p.pa else captAddr p.pa
        let down := (translatedLocs ⟨0, 0⟩ space ps).any (locDown s)
        let bad := ps.any fun p => !(s.mem.poisonIn (at' p) p.len).isEmpty
        if down || (isAtomic q && bad) then .next refused
        else if space == 2 && !weirOpen s v 1 then .next s
        else
          let old := ps.flatMap fun p => s.mem.read (at' p) p.len
          let u := charge s v 3 (remotePayload q)
          let u := if space = 2 then charge u v 1 n else u
          .next (match q with
            | .read _ => u.send (peerPort v) old
            | .write d => writePieces u space ps d
            | q =>
              let u := match remoteResult (natOfBytes old) q with
                | some w => writePieces u space ps (bytesOfNat 8 w)
                | none => u
              u.send (peerPort v) old)

/-! ## Weirs (R294) -/

/-- `WEIR_REFILL` (R294). -/
def execWeirRefill (v : Nat) (s : State) : Out :=
  match s.vif v with
  | none => .next s
  | some f => .next (s.setVif { f with rem := (List.range f.rem.length).map fun w =>
      let b := f.p.budgets.getD w Config.unlimited
      let r := f.rem.getD w 0
      if b = Config.unlimited then r else min (r + b) b })

end Sys2Proof.Machine
end

