-- ==== Sys2Proof/Machine/Jet.lean ====
section
/-! DEFINITION. The JET major (R147 to R151, Table 7.5). -/

namespace Sys2Proof.Machine

/-- Steps 2 and 3 of R121 for a JET form (R147): `phys` are its physical registers, `jets` its jet numbers. -/
def jetCheck (s : State) (i : Instr) (t k : Nat) (phys jets : List Nat) : Res Unit := do
  guardTrap (t ≤ 1) .jetType (encodingOf i)
  legal i (phys.all (· < s.ctx.vcount) && jets.all (jetFits s) && k ≤ s.ctx.order)

/-- A register copied with its poison. -/
def copyRegister (s t : State) (src dst : Nat) : State :=
  vset t dst (vget s src) ((poolPoison s (128 * src) 128).map fun o => o - 128 * src + 128 * dst)

/-- Registers of a jet group from coefficient `lo` up, zeroed. -/
def zeroFrom (s : State) (N lo : Nat) : State :=
  let g := groupSize s.ctx.order
  (List.range (g - lo)).foldl (fun t c => vset t (g * N + lo + c) 0 []) s

/-- `jseed` (R148). -/
def execJseed (d a : BitVec 6) (t : BitVec 4) (s : State) : Out :=
  conclude s do
    jetCheck s (.jseed d a t) t.toNat 0 [a.toNat] [d.toNat]
    let g := groupSize s.ctx.order
    let one := joinLanes (widthOf t.toNat) (List.replicate (lanesOf t.toNat) (fmtOfType t.toNat).one)
    let u := copyRegister s s a.toNat (g * d.toNat)
    let u := if 1 ≤ s.ctx.order then vset u (g * d.toNat + 1) one [] else u
    .ok (zeroFrom u d.toNat (if 1 ≤ s.ctx.order then 2 else 1)).advance

/-- k! -/
def fact : Nat → Nat
  | 0 => 1
  | n + 1 => (n + 1) * fact n

/-- An exact multiple of a lane, rounded (R149, R151). -/
def scaleLane (r : Rounding) (w : Nat) (x : Nat) : Nat × Nat :=
  let (n, f) := roundEx r.fmt r.mode r.flush false (exScale w (unpack r.fmt r.flush x))
  (n, f ||| nanFlag r.fmt x)

/-- `jext` (R149). -/
def execJext (d a : BitVec 6) (k : BitVec 3) (t : BitVec 4) (r : BitVec 3) (s : State) : Out :=
  conclude s do
    jetCheck s (.jext d a k t r) t.toNat k.toNat [d.toNat] [a.toNat]
    let src := groupSize s.ctx.order * a.toNat + k.toNat
    match jetPoison s t.toNat [k.toNat] fun _ => [src] with
    | some p => trap .poisonUse p
    | none =>
      let (v, f) := oneLane t.toNat (scaleLane (roundingOf s t.toNat r.toNat) (fact k.toNat)) [vget s src]
      .ok (setJfl (vset s d.toNat v []) (jflOf [(k.toNat, f)])).advance

/-- `jcoef` (R150). -/
def execJcoef (d a : BitVec 6) (k : BitVec 3) (t : BitVec 4) (s : State) : Out :=
  conclude s do
    jetCheck s (.jcoef d a k t) t.toNat k.toNat [d.toNat] [a.toNat]
    .ok (copyRegister s s (groupSize s.ctx.order * a.toNat + k.toNat) d.toNat).advance

/-- `jset` (R150). -/
def execJset (d a : BitVec 6) (k : BitVec 3) (t : BitVec 4) (s : State) : Out :=
  conclude s do
    jetCheck s (.jset d a k t) t.toNat k.toNat [a.toNat] [d.toNat]
    let u := copyRegister s s a.toNat (groupSize s.ctx.order * d.toNat + k.toNat)
    .ok (zeroFrom u d.toNat (s.ctx.order + 1)).advance

/-- `jshift` and `jint`: `reads` are the positions read, and `f` makes of a lane's coefficients the result's. R145 has a jet instruction
read every coefficient and R151 drops one: the one that the form does not use is not examined for poison (DESIGN CHOICE, log 66). -/
def calculusOp (s : State) (i : Instr) (d a : Nat) (t : Nat) (reads : List Nat) (f : List Nat → List (Nat × Nat)) : Res State := do
  jetCheck s i t 0 [] [a, d]
  match jetPoison s t reads fun c => [groupSize s.ctx.order * a + c] with
  | some p => trap .poisonUse p
  | none =>
    let n := s.ctx.order
    let res := (jetRead s t a).map f
    let cs := (List.range (n + 1)).map fun c => res.map fun x => (x.getD c (0, 0)).1
    let fl := (List.range (n + 1)).map fun c => (c, res.foldl (fun k x => k ||| (x.getD c (0, 0)).2) 0)
    .ok (setJfl (jetWrite s t d cs) (jflOf fl)).advance

/-- `jshift` (R151): differentiation. -/
def execJshift (d a : BitVec 6) (t : BitVec 4) (r : BitVec 3) (s : State) : Out :=
  let n := s.ctx.order
  let ro := roundingOf s t.toNat r.toNat
  conclude s (calculusOp s (.jshift d a t r) d.toNat a.toNat t.toNat ((List.range n).map (· + 1)) fun c =>
    (List.range (n + 1)).map fun j => if j < n then scaleLane ro (j + 1) (co c (j + 1)) else (0, 0))

/-- `jint` (R151): integration with a zero constant. -/
def execJint (d a : BitVec 6) (t : BitVec 4) (r : BitVec 3) (s : State) : Out :=
  let n := s.ctx.order
  let ro := roundingOf s t.toNat r.toNat
  conclude s (calculusOp s (.jint d a t r) d.toNat a.toNat t.toNat (List.range n) fun c =>
    (List.range (n + 1)).map fun j =>
      if j = 0 then (0, 0)
      else
        let x := co c (j - 1)
        let (v, f) := roundDiv ro.fmt ro.mode ro.flush (unpack ro.fmt ro.flush x) (.fin false j 0)
        (v, f ||| nanFlag ro.fmt x))

/-- `jfl` (R152). -/
def execJfl (d : BitVec 5) (x : BitVec 1) (c : BitVec 3) (s : State) : Out :=
  let lo := 5 * c.toNat
  let v := bitsOf s.ctx.jfl.toNat lo 5
  let s' := if x = 1 then s.setCtx { s.ctx with jfl := BitVec.ofNat 64 (setBits s.ctx.jfl.toNat lo 5 0) } else s
  .next (s'.retire d.toNat (BitVec.ofNat 64 v))

end Sys2Proof.Machine
end

