-- ==== Sys2Proof/Machine/Translate.lean ====
section
/-! DEFINITION. Translation: fills, flushes and shoot-downs (R306 to R309, R345). -/

namespace Sys2Proof.Machine

/-- Pages of 64 KiB in a page of a SIZE (Table 13.7). -/
def pageUnits (size : Nat) : Nat := match size with
  | 0 => 1 | 1 => 2 ^ 5 | _ => 2 ^ 14

/-- `tlbw` (R307). -/
def execTlbw (d a : BitVec 5) (s : State) : Out :=
  conclude s do
    let i : Instr := .tlbw d a
    let w := (s.x d.toNat).toNat
    let b := (s.x a.toNat).toNat
    let size := bitsOf w 22 2
    legal i (s.ctx.level == .machine)
    legal i (bitsOf w 16 6 == 0 && bitsOf b 33 4 == 0 && size != 3 && bitsOf w 24 40 % pageUnits size == 0
      && bitsOf b 0 25 % pageUnits size == 0)
    legal i (sgEnabled s s.cur.sgn && (s.core ⟨s.cur.sgn, bitsOf b 25 8⟩).run != .outOfUse)
    let u : State := { s with fills := s.fills ++ [⟨s.cur.sgn, s.x d.toNat, s.x a.toNat⟩] }
    .ok u.advance

/-- Whether a generation is older than another (R308). -/
def genOlder (g newest : Nat) : Bool := 2 ^ 15 ≤ (g + 2 ^ 16 - newest) % 2 ^ 16

/-- The entry that a fill carries. -/
def fillEntry (f : Fill) : TlbEntry :=
  let w := f.a.toNat
  let b := f.b.toNat
  { vif := bitsOf b 40 8, space := if bit b 39 then 3 else 2, va := bitsOf w 24 40 * 2 ^ 16
    size := pageUnits (bitsOf w 22 2) * 2 ^ 16, pa := bitsOf b 0 25 * 2 ^ 16, lease := bitsOf w 0 16, write := bit b 38 }

/-- An entry put into a TLB: over one of the same VIF and page, its size with its address, into a free place, or over the least
recently used, which is the first (R307). -/
def putEntry (l : List TlbEntry) (e : TlbEntry) : List TlbEntry :=
  let rest := l.filter fun t => !(t.vif == e.vif && t.space == e.space && t.va == e.va && t.size == e.size)
  if rest.length < Config.tlbEntries then rest ++ [e] else rest.drop 1 ++ [e]

/-- The address of the access that a core holds for a miss: the last that its TSC has been told (R306). -/
def missAddress (s : State) (c : CoreId) : Nat :=
  ((s.core ⟨c.sgn, Config.tsc⟩).mail.foldl (fun (b : Nat) m => match m with
    | .miss k _ va _ kind => if k = c.idx ∧ kind ≠ Access.engine.code then va.toNat else b
    | _ => b) 0)

/-- The access that a core holds is tried again. -/
def retryMiss (s : State) (c : CoreId) : State :=
  let k := s.core c
  if k.hold = .miss then s.setCore c { k with hold := .none } else s

/-- Whether an address lies in the page of a fill. -/
def TlbEntry.holds (e : TlbEntry) (va : Nat) : Bool := e.va ≤ va && va < e.va + e.size

/-- The operation of a core that holds an access in the page of a fill (R306, R307). -/
def missedOp (s : State) (c : CoreId) (e : TlbEntry) : Option Nat :=
  s.ops.findIdx? fun o => o.core == c && (o.miss.map e.holds).getD false

/-- A fill with V = 0: the access that the target holds is outside every lease (R303, R307): that of the core, or of its
engine where it is that one's page. -/
def noTranslation (s : State) (c : CoreId) (e : TlbEntry) : State :=
  let mine := (s.core c).hold == .miss
  match if mine && e.holds (missAddress s c) then none else missedOp s c e with
  | some n => match s.ops[n]? with
    | some o => engineLease s n o (o.miss.getD 0)
    | none => s
  | none => if mine then { takeLeaseFault { s with cur := c } (missAddress s c) with cur := s.cur } else s

/-- `TLB_FILL` (R307, R308): the target takes the entry, or refuses it as too old, and what it holds is tried again. -/
def execTlbFill (n : Nat) (s : State) : Out :=
  match s.fills[n]? with
  | none => .next s
  | some f =>
    let c : CoreId := ⟨f.sgn, bitsOf f.b.toNat 25 8⟩
    let e := fillEntry f
    let s1 : State := { s with fills := s.fills.eraseIdx n }
    if !bit f.b.toNat 37 then .next (noTranslation s1 c e)
    else
      let k := s1.core c
      let old := ((k.gens.find? (·.1 == e.vif)).map fun g => genOlder (bitsOf f.b.toNat 48 16) g.2).getD false
      let s2 := if old then s1 else s1.setCore c { k with tlb := putEntry k.tlb e }
      let s3 : State := { s2 with ops := s2.ops.map fun o => if o.core = c then { o with miss := none } else o }
      .next (retryMiss s3 c)

/-- `tlbflush` (R345). -/
def execTlbflush (a : BitVec 5) (s : State) : Out :=
  conclude s do
    let w := (s.x a.toNat).toNat
    legal (.tlbflush a) (s.ctx.level == .machine && bitsOf w 9 55 == 0)
    .ok (s.setMe { s.me with tlb := s.me.tlb.filter fun e => !(bit w 8 || e.vif == bitsOf w 0 8) }).advance

/-- Cores that a VIF's mask permits (R290). -/
def permittedCores (p : VifParams) : List CoreId :=
  (List.range Config.sgs).flatMap fun g =>
    (List.range 256).filterMap fun c => if bit (p.mask.getD g 0) (tileIndex c) then some ⟨g, c⟩ else none

/-- `sdown` (R309, R345): the shoot-down sets out to every core of the VIF's mask that is not parked, and the form waits
for every acknowledgement. -/
def execSdown (a : BitVec 5) (s : State) : Out :=
  conclude s do
    let i : Instr := .sdown a
    legal i (s.ctx.level == .machine)
    if s.cur.idx = Config.tsc then .error (.fault .tscHasNoPool) else .ok ()
    let off := (s.x a.toNat).toNat
    guardTrap (s.ctx.scratch ≤ off && off + 32 ≤ Config.poolBytes) .capBounds (BitVec.ofNat 64 off)
    let bs := poolRead s off 32
    let va := fieldOf bs 8 8
    let len := fieldOf bs 16 8
    let gen := fieldOf bs 24 2
    legal i (va % 2 ^ 16 == 0 && len % 2 ^ 16 == 0)
    match s.vif (fieldOf bs 0 1) with
    | none => trap .illegal (encodingOf i)
    | some f =>
      legal i (gen == (f.gen + 1) % 2 ^ 16)
      let targets := (permittedCores f.p).filter fun c => sgEnabled s c.sgn && (s.core c).run != .parked && (s.core c).run != .outOfUse
      let u := s.setVif { f with gen := gen }
      let u := { u with shoots := u.shoots ++ targets.map fun c => Shootdown.mk c s.cur f.p.id va len gen false }
      if targets.isEmpty then .ok u.advance else .ok (u.setMe { u.me with hold := .sdown })

/-- A core keeps the newest generation of a VIF that it has received, and its entries of the VIF in a range are no more (R308,
R309). -/
def Core.shoot (k : Core) (vif va len gen : Nat) : Core :=
  { k with
    gens := if k.gens.any fun g => g.1 == vif && genOlder gen g.2 then k.gens else upsert (·.1 == vif) (vif, gen) k.gens
    tlb := k.tlb.filter fun e => !(e.vif == vif && e.va < va + len && va < e.va + e.size) }

/-- A shoot-down reaches its core, once (R309). -/
def receiveShootdown (s : State) (n : Nat) (f : Shootdown) : State :=
  if f.received then s
  else
    let k := s.core f.target
    { s with shoots := s.shoots.set n { f with received := true } }.setCore f.target
      { k.shoot f.vif f.va f.len f.gen with mail := k.mail ++ [MachineMail.shootdown f.vif f.va f.len f.gen] }

/-- `SHOOTDOWN_RECEIVE` (R309): the shoot-down reaches its core, which acknowledges it once every store that it made has been performed,
whichever entry it went through (log 81); with the last acknowledgement the `sdown` retires. -/
def execShootdownReceive (n : Nat) (s : State) : Out :=
  match s.shoots[n]? with
  | none => .next s
  | some f =>
    let s1 := receiveShootdown s n f
    if s.stores.any (·.core == f.target) then .next s1
    else
      let s2 := { s1 with shoots := s1.shoots.eraseIdx n }
      let o := s2.core f.origin
      if o.hold = .sdown ∧ !s2.shoots.any (·.origin == f.origin) then
        .next (s2.setCore f.origin { o with hold := .none, ctx := { o.ctx with pc := o.ctx.pc + 4 } })
      else .next s2

end Sys2Proof.Machine
end

