-- ==== Sys2Proof/Machine/Module.lean ====
section
/-! DEFINITION. Events of the module: its start, its clock, virtual interfaces, and failures (R19, R20, R23, R290, R294,
R317, R318, R328, R332, R341, R343, R344, R346). -/

namespace Sys2Proof.Machine

/-! ## Clock steps (R19) -/

/-- Whether Primin enforces limits and the delta die reports to interfaces (R19, R346). -/
def fromSafe (s : State) : Bool := s.stage != .off && s.stage != .cold

/-- An EVENT to every virtual interface; no rule states its VALUE (log 44). -/
def tellAll (s : State) (kind : Nat) : State :=
  s.vifs.foldl (fun t f => t.send f.p.id (eventMessage kind 0xFFFF (Config.openWord s.tick 0).toNat)) s

/-- `CLOCK_STEP_DOWN` (R19): one step of 47 MHz, to no less than 470 MHz. -/
def execClockStepDown (s : State) : Out :=
  .next (if fromSafe s ∧ 470 < s.clock then tellAll { s with clock := max 470 (s.clock - 47) } 0 else s)

/-- `CLOCK_STEP_UP` (R19): one step up, to the full 940 MHz. -/
def execClockStepUp (s : State) : Out :=
  .next (if fromSafe s ∧ s.clock < 940 then tellAll { s with clock := min 940 (s.clock + 47) } 0 else s)

/-! ## A destroyed tile (R343) -/

/-- `ESCROW_LOST` (R55, R343): the n-th tile of a unit, wherever it is, is DESTROYED, its loss goes to the dead-letter ring, and
its launch is bound for ABORTED. The words of the dead letter and the header's address in the record area are free (log
44). -/
def execEscrowLost (g n : Nat) (s : State) : Out :=
  match (s.unit g).tiles[n]? with
  | none => .next s
  | some t =>
    match s.launch t.vif t.lid with
    | none => .next s
    | some l =>
      if ¬ (l.state = .running ∨ l.state = .winding) then .next s
      else
        let w := Config.openWord s.tick
        let u := s.unit g
        let s1 := s.setUnit { u with tiles := u.tiles.eraseIdx n }
        let s2 := deadLetter s1 t.vif (w 1) (w 2) Cause.escrowLost.code ⟨(w 3).toNat % 32, (w 4).toNat % 257⟩
        let addr := (w 0).toNat
        .next (if l.state = .running then enterWinding s2 l .aborted addr
          else settleWinding (s2.setLaunch { l with status := .aborted, faultAddr := addr }) l.vif l.lid)

/-! ## Failures of links and routers (R181, R344) -/

/-- `LINK_FAILURE` (R181). -/
def execLinkFailure (l : Link) (s : State) : Out :=
  .next (if s.dead.contains l then s else { s with dead := s.dead ++ [l] })

/-- Whether an SG lies in a partition (R9, R344). -/
def inPartition (p : Partition) (g : Nat) : Bool :=
  match p with
  | .sg n => g == n
  | .reach n => g / 5 == n

/-- The SGs of a partition. -/
def partitionSgs (p : Partition) : List Nat := (List.range Config.sgs).filter (inPartition p)

/-- Whether a launch has cores in a partition: a disabled SG has none (R22). -/
def launchIn (s : State) (p : Partition) (l : Launch) : Bool :=
  (partitionSgs p).any fun g => sgEnabled s g && bitsOf (l.mask.getD g 0) 0 64 != 0

/-- Launches with cores in a partition end with ROUTER_RESET (R23, R344) from the states from which Table 3.10 lets them; one
that drains goes on (log 61). -/
def endLaunches (s : State) (p : Partition) : State :=
  (s.launches.filter fun l => l.state != .ended && l.state != .draining && launchIn s p l).foldl
    (fun u l => finishLaunch u l .routerReset 0) s

/-- A core as BRING-UP leaves it: a compute core idle, a translation service core in the resident handler (R320;
log 48). -/
def bootCore (c : CoreId) : Core :=
  if c.idx = Config.tsc then
    { Core.init with run := .running, ctx := { Ctx.init with level := .machine, space := .handler } }
  else Core.init

/-- The resident handler's bytes; those for a translation service core follow those for a compute core (log 11). -/
def residentBytes (c : CoreId) : List Byte :=
  (List.range Config.handlerBytes).map fun i =>
    Config.residentHandler (if c.idx = Config.tsc then Config.handlerBytes + i else i)

/-- The cores of an SG, its translation service core last. -/
def coresOf (g : Nat) : List CoreId := (List.range 257).map fun i => ⟨g, i⟩

/-- A core booted, with its resident handler written. -/
def boot (s : State) (c : CoreId) : State :=
  ({ s with mem := s.mem.write (handlerAddr c 0) (residentBytes c) [] } : State).setCore c (bootCore c)

/-- The cores of SGs, booted. -/
def bootSgs (s : State) (gs : List Nat) : State := (gs.flatMap coresOf).foldl boot s

/-- The reactions that are left in a partition's records, as those whose launches have ended are while stores or operations of
theirs are out: they leave with their context records, and the records' GEN goes on (R56, R332). -/
def freePartition (s : State) (p : Partition) : State :=
  ((s.units.filter fun u => inPartition p u.sgn).flatMap fun u => u.reactions.map (u.sgn, ·)).foldl (fun s r => freeRecord s r.1 r.2) s

/-- Agents of a partition and all that is on its way from them are reset (R344): cores hold nothing until the
self-test, units are empty but for the GENs of their records, and a shoot-down no longer waits for them. -/
def resetPartition (s : State) (p : Partition) : State :=
  let s := freePartition s p
  let mine := fun (c : CoreId) => inPartition p c.sgn
  let shoots := s.shoots.filter fun f => !(mine f.target || mine f.origin)
  { s with
    cores := s.cores.map fun c =>
      if mine c.1 then (c.1, Core.init)
      else if c.2.hold = .sdown ∧ !shoots.any (·.origin == c.1) ∧ s.shoots.any (·.origin == c.1) then
        (c.1, { c.2 with hold := .none, ctx := { c.2.ctx with pc := c.2.ctx.pc + 4 } })
      else c
    units := s.units.map fun u =>
      if inPartition p u.sgn then { u with tiles := [], reactions := [], launches := [], reserve := [], last := none } else u
    slots := s.slots.filter fun t => !inPartition p t.sgn
    stores := s.stores.filter fun f => !mine f.core
    ops := s.ops.filter fun o => !mine o.core
    xfers := s.xfers.filter fun f => !mine f.sender
    fills := s.fills.filter fun f => !inPartition p f.sgn
    shoots := shoots }

/-- `ROUTER_FAILURE` (R344): launches with cores in the partition end, and its self-test begins; until that ends its
links are dead links for every other access. -/
def execRouterFailure (p : Partition) (s : State) : Out :=
  .next (if (s.stage = .ready ∨ s.stage = .degraded) ∧ !s.testing.contains p ∧ (partitionSgs p).any (sgEnabled s) then
    let u := resetPartition (endLaunches s p) p
    { u with testing := u.testing ++ [p] }
  else s)

/-- The links of a partition. -/
def partitionLink : Partition → Link
  | .sg g => .sg g
  | .reach r => .reach r

/-- The enable bits without the SGs of a partition (R23). -/
def withoutPartition (en : BitVec 20) (p : Partition) : BitVec 20 :=
  BitVec.ofNat 20 (((List.range 20).filter fun g => bit en.toNat g && !inPartition p g).map fun g => 2 ^ g).sum

/-- `PARTITION_SELFTEST_DONE` (R23, R344): the partition returns, or is removed and the module is DEGRADED, which an EVENT
reports. -/
def execPartitionSelftestDone (p : Partition) (pass : Bool) (s : State) : Out :=
  if !s.testing.contains p then .next s
  else
    let gs := (partitionSgs p).filter (sgEnabled s)
    if pass then .next (bootSgs { s with testing := s.testing.filter (· != p) } gs)
    else
      let u := endLaunches s p
      let u := { u with testing := u.testing.filter (· != p), enabled := withoutPartition u.enabled p, stage := .degraded
                        dead := u.dead ++ [partitionLink p] }
      .next (tellAll u 1)

/-! ## Virtual interfaces (R290, R294, R332, R341) -/

/-- Whether an id is free: no interface has it, its launches have ended, and every core has left its pool (R290). -/
def idFree (s : State) (v : Nat) : Bool :=
  (s.vif v).isNone && !(s.launches.any fun l => l.vif == v && l.state != .ended)
    && !(s.cores.any fun c => c.2.owner == some v)

/-- Whether two ranges are apart. -/
def rangesApart (a n b m : Nat) : Bool := a + n ≤ b || b + m ≤ a

/-- Whether Primin may create an interface with these parameters (R246, R267, R290, R293, R294, R332, R341). -/
def paramsOk (p : VifParams) : Bool :=
  let save := ringOffset + 2 ^ 22
  p.id < 256 && 4096 ≤ p.per && p.per ≤ 2 ^ 24
    && p.budgets.length == 5 && (p.budgets.all fun b => 1 ≤ b && b ≤ Config.unlimited)
    && p.mask.length ≤ Config.sgs && (p.mask.all (· < 2 ^ 64))
    && p.saveBase % 2 ^ 16 == 0 && p.saveBase + save ≤ 2 ^ 56
    && p.recBase % 2 ^ 16 == 0 && p.recBase + recordAreaBytes ≤ 2 ^ 56 && p.window + 2 ^ 42 ≤ 2 ^ 56
    && rangesApart p.saveBase save p.recBase recordAreaBytes && rangesApart p.saveBase save p.window (2 ^ 42)
    && rangesApart p.recBase recordAreaBytes p.window (2 ^ 42)
    && p.bwCap % 4096 == 0 && 4096 ≤ p.bwCap && p.bwCap ≤ 1048576
    && ((List.range 11).any fun i => p.ringCap == 64 * 2 ^ i)
    && p.steward.length ≤ 4096

/-- An interface as Primin leaves it: every weir at its budget, no lease, no page, an empty sharding table. -/
def newVif (p : VifParams) : Vif where
  p := p
  rem := p.budgets.map fun (b : Nat) => (b : Int)
  leases := []
  pages := []
  gen := 0
  shards := [(0, ⟨[], []⟩)]
  injects := []
  buffers := []
  updates := []

/-- `VIF_CREATE` (R294, R332, R341): the pinned areas read zero, but for CAP in the dead-letter ring's header. -/
def execVifCreate (p : VifParams) (s : State) : Out :=
  .next (if (s.stage = .ready ∨ s.stage = .degraded) ∧ idFree s p.id ∧ paramsOk p then
    let m := (s.mem.clear (pinnedAddr p.id 0) (2 ^ 56)).clear (windowAddr p.id 0 0) (32 * 2 ^ 56)
    let m := m.writeNat (pinnedAddr p.id (p.saveBase + ringOffset + 24)) 4 p.ringCap
    let forget := fun (k : Core) => { k with
      tlb := k.tlb.filter (·.vif != p.id), gens := k.gens.filter (·.1 != p.id)
      lastVif := if k.lastVif = some p.id then none else k.lastVif }
    let s : State := { s with
      mem := m, launches := s.launches.filter (·.vif != p.id), cores := s.cores.map fun c => (c.1, forget c.2) }
    s.setVif (newVif p)
  else s)

/-- `VIF_DESTROY` (R290): done once every launch of the interface has ended and no core runs a reaction of it
(log 48). -/
def execVifDestroy (v : Nat) (s : State) : Out :=
  .next (if !(s.launches.any fun l => l.vif == v && l.state != .ended)
      ∧ !(s.units.any fun u => u.reactions.any (·.vif == v)) then
    { s with vifs := s.vifs.filter (·.p.id != v), launches := s.launches.filter (·.vif != v) }
  else s)

/-! ## Staged start (R20, R318, R320, R346) -/

/-- The module without power or just powered: all but what flash keeps is as after reset (log 3, log 48). What has been
sent, and the model's own schedule, stay. -/
def coldState (s : State) (stage : PowerStage) : State :=
  { State.reset with
    stage := stage, tick := s.tick, seq := s.seq, agenda := s.agenda, sent := s.sent
    primin := { s.primin with measured := [], failed := none, reports := [] } }

/-- `POWER_ON` (R346): power is applied, and then Primin, started from ROM, reaches SAFE. -/
def execPowerOn (s : State) : Out :=
  .next (match s.stage with
    | .off => coldState s .cold
    | .cold => { s with stage := .safe }
    | _ => s)

/-- Whether an image may run (R318). -/
def imagePasses (s : State) (f : FirmwareImage) : Bool := f.signed && s.primin.minVersion ≤ f.version

/-- `VERIFY` (R318, R346): images that pass are measured; one that fails keeps the module in SAFE. -/
def execVerify (images : List FirmwareImage) (s : State) : Out :=
  .next (if s.stage = .safe then
    { s with
      primin := { s.primin with measured := (images.filter (imagePasses s)).map (·.digest) }
      stage := if images.all (imagePasses s) then .verify else .safe }
  else s)

/-- `BRING_UP` (R20, R320, R346): after VERIFY the module enters the stage; at the end of the stage the SGs that pass are enabled
and the module is READY, and with fewer than 18 it goes back to SAFE, which identity replies report. -/
def execBringUp (passed : BitVec 20) (s : State) : Out :=
  .next (match s.stage with
    | .verify => { s with stage := .bringUp }
    | .bringUp =>
      if 18 ≤ countEnabled passed then
        bootSgs { s with stage := .ready, enabled := passed, primin := { s.primin with failed := none, reports := [] } }
          ((List.range Config.sgs).filter fun g => bit passed.toNat g)
      else { s with stage := .safe, enabled := passed, primin := { s.primin with failed := some passed } }
    | _ => s)

/-- `PRIMIN_RESET` (R346): every interface, lease and launch ends. -/
def execPriminReset (s : State) : Out :=
  .next (if s.stage = .off then s else coldState s .cold)

/-- `POWER_LOSS` (R317, R346): a signature index that was committed and not used is wasted. -/
def execPowerLoss (s : State) : Out :=
  .next (
    let t := coldState s .off
    let n := if s.stage ≠ .off ∧ Config.indexWasted s.tick then 1 else 0
    { t with primin := { t.primin with hssIndex := t.primin.hssIndex + n } })

/-- `CORE_RESTORE` (R328): Primin has a core that was reported to it in use again, as after BRING-UP. -/
def execCoreRestore (c : CoreId) (s : State) : Out :=
  .next (if (s.core c).run = .outOfUse then
    let s : State := { s with primin := { s.primin with reports := s.primin.reports.filter (· != c) } }
    s.setCore c { bootCore c with evicted := (s.core c).evicted, ring := (s.core c).ring, ibufPins := (s.core c).ibufPins }
  else s)

end Sys2Proof.Machine
end

