-- ==== Sys2Proof/Machine/Scalar.lean ====
section
/-! DEFINITION. Scalar integer and address arithmetic (R115, R116, Tables 6.1 and 6.2). -/

namespace Sys2Proof.Machine

/-- A scalar operation of two registers (R115). -/
def scalarOp (f : Word → Word → Word) (d a b : BitVec 5) (s : State) : Out :=
  .next (s.retire d.toNat (f (s.x a.toNat) (s.x b.toNat)))

/-- A scalar operation of a register and an immediate that is already widened (R78, R115). -/
def immediateOp (f : Word → Word → Word) (d a : BitVec 5) (v : Word) (s : State) : Out :=
  .next (s.retire d.toNat (f (s.x a.toNat) v))

/-- Bits [127:64] of the signed product. -/
def mulHigh (a b : Word) : Word := BitVec.ofInt 64 (a.toInt * b.toInt / 2 ^ 64)

/-- Bits [127:64] of the unsigned product. -/
def mulHighN (a b : Word) : Word := BitVec.ofNat 64 (a.toNat * b.toNat / 2 ^ 64)

/-- Signed quotient (R116): all ones for a zero divisor; −2^63 by −1 wraps to −2^63. -/
def quotientS (a b : Word) : Word := if b = 0 then BitVec.allOnes 64 else BitVec.ofInt 64 (Int.tdiv a.toInt b.toInt)

/-- Unsigned quotient (R116). -/
def quotientN (a b : Word) : Word := if b = 0 then BitVec.allOnes 64 else BitVec.ofNat 64 (a.toNat / b.toNat)

/-- Signed remainder, with the dividend's sign (R116). -/
def remainderS (a b : Word) : Word := if b = 0 then a else BitVec.ofInt 64 (Int.tmod a.toInt b.toInt)

/-- Unsigned remainder (R116). -/
def remainderN (a b : Word) : Word := if b = 0 then a else BitVec.ofNat 64 (a.toNat % b.toNat)

/-- 1 where a condition holds, else 0. -/
def boolWord (b : Bool) : Word := if b then 1 else 0

/-- `add` (Table 6.1). -/
def execAdd (d a b : BitVec 5) (s : State) : Out := scalarOp (fun a b => a + b) d a b s

/-- `sub` (Table 6.1). -/
def execSub (d a b : BitVec 5) (s : State) : Out := scalarOp (fun a b => a - b) d a b s

/-- `and` (Table 6.1). -/
def execAnd (d a b : BitVec 5) (s : State) : Out := scalarOp (fun a b => a &&& b) d a b s

/-- `or` (Table 6.1). -/
def execOr (d a b : BitVec 5) (s : State) : Out := scalarOp (fun a b => a ||| b) d a b s

/-- `xor` (Table 6.1). -/
def execXor (d a b : BitVec 5) (s : State) : Out := scalarOp (fun a b => a ^^^ b) d a b s

/-- `sll` (Table 6.1). -/
def execSll (d a b : BitVec 5) (s : State) : Out := scalarOp (fun a b => a <<< (b.toNat % 64)) d a b s

/-- `srl` (Table 6.1). -/
def execSrl (d a b : BitVec 5) (s : State) : Out := scalarOp (fun a b => a >>> (b.toNat % 64)) d a b s

/-- `sra` (Table 6.1). -/
def execSra (d a b : BitVec 5) (s : State) : Out := scalarOp (fun a b => a.sshiftRight (b.toNat % 64)) d a b s

/-- `mul` (Table 6.1). -/
def execMul (d a b : BitVec 5) (s : State) : Out := scalarOp (fun a b => a * b) d a b s

/-- `mulh` (Table 6.1). -/
def execMulh (d a b : BitVec 5) (s : State) : Out := scalarOp (fun a b => mulHigh a b) d a b s

/-- `mulhn` (Table 6.1). -/
def execMulhn (d a b : BitVec 5) (s : State) : Out := scalarOp (fun a b => mulHighN a b) d a b s

/-- `div` (Table 6.1). -/
def execDiv (d a b : BitVec 5) (s : State) : Out := scalarOp (fun a b => quotientS a b) d a b s

/-- `divn` (Table 6.1). -/
def execDivn (d a b : BitVec 5) (s : State) : Out := scalarOp (fun a b => quotientN a b) d a b s

/-- `rem` (Table 6.1). -/
def execRem (d a b : BitVec 5) (s : State) : Out := scalarOp (fun a b => remainderS a b) d a b s

/-- `remn` (Table 6.1). -/
def execRemn (d a b : BitVec 5) (s : State) : Out := scalarOp (fun a b => remainderN a b) d a b s

/-- `slt` (Table 6.1). -/
def execSlt (d a b : BitVec 5) (s : State) : Out := scalarOp (fun a b => boolWord (a.slt b)) d a b s

/-- `sltn` (Table 6.1). -/
def execSltn (d a b : BitVec 5) (s : State) : Out := scalarOp (fun a b => boolWord (a.ult b)) d a b s

/-- `min` (Table 6.1). -/
def execMin (d a b : BitVec 5) (s : State) : Out := scalarOp (fun a b => if a.slt b then a else b) d a b s

/-- `max` (Table 6.1). -/
def execMax (d a b : BitVec 5) (s : State) : Out := scalarOp (fun a b => if a.slt b then b else a) d a b s

/-- `minn` (Table 6.1). -/
def execMinn (d a b : BitVec 5) (s : State) : Out := scalarOp (fun a b => if a.ult b then a else b) d a b s

/-- `maxn` (Table 6.1). -/
def execMaxn (d a b : BitVec 5) (s : State) : Out := scalarOp (fun a b => if a.ult b then b else a) d a b s

/-- `sll` by the immediate SH (Table 6.1). -/
def execSllImm (d a : BitVec 5) (h : BitVec 6) (s : State) : Out :=
  immediateOp (fun a v => a <<< v.toNat) d a (h.zeroExtend 64) s

/-- `srl` by the immediate SH (Table 6.1). -/
def execSrlImm (d a : BitVec 5) (h : BitVec 6) (s : State) : Out :=
  immediateOp (fun a v => a >>> v.toNat) d a (h.zeroExtend 64) s

/-- `sra` by the immediate SH (Table 6.1). -/
def execSraImm (d a : BitVec 5) (h : BitVec 6) (s : State) : Out :=
  immediateOp (fun a v => a.sshiftRight v.toNat) d a (h.zeroExtend 64) s

/-- `addi` (Table 6.1, R78). -/
def execAddi (d a : BitVec 5) (i : BitVec 16) (s : State) : Out :=
  immediateOp (fun a v => a + v) d a (i.signExtend 64) s

/-- `lih` (Table 6.1, R78). -/
def execLih (d a : BitVec 5) (i : BitVec 16) (s : State) : Out :=
  immediateOp (fun a v => a + v * 65536) d a (i.signExtend 64) s

/-- `andi` (Table 6.1, R78). -/
def execAndi (d a : BitVec 5) (i : BitVec 16) (s : State) : Out :=
  immediateOp (fun a v => a &&& v) d a (i.zeroExtend 64) s

/-- `ori` (Table 6.1, R78). -/
def execOri (d a : BitVec 5) (i : BitVec 16) (s : State) : Out :=
  immediateOp (fun a v => a ||| v) d a (i.zeroExtend 64) s

/-- `xori` (Table 6.1, R78). -/
def execXori (d a : BitVec 5) (i : BitVec 16) (s : State) : Out :=
  immediateOp (fun a v => a ^^^ v) d a (i.zeroExtend 64) s

end Sys2Proof.Machine
end

