-- ==== Sys2Proof/Machine/Shard.lean ====
section
/-! DEFINITION. Loads of sharded tensors (R208, R310, R311). -/

namespace Sys2Proof.Machine

/-- The device and the virtual address of an element (R311). -/
def shardPlace (e : Shard) (c : List Nat) : Nat × Nat :=
  let at' := fun (d : Nat) =>
    let i := c.getD d 0
    let blk := max 1 (e.blk.getD d 1)
    let pg := max 1 (e.pg.getD d 1)
    let b := i / blk
    (b % pg, b / pg * blk + i % blk, (e.ext.getD d 1 + blk * pg - 1) / (blk * pg) * blk, pg)
  let (p, l, _, _) := (List.range 4).foldr (fun d (t : Nat × Nat × Nat × Nat) =>
    let (pd, ld, le, pg) := at' d
    (pd + pg * t.1, ld + le * t.2.1, le, pg)) (0, 0, 0, 0)
  (e.devBase + p, (e.va + 2 ^ e.esl * l) % 2 ^ 56)

/-- The entry of a tensor in the version that the running launch reads (R208, R312). -/
def shardEntry (s : State) (tensor : Nat) : Option Shard :=
  match s.myLaunch, s.myVif.bind s.vif with
  | some l, some f =>
    ((f.table l.shards).entries.find? (·.tensor == tensor)).filter (·.valid)
  | _, _ => none

/-- Whether the peer table of that version gives the endpoint of a device (R311, R312). -/
def knownPeer (s : State) (dev : Nat) : Bool :=
  match s.myLaunch, s.myVif.bind s.vif with
  | some l, some f => (f.table l.shards).peers.any (·.1 == dev)
  | _, _ => false

/-- What both forms ask first: the handle, the entry, the element size and the coordinates (R208). R208 has VA[55:10] zero and names
no trap for a handle where it is not: such a handle names no entry, and raises what an empty one raises (DESIGN CHOICE, log 82). -/
def shardCheck (s : State) (k : BitVec 4) (x : BitVec 5) (t : BitVec 4) : Res (Shard × List Nat) := do
  let key := s.k k.toNat
  let w := s.x x.toNat
  capCheck s.ctx.level key key.addr 1 permLoad
  guardTrap (key.space == 6) .capPerm key.addr
  guardTrap (key.format < 12 && blogOk key.format key.blog) .formatReserved key.addr
  match if key.va / 2 ^ 10 = 0 then shardEntry s key.va else none with
  | none => trap .capPerm w
  | some e =>
    guardTrap (8 * 2 ^ e.esl == widthOf t.toNat) .formatNotAddressable w
    let c := (List.range 4).map fun d => bitsOf w.toNat (16 * d) 16
    guardTrap ((List.range 4).all fun d => c.getD d 0 < e.ext.getD d 1) .capBounds w
    .ok (e, c)

/-- One element: its bytes, the poison of each, and what it moves (R311). An element of another device is free
(log 21). -/
def shardElement (s : State) (w : Word) (e : Shard) (c : List Nat) : Res (List Byte × List Bool × Word × Moved) := do
  let (dev, va) := shardPlace e c
  let n := 2 ^ e.esl
  let a : Word := BitVec.ofNat 64 va
  if dev = Config.ownDevice then
    let ls ← locate s e.space a n .load
    readable s ls w
    .ok (readLocs s ls, badBytes s ls, a, movedTo e.space n ls)
  else
    guardTrap (knownPeer s dev && !s.dead.contains .fabric && !Config.foreignRefuses s.tick) .memUncorr w
    let at' := foreignAddr 5 (s.myVif.getD 0) va + 2 ^ 80 * dev
    .ok ((List.range n).map fun i => Config.foreignByte s.tick (at' + i), List.replicate n false, a, movedTo 5 n [])

/-- `ldt` (R208). -/
def execLdt (d : BitVec 5) (k : BitVec 4) (x : BitVec 5) (t : BitVec 4) (s : State) : Out :=
  conclude s do
    let (e, c) ← shardCheck s k x t
    let (bs, bad, a, m) ← shardElement s (s.x x.toNat) e c
    guardTrap (!bad.any id) .poisonUse a
    let v := natOfBytes bs
    let v : Word := if t = 6 ∨ t = 7 then signExtend (8 * m.bytes) v else BitVec.ofNat 64 v
    issueAll s (s.retire d.toNat v) [m]

/-- `vldt` (R208): lane e reads (i₀ + e, i₁, i₂, i₃); a lane past the extent is zero. -/
def execVldt (d : BitVec 6) (k : BitVec 4) (x : BitVec 5) (t : BitVec 4) (s : State) : Out :=
  conclude s do
    legal (.vldt d k x t) (d.toNat < s.ctx.vcount)
    let (e, c) ← shardCheck s k x t
    let w := widthOf t.toNat / 8
    let ls ← (List.range (lanesOf t.toNat)).mapM fun l =>
      let i := c.getD 0 0 + l
      if i < e.ext.getD 0 1 then (shardElement s (s.x x.toNat) e (i :: c.drop 1)).map some else .ok none
    let bytes := ls.flatMap fun r => match r with
      | some r => r.1
      | none => List.replicate w 0
    let bad := ls.map fun r => match r with
      | some r => r.2.1.any id
      | none => false
    let grans := (List.range 4).filterMap fun g =>
      if (List.range bad.length).any fun i => bad.getD i false && w * i / 32 == g then some (128 * d.toNat + 32 * g) else none
    issueAll s (vset s d.toNat (natOfBytes bytes) grans).advance
      (ls.filterMap fun r => r.map fun r => r.2.2.2)

end Sys2Proof.Machine
end

