-- ==== Sys2Proof/Machine/System.lean ====
section
/-! DEFINITION. System forms: calls and returns, system registers, fences, waits, hints, unassigned words (R69, R84, R85,
R195 to R198, R325 to R327, R345). -/

namespace Sys2Proof.Machine

/-- `ecall` (R326). -/
def execEcall (n : BitVec 10) (s : State) : Out := conclude s (trap .ecall (n.zeroExtend 64))

/-- The current core's reaction ends by `tret` with END = 1, as an abort by this member, and its core becomes idle with it
(R325). -/
def endByReturn (s : State) (r : Reaction) : State :=
  let u := beginAbort s s.cur.sgn r
  u.setMe { u.me with hold := .ending, saved := none, preempted := false, ctx := { u.ctx with level := .user } }

/-- What a return to the reaction delivers: its spill ring, for a steward (R339) and for a handler that had pre-empted the
reaction in place (R335). -/
def ringAfter (s t : State) : State :=
  match s.me.rx with
  | some x => if s.ctx.level = .supervisor ∨ s.me.preempted then deliverRing t s.cur x else t
  | none => t

/-- `tret` (R325): with END = 0 the return, unless the handler is to have its reaction evicted (R254); with END = 1 the
reaction ends. A compute core whose reaction has been stopped becomes idle (R344). -/
def execTret (s : State) : Out :=
  conclude s do
    legal .tret (s.ctx.level != .user)
    let status := if s.ctx.level = .machine then s.me.mstatus else s.ctx.tstatus
    match s.myReaction with
    | none =>
      if s.cur.idx ≠ Config.tsc ∨ bit status.toNat 8 then .ok (s.setMe s.me.leave) else returnFrom s .tret
    | some r =>
      if bit status.toNat 8 then
        if frameBusy s then .error (.hold s) else .ok (endByReturn s r)
      else if s.ctx.level = .machine ∧ evictDue s then .error (.hold s)
      else do
        let t ← returnFrom s .tret
        .ok (ringAfter s t)

/-! ## System registers (R69) -/

/-- The value of a system register; nothing for a number that is not assigned. -/
def sysRead (s : State) (n : Nat) : Option Word :=
  if n < 20 then (sysRegs s s.cur)[n]?
  else match n with
    | 0x100 => some s.ctx.tcause
    | 0x101 => some s.ctx.tvalue
    | 0x102 => some s.ctx.tpc
    | 0x103 => some s.ctx.tstatus
    | 0x200 => some s.me.mcause
    | 0x201 => some s.me.mvalue
    | 0x202 => some s.me.mpc
    | 0x203 => some s.me.mstatus
    | _ => none

/-- Whether a level reaches a register number (R69). -/
def reaches (lv : Level) (n : Nat) : Bool := n / 2 ^ 8 ≤ 3 && (if n < 0x100 then true else if n < 0x200 then lv != .user else lv == .machine)

/-- `srr` (R327). -/
def execSrr (d : BitVec 5) (n : BitVec 10) (s : State) : Out :=
  conclude s do
    let i : Instr := .srr d n
    legal i (reaches s.ctx.level n.toNat)
    match sysRead s n.toNat with
    | none => trap .illegal (encodingOf i)
    | some v => .ok (s.retire d.toNat v)

/-- A system register written, with its reserved bits discarded (R4) and its value checks; nothing where the write is
ILLEGAL (R69, R100, R137, R322). -/
def sysWrite (s : State) (n : Nat) (v : Word) : Option State :=
  let c := s.ctx
  let k := s.me
  match n with
  | 0x000 => if bitsOf v.toNat 0 3 < 5 then some (s.setCtx { c with round := v &&& 0xF }) else none
  | 0x001 => some (s.setCtx { c with fflags := v &&& 0x3F })
  | 0x002 => if v.toNat < 8 then some (s.setCtx { c with jord := v }) else none
  | 0x003 => some (s.setCtx { c with jfl := v &&& 0xFFFFFFFFFF })
  | 0x004 => some (s.setCtx { c with amax := c.amax.setIfInBounds 0 (v &&& 0xFFFFFFFF) })
  | 0x005 => some (s.setCtx { c with amax := c.amax.setIfInBounds 1 (v &&& 0xFFFFFFFF) })
  | 0x006 => some (s.setCtx { c with amax := c.amax.setIfInBounds 2 (v &&& 0xFFFFFFFF) })
  | 0x007 => some (s.setCtx { c with amax := c.amax.setIfInBounds 3 (v &&& 0xFFFFFFFF) })
  | 0x00E => some (s.setCtx { c with bartimeout := v &&& 0xFFFFFFFF })
  | 0x010 => some (s.setCtx { c with evec := v &&& 0xFFFD })
  | 0x013 => some (s.setCtx { c with epc := v &&& 0xFFFC })
  | 0x100 => some (s.setCtx { c with tcause := v &&& 0x800000000000FFFF })
  | 0x101 => some (s.setCtx { c with tvalue := v })
  | 0x102 => some (s.setCtx { c with tpc := v })
  | 0x103 => some (s.setCtx { c with tstatus := v &&& 0x131 })
  | 0x200 => some (s.setMe { k with mcause := v &&& 0x800000000000FFFF })
  | 0x201 => some (s.setMe { k with mvalue := v })
  | 0x202 => some (s.setMe { k with mpc := v })
  | 0x203 =>
    let w := v &&& 0x133
    some (s.setMe { k with mstatus := if w &&& 3 = 3 then (w &&& 0x130) ||| (k.mstatus &&& 3) else w })
  | _ => none

/-- `srw` (R327). -/
def execSrw (a : BitVec 5) (n : BitVec 10) (s : State) : Out :=
  conclude s do
    let i : Instr := .srw a n
    legal i (reaches s.ctx.level n.toNat)
    match sysWrite s n.toNat (s.x a.toNat) with
    | none => trap .illegal (encodingOf i)
    | some t => .ok t.advance

/-! ## Fence (R195 to R198) -/

/-- The status word of a fence: bits by OR, the counts added up, saturating (Table 9.3; log 43). -/
def fenceStatus (ps : List (BitVec 16)) : Nat :=
  let flags := ps.foldl (fun n p => n ||| bitsOf p.toNat 0 3) 0
  let count := Nat.min 255 (ps.map fun p => bitsOf p.toNat 8 8).sum
  count * 2 ^ 8 + flags

/-- `fence` (R196): it waits for every store of its agent in flight where its predecessor set holds stores, and where it holds loads for
those of open read streams, which stand at their `qopen` (R213); every other load, and a command, is done when it retires (log 5). -/
def execFence (d : BitVec 5) (scope p _u : BitVec 3) (s : State) : Out :=
  conclude s do
    if bit p.toNat 1 && ownStores s then .error (.hold s)
    else do
      if bit p.toNat 2 then afterStreams s else .ok ()
      let c := s.ctx
      let ls := (List.range 7).filter (· ≤ scope.toNat)
      let st := fenceStatus (ls.map fun n => c.pending.getD n 0)
      let u := s.setCtx { c with pending := ls.foldl (fun v n => v.setIfInBounds n 0) c.pending }
      .ok (u.retire d.toNat (BitVec.ofNat 64 st))

/-! ## Waits, hints and unassigned words -/

/-- `wfe` (R345). -/
def execWfe (s : State) : Out :=
  if (!s.ctx.events.isEmpty && bit s.ctx.evec.toNat 0) || !s.me.irqs.isEmpty then .next s.advance
  else .next (holdFrom s .wfe)

/-- `halt` (R345): the core parks, and goes on at the next instruction when it wakes. -/
def execHalt (s : State) : Out :=
  conclude s do
    legal .halt (s.ctx.level == .machine)
    let u := s.advance
    .ok (u.setMe { u.me with run := .parked })

/-- `hint` (R85). -/
def execHint (_h : BitVec 26) (s : State) : Out := .next s.advance

/-- A word that nothing assigns (R84). -/
def execUnassignedWord (w : BitVec 32) (s : State) : Out := conclude s (trap .illegal (w.zeroExtend 64))

end Sys2Proof.Machine
end

