-- ==== Sys2Proof/Machine/Dispatch.lean ====
section
/-! DEFINITION. Which meaning each instruction and event has. -/

namespace Sys2Proof.Machine

/-- The effect of an instruction of the current core, or of an event. -/
def exec (i : Instr) (s : State) : Host.Outcome State Fault Refusal :=
  match i with
  | .add d a b => Sys2Proof.Machine.execAdd d a b s
  | .sub d a b => Sys2Proof.Machine.execSub d a b s
  | .and d a b => Sys2Proof.Machine.execAnd d a b s
  | .or d a b => Sys2Proof.Machine.execOr d a b s
  | .xor d a b => Sys2Proof.Machine.execXor d a b s
  | .sll d a b => Sys2Proof.Machine.execSll d a b s
  | .srl d a b => Sys2Proof.Machine.execSrl d a b s
  | .sra d a b => Sys2Proof.Machine.execSra d a b s
  | .sllImm d a sc => Sys2Proof.Machine.execSllImm d a sc s
  | .srlImm d a sc => Sys2Proof.Machine.execSrlImm d a sc s
  | .sraImm d a sc => Sys2Proof.Machine.execSraImm d a sc s
  | .mul d a b => Sys2Proof.Machine.execMul d a b s
  | .mulh d a b => Sys2Proof.Machine.execMulh d a b s
  | .mulhn d a b => Sys2Proof.Machine.execMulhn d a b s
  | .div d a b => Sys2Proof.Machine.execDiv d a b s
  | .divn d a b => Sys2Proof.Machine.execDivn d a b s
  | .rem d a b => Sys2Proof.Machine.execRem d a b s
  | .remn d a b => Sys2Proof.Machine.execRemn d a b s
  | .slt d a b => Sys2Proof.Machine.execSlt d a b s
  | .sltn d a b => Sys2Proof.Machine.execSltn d a b s
  | .min d a b => Sys2Proof.Machine.execMin d a b s
  | .max d a b => Sys2Proof.Machine.execMax d a b s
  | .minn d a b => Sys2Proof.Machine.execMinn d a b s
  | .maxn d a b => Sys2Proof.Machine.execMaxn d a b s
  | .addi d a im => Sys2Proof.Machine.execAddi d a im s
  | .lih d a im => Sys2Proof.Machine.execLih d a im s
  | .andi d a im => Sys2Proof.Machine.execAndi d a im s
  | .ori d a im => Sys2Proof.Machine.execOri d a im s
  | .xori d a im => Sys2Proof.Machine.execXori d a im s
  | .beq a b o => Sys2Proof.Machine.execBeq a b o s
  | .bne a b o => Sys2Proof.Machine.execBne a b o s
  | .blt a b o => Sys2Proof.Machine.execBlt a b o s
  | .bge a b o => Sys2Proof.Machine.execBge a b o s
  | .bltn a b o => Sys2Proof.Machine.execBltn a b o s
  | .bgen a b o => Sys2Proof.Machine.execBgen a b o s
  | .jal d o => Sys2Proof.Machine.execJal d o s
  | .jalr d a im => Sys2Proof.Machine.execJalr d a im s
  | .ldb d k im sc o => Sys2Proof.Machine.execLdb d k im sc o s
  | .ldbn d k im sc o => Sys2Proof.Machine.execLdbn d k im sc o s
  | .ldh d k im sc o => Sys2Proof.Machine.execLdh d k im sc o s
  | .ldhn d k im sc o => Sys2Proof.Machine.execLdhn d k im sc o s
  | .ldw d k im sc o => Sys2Proof.Machine.execLdw d k im sc o s
  | .ldwn d k im sc o => Sys2Proof.Machine.execLdwn d k im sc o s
  | .ldd d k im sc o => Sys2Proof.Machine.execLdd d k im sc o s
  | .ldk d k im sc o => Sys2Proof.Machine.execLdk d k im sc o s
  | .stb d k im sc o => Sys2Proof.Machine.execStb d k im sc o s
  | .sth d k im sc o => Sys2Proof.Machine.execSth d k im sc o s
  | .stw d k im sc o => Sys2Proof.Machine.execStw d k im sc o s
  | .std d k im sc o => Sys2Proof.Machine.execStd d k im sc o s
  | .stk d k im sc o => Sys2Proof.Machine.execStk d k im sc o s
  | .amoAdd d k x sc c w => Sys2Proof.Machine.execAmoAdd d k x sc c w s
  | .amoSwap d k x sc c w => Sys2Proof.Machine.execAmoSwap d k x sc c w s
  | .amoCas d k x sc c w => Sys2Proof.Machine.execAmoCas d k x sc c w s
  | .amoMax d k x sc c w n => Sys2Proof.Machine.execAmoMax d k x sc c w n s
  | .amoMin d k x sc c w n => Sys2Proof.Machine.execAmoMin d k x sc c w n s
  | .amoAnd d k x sc c w => Sys2Proof.Machine.execAmoAnd d k x sc c w s
  | .amoOr d k x sc c w => Sys2Proof.Machine.execAmoOr d k x sc c w s
  | .vld d k im sc t o => Sys2Proof.Machine.execVld d k im sc t o s
  | .vst d k im sc t o => Sys2Proof.Machine.execVst d k im sc t o s
  | .vadd d a b t r q => Sys2Proof.Machine.execVadd d a b t r q s
  | .vsub d a b t r q => Sys2Proof.Machine.execVsub d a b t r q s
  | .vmul d a b t r q => Sys2Proof.Machine.execVmul d a b t r q s
  | .vdiv d a b t r q => Sys2Proof.Machine.execVdiv d a b t r q s
  | .vmin d a b t q => Sys2Proof.Machine.execVmin d a b t q s
  | .vmax d a b t q => Sys2Proof.Machine.execVmax d a b t q s
  | .vfma d a b t r q => Sys2Proof.Machine.execVfma d a b t r q s
  | .vfms d a b t r q => Sys2Proof.Machine.execVfms d a b t r q s
  | .vsqrt d a t r q => Sys2Proof.Machine.execVsqrt d a t r q s
  | .vrcp d a t r q => Sys2Proof.Machine.execVrcp d a t r q s
  | .vrsqrt d a t r q => Sys2Proof.Machine.execVrsqrt d a t r q s
  | .vexp d a t r q => Sys2Proof.Machine.execVexp d a t r q s
  | .vlog d a t r q => Sys2Proof.Machine.execVlog d a t r q s
  | .vsin d a t r q => Sys2Proof.Machine.execVsin d a t r q s
  | .vcos d a t r q => Sys2Proof.Machine.execVcos d a t r q s
  | .vtanh d a t r q => Sys2Proof.Machine.execVtanh d a t r q s
  | .vneg d a t q => Sys2Proof.Machine.execVneg d a t q s
  | .vabs d a t q => Sys2Proof.Machine.execVabs d a t q s
  | .vmov d a t q => Sys2Proof.Machine.execVmov d a t q s
  | .vcmp d a b t r q => Sys2Proof.Machine.execVcmp d a b t r q s
  | .vsel d a b t q => Sys2Proof.Machine.execVsel d a b t q s
  | .vperm d a b t q => Sys2Proof.Machine.execVperm d a b t q s
  | .vredAdd d a t r q => Sys2Proof.Machine.execVredAdd d a t r q s
  | .vredMin d a t q => Sys2Proof.Machine.execVredMin d a t q s
  | .vredMax d a t q => Sys2Proof.Machine.execVredMax d a t q s
  | .vcvt d a x sc t r q => Sys2Proof.Machine.execVcvt d a x sc t r q s
  | .vcvtAmax d a m sc t r q => Sys2Proof.Machine.execVcvtAmax d a m sc t r q s
  | .vand d a b t q => Sys2Proof.Machine.execVand d a b t q s
  | .vor d a b t q => Sys2Proof.Machine.execVor d a b t q s
  | .vxor d a b t q => Sys2Proof.Machine.execVxor d a b t q s
  | .vsll d a b t q => Sys2Proof.Machine.execVsll d a b t q s
  | .vsrl d a b t q => Sys2Proof.Machine.execVsrl d a b t q s
  | .vsra d a b t q => Sys2Proof.Machine.execVsra d a b t q s
  | .vcopysign d a b t q => Sys2Proof.Machine.execVcopysign d a b t q s
  | .jseed d a t => Sys2Proof.Machine.execJseed d a t s
  | .jext d a k t r => Sys2Proof.Machine.execJext d a k t r s
  | .jcoef d a k t => Sys2Proof.Machine.execJcoef d a k t s
  | .jset d a k t => Sys2Proof.Machine.execJset d a k t s
  | .jshift d a t r => Sys2Proof.Machine.execJshift d a t r s
  | .jint d a t r => Sys2Proof.Machine.execJint d a t r s
  | .mma a b c x y h m => Sys2Proof.Machine.execMma a b c x y h m s
  | .mzero c h => Sys2Proof.Machine.execMzero c h s
  | .mrd a c v d => Sys2Proof.Machine.execMrd a c v d s
  | .mwr a c v d => Sys2Proof.Machine.execMwr a c v d s
  | .mld a b c h f k => Sys2Proof.Machine.execMld a b c h f k s
  | .mst a b c h f k => Sys2Proof.Machine.execMst a b c h f k s
  | .mxsend a b k => Sys2Proof.Machine.execMxsend a b k s
  | .mstat a c => Sys2Proof.Machine.execMstat a c s
  | .ecopy a b => Sys2Proof.Machine.execEcopy a b s
  | .eget a b => Sys2Proof.Machine.execEget a b s
  | .eput a b => Sys2Proof.Machine.execEput a b s
  | .egather a b => Sys2Proof.Machine.execEgather a b s
  | .escatter a b => Sys2Proof.Machine.execEscatter a b s
  | .eremap a b => Sys2Proof.Machine.execEremap a b s
  | .epool a b => Sys2Proof.Machine.execEpool a b s
  | .emerge a b => Sys2Proof.Machine.execEmerge a b s
  | .esend a b => Sys2Proof.Machine.execEsend a b s
  | .tread d l => Sys2Proof.Machine.execTread d l s
  | .twait l a => Sys2Proof.Machine.execTwait l a s
  | .evret => Sys2Proof.Machine.execEvret s
  | .tissue d l => Sys2Proof.Machine.execTissue d l s
  | .qopen q k m => Sys2Proof.Machine.execQopen q k m s
  | .qadv q => Sys2Proof.Machine.execQadv q s
  | .qend d q => Sys2Proof.Machine.execQend d q s
  | .qclose q => Sys2Proof.Machine.execQclose q s
  | .ldt d k im t => Sys2Proof.Machine.execLdt d k im t s
  | .vldt d k im t => Sys2Proof.Machine.execVldt d k im t s
  | .rget k n => Sys2Proof.Machine.execRget k n s
  | .rkey d f n => Sys2Proof.Machine.execRkey d f n s
  | .talloc k im => Sys2Proof.Machine.execTalloc k im s
  | .emit k => Sys2Proof.Machine.execEmit k s
  | .commit => Sys2Proof.Machine.execCommit s
  | .abort => Sys2Proof.Machine.execAbort s
  | .susp l a => Sys2Proof.Machine.execSusp l a s
  | .yield => Sys2Proof.Machine.execYield s
  | .part d a n => Sys2Proof.Machine.execPart d a n s
  | .crewid d => Sys2Proof.Machine.execCrewid d s
  | .crewrel => Sys2Proof.Machine.execCrewrel s
  | .wmem d a k n => Sys2Proof.Machine.execWmem d a k n s
  | .pause => Sys2Proof.Machine.execPause s
  | .barRow => Sys2Proof.Machine.execBarRow s
  | .barCol => Sys2Proof.Machine.execBarCol s
  | .barSg => Sys2Proof.Machine.execBarSg s
  | .xmit a k => Sys2Proof.Machine.execXmit a k s
  | .xsel d a => Sys2Proof.Machine.execXsel d a s
  | .ipf a n => Sys2Proof.Machine.execIpf a n s
  | .ipin a n => Sys2Proof.Machine.execIpin a n s
  | .iunpin a n => Sys2Proof.Machine.execIunpin a n s
  | .psplit a => Sys2Proof.Machine.execPsplit a s
  | .kbound d a k => Sys2Proof.Machine.execKbound d a k s
  | .kperm d a k => Sys2Proof.Machine.execKperm d a k s
  | .kaddr d a k => Sys2Proof.Machine.execKaddr d a k s
  | .kformat d a k => Sys2Proof.Machine.execKformat d a k s
  | .kbase d k => Sys2Proof.Machine.execKbase d k s
  | .kseal d k m => Sys2Proof.Machine.execKseal d k m s
  | .kunseal d k m => Sys2Proof.Machine.execKunseal d k m s
  | .klease d a k => Sys2Proof.Machine.execKlease d a k s
  | .kgaddr d k => Sys2Proof.Machine.execKgaddr d k s
  | .kglen d k => Sys2Proof.Machine.execKglen d k s
  | .kgbase d k => Sys2Proof.Machine.execKgbase d k s
  | .kgperm d k => Sys2Proof.Machine.execKgperm d k s
  | .kgspace d k => Sys2Proof.Machine.execKgspace d k s
  | .kgtag d k => Sys2Proof.Machine.execKgtag d k s
  | .ecall im => Sys2Proof.Machine.execEcall im s
  | .tret => Sys2Proof.Machine.execTret s
  | .srr d im => Sys2Proof.Machine.execSrr d im s
  | .srw a im => Sys2Proof.Machine.execSrw a im s
  | .fence d c p u => Sys2Proof.Machine.execFence d c p u s
  | .tlbw d a => Sys2Proof.Machine.execTlbw d a s
  | .tlbflush a => Sys2Proof.Machine.execTlbflush a s
  | .mboxSend d a => Sys2Proof.Machine.execMboxSend d a s
  | .mboxBind d a => Sys2Proof.Machine.execMboxBind d a s
  | .mboxUnbind d a => Sys2Proof.Machine.execMboxUnbind d a s
  | .sdown a => Sys2Proof.Machine.execSdown a s
  | .wfe => Sys2Proof.Machine.execWfe s
  | .halt => Sys2Proof.Machine.execHalt s
  | .jfl d x c => Sys2Proof.Machine.execJfl d x c s
  | .vldx d a k sc t => Sys2Proof.Machine.execVldx d a k sc t s
  | .vstx d a k sc t => Sys2Proof.Machine.execVstx d a k sc t s
  | .hint h => Sys2Proof.Machine.execHint h s
  | .launch vif msg => Sys2Proof.Machine.execLaunch vif msg s
  | .inject vif msg => Sys2Proof.Machine.execInject vif msg s
  | .drain vif msg => Sys2Proof.Machine.execDrain vif msg s
  | .leaseGrant vif msg => Sys2Proof.Machine.execLeaseGrant vif msg s
  | .leaseRevoke vif msg => Sys2Proof.Machine.execLeaseRevoke vif msg s
  | .leaseShardingEntry vif msg => Sys2Proof.Machine.execLeaseShardingEntry vif msg s
  | .leasePeer vif msg => Sys2Proof.Machine.execLeasePeer vif msg s
  | .cancel vif msg => Sys2Proof.Machine.execCancel vif msg s
  | .queryLaunchState vif msg => Sys2Proof.Machine.execQueryLaunchState vif msg s
  | .queryVifWeirs vif msg => Sys2Proof.Machine.execQueryVifWeirs vif msg s
  | .queryAttestation msg => Sys2Proof.Machine.execQueryAttestation msg s
  | .leaseResident vif lease pages => Sys2Proof.Machine.execLeaseResident vif lease pages s
  | .injectRoomAccept vif => Sys2Proof.Machine.execInjectRoomAccept vif s
  | .admission vif lid => Sys2Proof.Machine.execAdmission vif lid s
  | .matchDecision sgn vif lid => Sys2Proof.Machine.execMatchDecision sgn vif lid s
  | .tileArrival n => Sys2Proof.Machine.execTileArrival n s
  | .backwaterReturn sgn vif lid => Sys2Proof.Machine.execBackwaterReturn sgn vif lid s
  | .transitEntry n => Sys2Proof.Machine.execTransitEntry n s
  | .reactionPickup c => Sys2Proof.Machine.execReactionPickup c s
  | .overlayLoadComplete sgn tile slot => Sys2Proof.Machine.execOverlayLoadComplete sgn tile slot s
  | .reactionCommit sgn x => Sys2Proof.Machine.execReactionCommit sgn x s
  | .reactionAbort sgn x => Sys2Proof.Machine.execReactionAbort sgn x s
  | .cycleLimit vif lid => Sys2Proof.Machine.execCycleLimit vif lid s
  | .slackWave vif lid => Sys2Proof.Machine.execSlackWave vif lid s
  | .drainWrite vif lid => Sys2Proof.Machine.execDrainWrite vif lid s
  | .operationComplete n => Sys2Proof.Machine.execOperationComplete n s
  | .remoteStepApply c => Sys2Proof.Machine.execRemoteStepApply c s
  | .mmaStepComplete c => Sys2Proof.Machine.execMmaStepComplete c s
  | .eventTaken c => Sys2Proof.Machine.execEventTaken c s
  | .storeCompletion n => Sys2Proof.Machine.execStoreCompletion n s
  | .wmemTimeout c x => Sys2Proof.Machine.execWmemTimeout c x s
  | .pauseExpiry c => Sys2Proof.Machine.execPauseExpiry c s
  | .wfeTimeout c => Sys2Proof.Machine.execWfeTimeout c s
  | .barrierRelease n => Sys2Proof.Machine.execBarrierRelease n s
  | .barTimeout n => Sys2Proof.Machine.execBarTimeout n s
  | .xselTimeout c => Sys2Proof.Machine.execXselTimeout c s
  | .xmitArrival n => Sys2Proof.Machine.execXmitArrival n s
  | .mailboxDelivery n => Sys2Proof.Machine.execMailboxDelivery n s
  | .tlbFill n => Sys2Proof.Machine.execTlbFill n s
  | .shootdownReceive n => Sys2Proof.Machine.execShootdownReceive n s
  | .remoteRequest vif space va access => Sys2Proof.Machine.execRemoteRequest vif space va access s
  | .interruptPreempt c => Sys2Proof.Machine.execInterruptPreempt c s
  | .interruptSwitch c => Sys2Proof.Machine.execInterruptSwitch c s
  | .interruptWind c => Sys2Proof.Machine.execInterruptWind c s
  | .interruptWake c => Sys2Proof.Machine.execInterruptWake c s
  | .eviction c sound => Sys2Proof.Machine.execEviction c sound s
  | .restore c sound => Sys2Proof.Machine.execRestore c sound s
  | .weirRefill vif => Sys2Proof.Machine.execWeirRefill vif s
  | .clockStepDown => Sys2Proof.Machine.execClockStepDown s
  | .clockStepUp => Sys2Proof.Machine.execClockStepUp s
  | .escrowLost sgn n => Sys2Proof.Machine.execEscrowLost sgn n s
  | .linkFailure l => Sys2Proof.Machine.execLinkFailure l s
  | .routerFailure p => Sys2Proof.Machine.execRouterFailure p s
  | .partitionSelftestDone p pass => Sys2Proof.Machine.execPartitionSelftestDone p pass s
  | .tileVifSwitch sgn tile vif => Sys2Proof.Machine.execTileVifSwitch sgn tile vif s
  | .vifCreate p => Sys2Proof.Machine.execVifCreate p s
  | .vifDestroy vif => Sys2Proof.Machine.execVifDestroy vif s
  | .powerOn => Sys2Proof.Machine.execPowerOn s
  | .verify images => Sys2Proof.Machine.execVerify images s
  | .bringUp passed => Sys2Proof.Machine.execBringUp passed s
  | .priminReset => Sys2Proof.Machine.execPriminReset s
  | .unassignedWord w => Sys2Proof.Machine.execUnassignedWord w s
  | .powerLoss => Sys2Proof.Machine.execPowerLoss s
  | .coreRestore c => Sys2Proof.Machine.execCoreRestore c s

end Sys2Proof.Machine
end

