-- ==== Sys2Proof/Machine/Settle.lean ====
section
/-! DEFINITION. What follows every turn, and the turns that no agent's instruction has: accesses of engines and of read
streams, and errors of memory (R175, R191, R213, R229, R236, R253, R342). -/

namespace Sys2Proof.Machine

/-- What follows from every step: waits whose condition is met end (R253, R275), commands that network interfaces hold move
on (R174), reactions of launches that have ended free their records (R191), and reservations are dropped and made (R236). -/
def settle (s : State) : State :=
  let s := settleEnded (settleCmdOut (settleWaits s))
  { s with units := s.units.map (settleReserve s) }

/-- What follows an instruction or event of the current core: the cycles of an instruction, and `settle`. -/
def finish (i : Instr) (s t : State) : State := settle (if isCode i then spend { t with cur := s.cur } else t)

/-! ## A stream reads ahead (R210, R213) -/

/-- What a piece would be read as ahead of its instruction: nothing where it cannot be read now, its weir is exhausted (R295), or it
stands behind a store of its own agent or an earlier load of a stream (R188, R192, R213). -/
def aheadOf (s : State) (q : StreamReg) (p : Nat) (w : Need) : Option (Ahead × Moved) :=
  match locate s w.space (BitVec.ofNat 64 w.addr) w.len .load with
  | .error _ => none
  | .ok ls =>
    if loadHeld s q.since ls || (unmade s.ctx.level q p).any (needMeets s q ls) || ls.any (locDown s) then none
    else some (⟨w.unit, w.space, w.addr % 2 ^ 56, readLocs s ls, badBytes s ls, []⟩, movedTo w.space w.len ls)

/-- Piece k of those that an open stream of a core needs for position p is read ahead of the instruction that reaches it, and charged
as it issues (R210, R213, R293, R295; log 5). -/
def prefetch (s : State) (c : CoreId) (n p k : Nat) : State :=
  let t := { s with cur := c }
  let q := t.q n
  if !(ownStreams t).contains q || p < q.pos || q.total ≤ p then s
  else match ((neededAhead t.ctx.level q p)[k]?).bind (aheadOf t q p) with
    | some (e, m) => match issueAll t (t.setQ n { q with ahead := q.ahead ++ [e] }) [m] with
      | .ok u => { u with cur := s.cur }
      | .error _ => s
    | none => s

/-! ## Errors of memory (R342) -/

/-- An uncorrectable error poisons the granule of an address of a pool, of HBM, of the capacity tier or of instruction memory, whose
bytes are then as they are found; a poisoned line of instruction memory is refetched as it is fetched (Table 14.10; log 62). -/
def upset (s : State) (a : Nat) : State := if a < 5 * 2 ^ 64 then { s with mem := s.mem.spoil [a / 32] } else s

/-- An error of a row of Table 14.10 that is corrected changes nothing but the count for Primin (R342; log 62). -/
def countCorrected (s : State) (row : Nat) : State :=
  { s with primin := { s.primin with
    corrected := s.primin.corrected.setIfInBounds row (s.primin.corrected.getD row 0 + 1) } }

/-! ## Turns of the machine's own -/

/-- The turns that are no core's and no event's: one access of an engine, one piece read ahead, an error of memory,
uncorrectable or corrected. -/
def ownTurn (s : State) : Turn → Out
  | .engine n => engineTurn n s
  | .prefetch c q p k => .next (prefetch s c q p k)
  | .upset a => .next (upset s a)
  | .corrected r => .next (countCorrected s r)
  | _ => .next s

end Sys2Proof.Machine
end

