-- ==== Sys2Proof/Machine/Step.lean ====
section
/-! DEFINITION. One step of the machine, and the state in which a given instruction runs next. -/

namespace Sys2Proof.Machine

/-- What a turn's instruction or event answers, settled. -/
def runTurn (i : Instr) (s : State) : Host.Outcome State Fault Refusal :=
  match exec i s with
  | .next u => .next (finish i s u)
  | .fault f => .fault f
  | .refused r => .refused r

/-- One step: the next turn begins, its instruction or event takes effect, or its access is made, and what follows it is
settled (log 1). -/
def step (s : State) : Host.Outcome State Fault Refusal :=
  let n := nextTurn s
  match begin' n.1 n.2 with
  | (t, some i) => runTurn i t
  | (t, none) =>
    match ownTurn t n.2 with
    | .next u => .next (settle u)
    | .fault f => .fault f
    | .refused r => .refused r

/-- `s` with an instruction word where `step` fetches its next instruction (log 2). -/
def State.withFetchWord (s : State) (_nbits w : Nat) : State :=
  let v := BitVec.ofNat 32 w
  probe s [v.extractLsb' 0 8, v.extractLsb' 8 8, v.extractLsb' 16 8, v.extractLsb' 24 8]

end Sys2Proof.Machine
end

