-- ==== Sys2Proof/Safety.lean ====
section
/-! DEFINITION. What counts as a safe step, the invariants that claims name, and the frames in which they say what an
instruction leaves as it was. -/

namespace Sys2Proof

open Machine

/-- A step that goes on: neither a fault nor a refusal of the model. -/
def Safe (s : State) : Prop := ∃ t, step s = .next t

/-- The memory is in its canonical form. -/
def MemWf (s : State) : Prop := s.mem.wf

/-- The instruction or event answers a next state, and that state has a property. -/
def Answers (i : Instr) (s : State) (P : State → Prop) : Prop := ∃ t, exec i s = .next t ∧ P t

/-! ## Frames -/

/-- Every core but the current one is as before. -/
def OtherCores (s t : State) : Prop := ∀ c, c ≠ s.cur → t.core c = s.core c

/-- Of the current core only its context may differ, and the other cores are as before. -/
def CoreFrame (s t : State) : Prop := OtherCores s t ∧ { t.me with ctx := s.ctx } = s.me

/-- Nothing but the context of the current core may differ; every byte of memory reads as before. -/
def OnlyCtx (s t : State) : Prop :=
  { t with cores := s.cores } = s ∧ CoreFrame s t ∧ ∀ a, t.mem.byteAt a = s.mem.byteAt a

/-- Every scalar register but `d` is as before, in the bank that INEV selects and in the other (R67). -/
def KeepsX (c u : Ctx) (d : Nat) : Prop :=
  ∀ (bank : Bool) (i : Nat), i ≠ d ∨ (bank ≠ c.inev ∧ 24 ≤ i) → ({ u with inev := bank } : Ctx).getX i = ({ c with inev := bank } : Ctx).getX i

/-- A context in which `d` holds `v`, unless `d` is `x0`, which reads zero; PC has gone on by four; nothing else differs. -/
def ScalarCtx (c u : Ctx) (d : Nat) (v : Word) (pc : Nat) : Prop :=
  u.getX d = (if d = 0 then 0 else v) ∧ u.pc = pc ∧ KeepsX c u d ∧ { u with x := c.x, shadow := c.shadow, pc := c.pc } = c

/-- A scalar result and nothing else (R66). -/
def ScalarTo (s t : State) (d : Nat) (v : Word) : Prop := OnlyCtx s t ∧ ScalarCtx s.ctx t.ctx d v (s.ctx.pc + 4)

/-- A capability result and nothing else (R66). -/
def CapTo (s t : State) (d : Nat) (v : Cap) : Prop :=
  OnlyCtx s t ∧ t.k d = v ∧ (∀ i, i ≠ d → t.k i = s.k i) ∧ t.ctx.pc = s.ctx.pc + 4
    ∧ { t.ctx with k := s.ctx.k, pc := s.ctx.pc } = s.ctx

/-- Nothing but the PC of the current core differs. -/
def GoesOn (s t : State) : Prop := OnlyCtx s t ∧ t.ctx = { s.ctx with pc := s.ctx.pc + 4 }

/-- Memory outside `n` bytes at `a` is as before: bytes, poison and tags. -/
def SameOutside (m m' : Memory) (a n : Nat) : Prop :=
  (∀ b, b < a ∨ a + n ≤ b → m'.byteAt b = m.byteAt b)
    ∧ (∀ g, 32 * g + 32 ≤ a ∨ a + n ≤ 32 * g → (g ∈ m'.poison ↔ g ∈ m.poison))
    ∧ (∀ g, 16 * g + 16 ≤ a ∨ a + n ≤ 16 * g → (g ∈ m'.tags ↔ g ∈ m.tags))

/-- Whether an address lies in one of some runs. -/
def inLocs (ls : List Loc) (b : Nat) : Bool := ls.any fun l => l.addr ≤ b && b < l.addr + l.len

/-- A store to runs: memory and the stores in flight may differ, but every byte outside the runs reads as before; stores that
were in flight still are, and those that have come lie within the runs. -/
def StoreFrame (s t : State) (ls : List Loc) : Prop :=
  (∀ b, inLocs ls b = false → t.mem.byteAt b = s.mem.byteAt b)
    ∧ ∃ new, t.stores = s.stores ++ new ∧ ∀ f ∈ new, ∀ i < f.bytes.length, inLocs ls (f.addr + i) = true

/-- The weirs that accesses need are open (R293). -/
def weirsOpen (s : State) (moved : List Moved) : Bool := match s.myVif with
  | some v => movesOpenAt s v moved
  | none => true

/-- The interfaces once accesses are charged (R293). -/
def chargedVifs (s : State) (moved : List Moved) : List Vif := match s.myVif with
  | some v => (chargeAll s v moved).vifs
  | none => s.vifs

/-- A state with the accesses of an instruction made: they are charged to their weirs, and the translations that they use are
the most recently used (R293, R307). -/
def accessed (s : State) (moved : List Moved) : State :=
  { s.useTlb (moved.flatMap (·.used)) with vifs := chargedVifs s moved }

/-- Runs that hold what is stored to them: none lies outside the module, and none discards stores. -/
def plainLocs (ls : List Loc) : Bool := ls.all fun l => !l.foreign && !l.sink

/-- Runs that lie in the module, keep what is stored to them and are apart from one another. -/
def apart (ls : List Loc) : Prop :=
  plainLocs ls = true ∧ ls.Pairwise (fun l m => l.addr + l.len ≤ m.addr ∨ m.addr + m.len ≤ l.addr) ∧ ∀ l ∈ ls, 0 < l.granule

/-- Bytes stored to runs by the agent that runs: the pieces that have gone on their way are its own and younger than all before,
and once they are performed the runs hold the bytes, and each granule has the tag that is said (R181, R185, R202). -/
def Lands (s t : State) (ls : List Loc) (bs : List Byte) (tag : Nat → Bool) : Prop :=
  ∃ (new : List InFlight) (m : Memory), t.stores = s.stores ++ new
    ∧ (∀ f ∈ new, isOwn s f = true ∧ s.seq ≤ f.seq ∧ f.seq < t.seq)
    ∧ m = new.foldl (fun m f => f.perform m) t.mem ∧ readLocs { t with mem := m } ls = bs
    ∧ ∀ b, inLocs ls b = true → m.tagAt b = tag b

/-- Of a state whose accesses are made, nothing but memory, the stores in flight and the context of the current core differs. -/
def StoreOnly (a t : State) : Prop :=
  CoreFrame a t ∧ { t with cores := a.cores, mem := a.mem, stores := a.stores, seq := a.seq } = a

/-- The core that waits for an item of a spill ring, or made it. -/
def itemSender : RingItem → CoreId
  | .mail m => m.sender
  | .cmd m => m.sender
  | .xfer t => t.sender

/-- A group of a rule of a launch at a unit (R36, R39, R239, R257): a tile of the launch for each position, no two the same, each
of its species and without a read-lock where it is consumed, all of one home, for which the joins, the guard and the SEQ hold. -/
structure IsGroup (l : Launch) (u : CUnit) (i : Nat) (ts : List Tile) : Prop where
  rule : i < l.image.rules.length ∧ (l.image.rules.getD i default).cls ≤ 3
  size : ts.length = (l.image.rules.getD i default).species.length
  free : ∀ k ∈ ts, k ∈ u.tiles ∧ k.vif = l.vif ∧ k.lid = l.lid ∧ k.place ≠ .escrow
  apart : ts.Pairwise fun j k => j.id ≠ k.id
  stands : ∀ n k, ts[n]? = some k → standsAt l.image (l.image.rules.getD i default) n k = true
  home : ∀ j ∈ ts, ∀ k ∈ ts, homeValue l.image j.hdr = homeValue l.image k.hdr
  holds : joinsHold (l.image.rules.getD i default) (ts.map (·.hdr)) = true ∧ guardHolds (l.image.rules.getD i default) (ts.map (·.hdr)) = true
    ∧ seqHolds l i (l.image.rules.getD i default) (ts.map (·.hdr)) = true

/-- A tile of a group at a position that its rule consumes. -/
def ConsumedAt (l : Launch) (i : Nat) (ts : List Tile) (p : Nat) (t : Tile) : Prop :=
  ts[p]? = some t ∧ bit (l.image.rules.getD i default).cats p = false

/-- No spill ring of an SG holds anything for a record. -/
def NoRing (s : State) (g x : Nat) : Prop := ∀ k ∈ s.cores, k.1.sgn = g → ∀ e ∈ k.2.ring, e.x ≠ x

/-- The running reaction of the current core, at user level (R266). -/
def runs (s : State) (r : Reaction) : Prop := s.myReaction = some r ∧ s.ctx.level = .user

/-! ## What rounding gives (R99, R103, R104) -/

/-- A magnitude of a format in units of its smallest subnormal (R92). -/
def unitsOf' (f : Fmt) (n : Nat) : Nat := match n / 2 ^ f.mbits with
  | 0 => n
  | e + 1 => (2 ^ f.mbits + n % 2 ^ f.mbits) * 2 ^ e

/-- Whether an encoding is finite. -/
abbrev isFinite (f : Fmt) (n : Nat) : Prop := n < 2 ^ f.width ∧ n % f.signBit ≤ f.maxBits

/-- The value of a finite encoding in those units, as an operand (R92, R104). -/
def valueUnits (f : Fmt) (flush : Bool) (n : Nat) : Int :=
  let m := n % f.signBit
  let u : Int := if flush ∧ f.flushes = true ∧ m < 2 ^ f.mbits then 0 else unitsOf' f m
  if n < f.signBit then u else -u

/-- R99, R103, R104: a result and its flags are num / den · 2^e, above zero, with the sign, rounded once in a mode: the value at or
next to it that the mode names, or what Table 5.3 gives an overflow; tininess is that of the value rounded at an unbounded exponent,
where the values below the smallest normal one are half as far apart; and a subnormal result is flushed where FLUSH says so. -/
def IsRounded (f : Fmt) (mode : Nat) (flush sat neg : Bool) (num den : Nat) (e : Int) (r : Nat × Nat) : Prop :=
  let a := num * 2 ^ (e - f.minExp).toNat
  let b := den * 2 ^ (f.minExp - e).toNat
  let down := mode = 1 ∨ (mode = 2 ∧ neg = true) ∨ (mode = 3 ∧ neg = false)
  let up := (mode = 2 ∧ neg = false) ∨ (mode = 3 ∧ neg = true)
  let sign := if neg then f.signBit else 0
  let largest := unitsOf' f f.maxBits
  let next := largest + 2 ^ (f.maxBits / 2 ^ f.mbits - 1)
  let overflows := (down → next * b ≤ a) ∧ (up → largest * b < a)
    ∧ (¬ down → ¬ up → (largest + next) * b ≤ 2 * a ∧ (mode = 0 → f.maxBits % 2 = 0 → (largest + next) * b ≠ 2 * a))
  let tiny := (down → a < 2 ^ f.mbits * b) ∧ (up → 2 * a ≤ (2 ^ (f.mbits + 1) - 1) * b)
    ∧ (¬ down → ¬ up → 4 * a < (2 ^ (f.mbits + 2) - 1) * b)
  let off := fun (k : Nat) => ((unitsOf' f k * b : Nat) - (a : Int)).natAbs
  (overflows → (sat = true ∨ down → r = (sign + f.maxBits, 5)) ∧ (sat = false → ¬ down → r = (f.infBits neg, 5)))
    ∧ (¬ overflows → ∃ n, n ≤ f.maxBits ∧ (down → unitsOf' f n * b ≤ a ∧ ∀ k, k ≤ f.maxBits → unitsOf' f k * b ≤ a → k ≤ n)
      ∧ (up → a ≤ unitsOf' f n * b ∧ ∀ k, k ≤ f.maxBits → a ≤ unitsOf' f k * b → n ≤ k)
      ∧ (¬ down → ¬ up → ∀ k, k ≤ f.maxBits → off n ≤ off k ∧ (k ≠ n → off n = off k → (mode = 0 → n % 2 = 0) ∧ (mode = 4 → k < n)))
      ∧ (flush = true ∧ f.flushes = true ∧ 0 < n ∧ n < 2 ^ f.mbits → r = (sign, 3))
      ∧ (¬ (flush = true ∧ f.flushes = true ∧ 0 < n ∧ n < 2 ^ f.mbits) → r.1 = sign + n
        ∧ (off n = 0 → r.2 = 0) ∧ (off n ≠ 0 → (tiny → r.2 = 3) ∧ (¬ tiny → r.2 = 1))))

/-- The formats whose rounding the spec states (Table 5.1). -/
def roundedFormats : List Fmt := [fp64, fp32, fp16, bf16, e5m2, e4m3, a36, w72]

/-! ## What the vector and jet forms compute -/

/-- A vector form with `jord` at zero: SQ, VD, the source fields in order, the TYPE of the source lanes, whether it
carries poison (R122), and the 128 bytes and the flags of its result, from lane `l` of source `n`. -/
structure VectorForm where
  sq      : Nat
  dst     : Nat
  srcs    : List Nat
  type    : Nat
  carries : Bool
  bytes   : (Nat → Nat → Nat) → List Byte
  flags   : (Nat → Nat → Nat) → Nat

/-- A result of lanes of a TYPE, each with its flags (R120, R124). -/
def laneBytes (t : Nat) (f : Nat → Nat × Nat) : List Byte :=
  (List.range (lanesOf t)).flatMap fun l => bytesOfNat (widthOf t / 8) (f l).1

/-- The flags of all lanes together (R101). -/
def laneFlags (t : Nat) (f : Nat → Nat × Nat) : Nat := (List.range (lanesOf t)).foldl (fun k l => k ||| (f l).2) 0

/-- A form that acts lane by lane: lanes of TYPE `t` give lanes of TYPE `u`. -/
def laneForm (q d : Nat) (srcs : List Nat) (t u : Nat) (f : (Nat → Nat → Nat) → Nat → Nat × Nat) : VectorForm :=
  ⟨q, d, srcs, t, false, fun v => laneBytes u (f v), fun v => laneFlags u (f v)⟩

/-- The tree of R107 over 2^n lanes: at each level lane 2i with lane 2i + 1. -/
def pairTree (f : Nat → Nat → Nat × Nat) (v : Nat → Nat) : Nat → Nat → Nat × Nat
  | 0, i => (v i, 0)
  | n + 1, i =>
    let a := pairTree f v n (2 * i)
    let b := pairTree f v n (2 * i + 1)
    ((f a.1 b.1).1, a.2 ||| b.2 ||| (f a.1 b.1).2)

/-- A reduction (R132): the tree's value in lane 0. -/
def treeForm (q d a t : Nat) (f : Nat → Nat → Nat × Nat) : VectorForm :=
  let r := fun (v : Nat → Nat → Nat) => pairTree f (v 0) (Nat.log2 (lanesOf t)) 0
  ⟨q, d, [a], t, false, fun v => bytesOfNat 128 (r v).1, fun v => (r v).2⟩

/-- The vector forms of Table 6.3 and of R126 to R134, with the arithmetic of R95 on integer TYPEs. -/
def vectorForm (s : State) : Instr → Option VectorForm :=
  let c := s.ctx
  let two := fun (d a b : BitVec 6) (t : BitVec 4) (q : BitVec 1) (f : Nat → Nat → Nat × Nat) =>
    some (laneForm q.toNat d.toNat [a.toNat, b.toNat] t.toNat t.toNat fun v l => f (v 0 l) (v 1 l))
  let three := fun (d a b : BitVec 6) (t : BitVec 4) (q : BitVec 1) (f : Nat → Nat → Nat → Nat × Nat) =>
    some (laneForm q.toNat d.toNat [a.toNat, b.toNat, d.toNat] t.toNat t.toNat fun v l => f (v 0 l) (v 1 l) (v 2 l))
  let one := fun (d a : BitVec 6) (t : BitVec 4) (q : BitVec 1) (f : Nat → Nat × Nat) =>
    some (laneForm q.toNat d.toNat [a.toNat] t.toNat t.toNat fun v l => f (v 0 l))
  let arith := fun (t : BitVec 4) (g : Int → Int → Int) (h : Fmt → Nat → Nat → Nat × Nat) (x y : Nat) =>
    if isInt t.toNat then (wrap (widthOf t.toNat) (g (intOf t.toNat x) (intOf t.toNat y)), 0) else h (fmtOfType t.toNat) x y
  let fn := fun (n : Fn) (d a : BitVec 6) (t : BitVec 4) (r : BitVec 3) (q : BitVec 1) =>
    one d a t q (fnLane n t.toNat (c.rmode r.toNat) c.flush)
  let w := fun (t : BitVec 4) => widthOf t.toNat
  let logic := fun (d a b : BitVec 6) (t : BitVec 4) (q : BitVec 1) (f : Nat → Nat → Nat) => two d a b t q fun x y => (f x y, 0)
  fun i => match i with
  | .vadd d a b t r q => two d a b t q (arith t (· + ·) fun f => fpAdd f (c.rmode r.toNat) c.flush)
  | .vsub d a b t r q => two d a b t q (arith t (· - ·) fun f => fpSub f (c.rmode r.toNat) c.flush)
  | .vmul d a b t r q => two d a b t q (arith t (· * ·) fun f => fpMul f (c.rmode r.toNat) c.flush)
  | .vdiv d a b t r q => two d a b t q (fpDiv (fmtOfType t.toNat) (c.rmode r.toNat) c.flush)
  | .vmin d a b t q => two d a b t q (arith t min fun f => fpMinMax f c.flush false)
  | .vmax d a b t q => two d a b t q (arith t max fun f => fpMinMax f c.flush true)
  | .vfma d a b t r q => three d a b t q (fpFma (fmtOfType t.toNat) (c.rmode r.toNat) c.flush false)
  | .vfms d a b t r q => three d a b t q (fpFma (fmtOfType t.toNat) (c.rmode r.toNat) c.flush true)
  | .vsqrt d a t r q => fn .sqrt d a t r q
  | .vrcp d a t r q => fn .rcp d a t r q
  | .vrsqrt d a t r q => fn .rsqrt d a t r q
  | .vexp d a t r q => fn .exp d a t r q
  | .vlog d a t r q => fn .log d a t r q
  | .vsin d a t r q => fn .sin d a t r q
  | .vcos d a t r q => fn .cos d a t r q
  | .vtanh d a t r q => fn .tanh d a t r q
  | .vneg d a t q => one d a t q fun x => (if isInt t.toNat then wrap (w t) (-(x : Int)) else x ^^^ 2 ^ (w t - 1), 0)
  | .vabs d a t q => one d a t q fun x => (if isInt t.toNat then wrap (w t) (intOf t.toNat x).natAbs else x % 2 ^ (w t - 1), 0)
  | .vmov d a t q => some { laneForm q.toNat d.toNat [a.toNat] t.toNat t.toNat fun v l => (v 0 l, 0) with carries := true }
  | .vcmp d a b t r q => two d a b t q fun x y =>
    (if (compareLane t.toNat r.toNat c.flush x y).1 then 2 ^ w t - 1 else 0, (compareLane t.toNat r.toNat c.flush x y).2)
  | .vsel d a b t q => three d a b t q fun x y m => (if m ≠ 0 then x else y, 0)
  | .vperm d a b t q => some (laneForm q.toNat d.toNat [a.toNat, b.toNat] t.toNat t.toNat fun v l => (v 0 (v 1 l % lanesOf t.toNat), 0))
  | .vand d a b t q => logic d a b t q (· &&& ·)
  | .vor d a b t q => logic d a b t q (· ||| ·)
  | .vxor d a b t q => logic d a b t q (· ^^^ ·)
  | .vsll d a b t q => logic d a b t q fun x y => x * 2 ^ (y % w t) % 2 ^ w t
  | .vsrl d a b t q => logic d a b t q fun x y => x / 2 ^ (y % w t)
  | .vsra d a b t q => logic d a b t q fun x y => wrap (w t) (toSigned (w t) x / (2 ^ (y % w t) : Nat))
  | .vcopysign d a b t q => logic d a b t q fun x y => x % 2 ^ (w t - 1) + y / 2 ^ (w t - 1) * 2 ^ (w t - 1)
  | .vredAdd d a t r q => some (treeForm q.toNat d.toNat a.toNat t.toNat (arith t (· + ·) fun f => fpAdd f (c.rmode r.toNat) c.flush))
  | .vredMin d a t q => some (treeForm q.toNat d.toNat a.toNat t.toNat (arith t min fun f => fpMinMax f c.flush false))
  | .vredMax d a t q => some (treeForm q.toNat d.toNat a.toNat t.toNat (arith t max fun f => fpMinMax f c.flush true))
  | .vcvt d a x u t r q => some (laneForm q.toNat d.toNat [a.toNat] u.toNat t.toNat fun v l =>
    if l < min (lanesOf u.toNat) (lanesOf t.toNat) then convert u.toNat t.toNat (c.rmode r.toNat) c.flush (x == 1) (v 0 l) else (0, 0))
  | .vcvtAmax d a _ u t r q => some (laneForm q.toNat d.toNat [a.toNat] u.toNat t.toNat fun v l =>
    if l < min (lanesOf u.toNat) (lanesOf t.toNat) then
      (if u = t ∧ isNan (fmtOfType u.toNat) (v 0 l) ∧ isSignalling (fmtOfType u.toNat) (v 0 l) = false then (v 0 l, 0)
        else convert u.toNat t.toNat (c.rmode r.toNat) c.flush true (v 0 l))
    else (0, 0))
  | _ => none

/-- Lane `l` of a 128-byte value (R120). -/
def laneAt (t v l : Nat) : Nat := v / 2 ^ (widthOf t * l) % 2 ^ widthOf t

/-- A vector result and nothing else: VD holds the bytes, the flags are ORed into `fflags`, and PC goes on. -/
def VectorTo (s t : State) (d : Nat) (bs : List Byte) (fl : Nat) : Prop :=
  t.mem.read (poolAddr s.cur (128 * d)) 128 = bs ∧ SameOutside s.mem t.mem (poolAddr s.cur (128 * d)) 128
    ∧ CoreFrame s t ∧ { t with cores := s.cores, mem := s.mem } = s
    ∧ t.ctx = { s.ctx with fflags := s.ctx.fflags ||| BitVec.ofNat 64 (fl % 64), pc := s.ctx.pc + 4 }

/-- Whether a vector register holds a poisoned granule (R186). -/
def badRegister (s : State) (n : Nat) : Bool := !(s.mem.poisonIn (poolAddr s.cur (128 * n)) 128).isEmpty

/-- A form with a jet meaning (R81): SQ, TYPE, JD, the jets that it reads, and the coefficients of a lane, with their
flags, from those of its sources. -/
structure JetForm where
  sq   : Nat
  type : Nat
  dst  : Nat
  srcs : List Nat
  run  : List (List Nat) → List (Nat × Nat)

/-- The forms of R142, with the series of Table 7.3. -/
def jetForm (s : State) : Instr → Option JetForm :=
  let c := s.ctx
  let n := c.order
  let ro := fun (t : BitVec 4) (r : BitVec 3) => (⟨t.toNat, c.rmode r.toNat, c.flush⟩ : Rounding)
  let at' := fun (o : List (List Nat)) (j : Nat) => o.getD j []
  let one := fun (d a : BitVec 6) (t : BitVec 4) (r : BitVec 3) (q : BitVec 1) (f : Rounding → Nat → List Nat → List (Nat × Nat)) =>
    some (⟨q.toNat, t.toNat, d.toNat, [a.toNat], fun o => f (ro t r) n (at' o 0)⟩ : JetForm)
  let two := fun (d a b : BitVec 6) (t : BitVec 4) (r : BitVec 3) (q : BitVec 1) (f : Rounding → Nat → List Nat → List Nat → List (Nat × Nat)) =>
    some (⟨q.toNat, t.toNat, d.toNat, [a.toNat, b.toNat], fun o => f (ro t r) n (at' o 0) (at' o 1)⟩ : JetForm)
  let each := fun (f : Nat → Nat × Nat) => (List.range (n + 1)).map f
  fun i => match i with
  | .vadd d a b t r q => two d a b t r q fun r _ x y => each fun k => fpAdd r.fmt r.mode r.flush (x.getD k 0) (y.getD k 0)
  | .vsub d a b t r q => two d a b t r q fun r _ x y => each fun k => fpSub r.fmt r.mode r.flush (x.getD k 0) (y.getD k 0)
  | .vmul d a b t r q => two d a b t r q jetMul
  | .vdiv d a b t r q => two d a b t r q jetDiv
  | .vfma d a b t r q => some ⟨q.toNat, t.toNat, d.toNat, [a.toNat, b.toNat, d.toNat], fun o => jetFma (ro t r) 1 n (at' o 0) (at' o 1) (at' o 2)⟩
  | .vfms d a b t r q => some ⟨q.toNat, t.toNat, d.toNat, [a.toNat, b.toNat, d.toNat], fun o => jetFma (ro t r) (-1) n (at' o 0) (at' o 1) (at' o 2)⟩
  | .vsqrt d a t r q => one d a t r q jetSqrt
  | .vrcp d a t r q => one d a t r q jetRcp
  | .vrsqrt d a t r q => one d a t r q jetRsqrt
  | .vexp d a t r q => one d a t r q jetExp
  | .vlog d a t r q => one d a t r q jetLog
  | .vsin d a t r q => one d a t r q jetSin
  | .vcos d a t r q => one d a t r q jetCos
  | .vtanh d a t r q => one d a t r q jetTanh
  | .vneg d a t q => one d a t 0 q fun r _ x => each fun k => (x.getD k 0 ^^^ r.fmt.signBit, 0)
  | _ => none

/-- Lane `l` of coefficients 0 to n of a jet (R68). -/
def jetLane (s : State) (t N l : Nat) : List Nat :=
  (List.range (s.ctx.order + 1)).map fun c => laneAt t (vget s (groupSize s.ctx.order * N + c)) l

/-- A jet result and nothing else: coefficient c of lane l is that of `f`, the padding is zero, and the flags of each
position are ORed into its field of `jfl` (R29, R139). -/
def JetTo (s t : State) (ty d : Nat) (f : Nat → Nat → Nat × Nat) : Prop :=
  let n := s.ctx.order
  let g := groupSize n
  (∀ c, c ≤ n → t.mem.read (poolAddr s.cur (128 * (g * d + c))) 128 = laneBytes ty fun l => f l c)
    ∧ (∀ c, n < c → c < g → t.mem.read (poolAddr s.cur (128 * (g * d + c))) 128 = List.replicate 128 0)
    ∧ SameOutside s.mem t.mem (poolAddr s.cur (128 * (g * d))) (128 * g)
    ∧ CoreFrame s t ∧ { t with cores := s.cores, mem := s.mem } = s
    ∧ t.ctx = { s.ctx with
        jfl := s.ctx.jfl ||| jflOf ((List.range (n + 1)).map fun c => (c, laneFlags ty fun l => f l c)), pc := s.ctx.pc + 4 }

/-! ## What the matrix unit computes -/

/-- The status word with PEND, MPC, DONE, PFL, RMODE and RFLUSH clear (R170, Table 8.5). -/
def runCleared (w : Word) : Word := w &&& ~~~0x81FFFFFF0FFC0000

/-- A state whose pending matrix run is dropped (R170). -/
def dropped (s : State) : State := s.setCtx { s.ctx with mstat := runCleared s.ctx.mstat }

/-- Element (i, j) after a step, with its flags (R158): the previous value and the two rows, in the formats of Table 8.1. -/
def stepCell (smode mode : Nat) (flush : Bool) (tile : Nat) (a b : Panel) (i j : Nat) : Nat × Nat :=
  let w := if smode = 7 then 72 else 36
  let prev := tile / 2 ^ (w * (tileRows smode * i + j)) % 2 ^ w
  let x := rowElements (modeTypes smode).1 (a.getD i [])
  let y := rowElements (modeTypes smode).2 (b.getD j [])
  if smode = 6 then stepInt prev x y
  else stepElement (if smode = 7 then w72 else a36) (fmtOfType (modeTypes smode).1) (fmtOfType (modeTypes smode).2) mode flush prev x y

/-- The flags of all elements of a step. -/
def stepFlags (smode mode : Nat) (flush : Bool) (tile : Nat) (a b : Panel) : Nat :=
  (List.range (tileRows smode)).foldl (fun f i =>
    (List.range (tileRows smode)).foldl (fun g j => g ||| (stepCell smode mode flush tile a b i j).2) f) 0

/-- Memory differs in a tile alone, and there every element is what the step gives (R158). -/
def TileStep (m m' : Memory) (at' smode mode : Nat) (flush : Bool) (a b : Panel) : Prop :=
  let n := tileRows smode
  let w := if smode = 7 then 72 else 36
  (∀ i j, i < n → j < n → m'.readNat at' (tileBytes smode) / 2 ^ (w * (n * i + j)) % 2 ^ w
      = (stepCell smode mode flush (m.readNat at' (tileBytes smode)) a b i j).1 % 2 ^ w)
    ∧ SameOutside m m' at' (tileBytes smode)

/-- Element `i` of a row of 144 bytes in a view (Table 8.4). -/
def rowElement (v row i : Nat) : Nat := row / 2 ^ ((viewOf v).1 * i) % 2 ^ (viewOf v).1

/-! ## Engine commands -/

/-- The operation that a command makes of the block at XA and the control word in XB (R214, R215). -/
def opOf (s : State) (op : Nat) (a b : BitVec 5) : EngineOp where
  core := s.cur
  x := s.me.rx.getD 0
  gen := (s.myReaction.map (·.gen)).getD 0
  vif := s.myVif.getD 0
  lid := (s.myReaction.map (·.lid)).getD 0
  op := op
  block := poolRead s (s.x a.toNat).toNat (blockLength op)
  tags := (List.range (blockLength op / 16)).map fun n => s.mem.tagAt (poolAddr s.cur ((s.x a.toNat).toNat + 16 * n))
  ctl := s.x b.toNat
  num := 0
  mode := s.ctx.mode
  flush := s.ctx.flush
  remap := s.ctx.remap
  seq := s.seq
  begun := false
  cursor := Cursor.start
  miss := none
  deferred := false
  setAside := false
  finished := none

/-- One access of the n-th operation is made: the engine's view of the machine has become `v`, the operation has come to the
cursor `c`, and nothing else differs. -/
def EngineOn (s : State) (n : Nat) (o : EngineOp) (v : State) (c : Cursor) : Prop :=
  engineTurn n s = .next { fromEngine s v o.core with ops := s.ops.set n { o with begun := true, cursor := c, miss := none } }

/-- The n-th operation completes: it leaves the operations, its number completes on its timeline, its words go to its record
where CR = 1 and to the events of its reaction where EV = 1 and the reaction is on the core, and bit TL of FAULT is set where it
failed (R218, R220, R231). -/
def Completed (s t : State) (n : Nat) (o : EngineOp) (cause : Nat) (value : Word) (flags : Nat) : Prop :=
  let info := infoWord o.op o.tl cause flags
  let here := (s.core o.core).rx = some o.x
  t.ops = s.ops.eraseIdx n ∧ (∀ c, c ≠ o.core → t.core c = s.core c)
    ∧ (t.core o.core).complete = (completeNum (s.core o.core) o.tl o.num).complete
    ∧ (bit o.ctl.toNat 4 = true → here → t.mem.read (poolAddr o.core (16 * bitsOf o.ctl.toNat 16 16)) 16 = wordBytes info ++ wordBytes value)
    ∧ (here → (t.core o.core).ctx.events = (s.core o.core).ctx.events ++ if bit o.ctl.toNat 3 then [(info, value)] else [])
    ∧ (here → opLives s o = true → (t.core o.core).ctx.fault
        = if cause = 0 then (s.core o.core).ctx.fault else (s.core o.core).ctx.fault ||| BitVec.ofNat 8 (2 ^ o.tl))

/-- Bytes up to the next destination granule of 64 from `off`, of `left` that are left (R221, R229). -/
def granuleStep (c : Cap) (off left : Nat) : Nat := min left (64 - (c.va + off) % 64)

/-- What the tables of each engine ask of a block at issue (Tables 10.7 to 10.12). -/
def blockOk (i : Instr) (s : State) (o : EngineOp) : Prop :=
  let cap := fun (off need : Nat) (size : Option Nat) (spaces : List Nat) => engineCap s (o.cap off) need size spaces false = .ok ()
  if o.op ≤ 2 then copyCheck i s o = .ok ()
  else if o.op ≤ 4 then rowsCheck i s o = .ok ()
  else if o.op = 5 then
    let r := remapOf o
    zeroAt o.block 32 32 = true ∧ (r.mode < 2 ∧ 1 ≤ r.m ∨ r.mode = 2 ∧ 1 ≤ r.tlen ∧ cap 0 permLoad (some (4 * r.tlen)) [0, 1, 2, 3])
  else if o.op = 6 then
    let d := o.num' 68 4
    let rb := d * tableElement (o.cap 0).format
    zeroAt o.block 81 47 = true ∧ o.num' 80 1 ≤ 3 ∧ 1 ≤ o.num' 64 4 ∧ o.num' 64 4 ≤ 65536 ∧ 1 ≤ d ∧ d ≤ 4096
      ∧ (o.cap 0).va % 4096 = 0 ∧ 2 ≤ (o.cap 0).format ∧ (o.cap 0).format ≤ 6 ∧ rb ≤ 4096 ∧ 2 ^ Nat.log2 rb = rb
      ∧ cap 0 permLoad none [3] ∧ cap 16 permStore none [0, 1, 2] ∧ ((o.cap 16).format = 0 ∨ (o.cap 16).format = 2)
      ∧ cap 32 permLoad none [0, 1, 2, 3] ∧ cap 48 permLoad none [0, 1, 2, 3]
  else if o.op = 7 then
    let runs := o.num' 48 2
    let filter := o.num' 50 1
    1 ≤ runs ∧ runs ≤ 16 ∧ filter ≤ 3 ∧ o.num' 51 1 = 0 ∧ 1 ≤ o.num' 52 4 ∧ o.num' 52 4 ≤ 65536
      ∧ (bit filter 1 = false → (o.cap 32).tag = false) ∧ (∀ r, runs ≤ r → r < 16 → o.num' (64 + 4 * r) 4 = 0)
      ∧ cap 0 permLoad none [0, 1, 2] ∧ cap 16 permStore none [0, 1, 2] ∧ (bit filter 1 = true → cap 32 permLoad none [0, 1, 2, 3])
  else
    let opc := o.num' 40 1
    let len := o.num' 32 8
    opc ≤ 4 ∧ o.num' 41 1 ≤ 1 ∧ zeroAt o.block 42 6 = true ∧ (if opc ≤ 1 then 1 ≤ len ∧ len ≤ 2 ^ 32 else len = 8)
      ∧ cap 0 (if opc = 0 then permLoad else permStore) (some len) [0, 1, 2]
      ∧ cap 16 (permRemote + (if opc = 0 then permStore else if opc = 1 then permLoad else permLoad + permStore)) (some len) [4, 5]
      ∧ (2 ≤ opc → (o.cap 16).va % 8 = 0)

end Sys2Proof
end

