-- ==== Sys2Proof/Certificates/Slice0/Obligations.lean ====
section
/-! DEFINITION. The statements about the model, each from the spec's rules, for the provers. -/

open Sys2Proof Sys2Proof.Machine

/-! ## Encoding and the step -/

/-- R71 to R85: words that the manual's tables print decode to the instructions beside them. -/
def Obligations.PrintedWordsDecode : Prop :=
  decode 0x08A0000A = .addi 5 0 10 ∧ decode 0x04C62800 = .add 6 6 5 ∧ decode 0x24A0FFFE = .bne 5 0 (-2)
    ∧ decode 0x80413811 = .vadd 4 4 56 1 0 1 ∧ decode 0x58540010 = .ldd 5 4 0 0 16 ∧ decode 0xC94B0000 = .ecopy 10 11
    ∧ decode 0xE4050C02 = .srw 5 2 ∧ decode 0x04E53300 = .mulh 7 5 6 ∧ decode 0x05290283 = .sraImm 9 9 3
    ∧ decode 0xC0C09110 = .jext 12 2 2 1 0 ∧ decode 0xC4A60000 = .mma 5 6 0 0 0 0 0 ∧ decode 0xD8A62CC2 = .wmem 5 6 3 2
    ∧ decode 0xDC050C80 = .xmit 5 2 ∧ decode 0xE0A019C4 = .kunseal 5 7 1 ∧ decode 0x747346AC = .amoCas 7 3 8 3 5 1
    ∧ decode 0xD4563820 = .ldt 5 6 7 1 ∧ decode 0xCC2C0400 = .twait 1 12 ∧ decode 0xF8000000 = .hint 0

/-- R71 to R85: every well-formed instruction that a word can hold comes back from its word with every operand. The three
`mbox` operations share one word (R337), which decodes to the first; log 30. -/
def Obligations.EncodeThenDecode : Prop :=
  ∀ i : Instr, i.isWord = true → i.wellFormed = true →
    match i with
    | .mboxBind d a => decode i.encode = .mboxSend d a
    | .mboxUnbind d a => decode i.encode = .mboxSend d a
    | _ => decode i.encode = i

/-- R84: a word of an unassigned major decodes to no assigned instruction, whatever its other bits are, and executing it takes
ILLEGAL with the word as `tvalue`; the trap is the whole effect. R320, R325, R309, R345, R301, R337, R307: below the level
that a form asks for it raises ILLEGAL with its encoding. R266: so does every REACT and SYNC form at supervisor or machine level and
on a core that runs no reaction, and R231: a form that ends or suspends a reaction, in an event handler, and one that suspends a
reaction of shape `core` with an event to come. R119: a core whose PC is at or past the end of its code space raises
ILLEGAL with `tvalue` and the saved PC both the length of the space, before anything else that waits for the core, since it is raised
after the last instruction retires; a body whose reaction ends executes no more. -/
def Obligations.IllegalTraps : Prop :=
  ((∀ w : BitVec 32, (w.toNat / 2 ^ 26 = 0 ∨ w.toNat / 2 ^ 26 = 7 ∨ w.toNat / 2 ^ 26 = 0x3C ∨ w.toNat / 2 ^ 26 = 0x3D
      ∨ w.toNat / 2 ^ 26 = 0x3F) → decode w = .unassignedWord w)
    ∧ ∀ (w : BitVec 32) (s : State), exec (.unassignedWord w) s = .next (takeTrap s .illegal (w.zeroExtend 64)))
    ∧ (∀ (d a : BitVec 5) (k m : BitVec 4) (s : State), let traps := fun (i : Instr) => exec i s = .next (takeTrap s .illegal (i.encode.zeroExtend 64))
    (s.ctx.level = .user → traps .tret ∧ traps (.klease k a m) ∧ traps (.mboxSend d a) ∧ traps (.mboxBind d a) ∧ traps (.mboxUnbind d a))
      ∧ (s.ctx.level ≠ .machine → traps .halt ∧ traps (.tlbw d a) ∧ traps (.tlbflush a) ∧ traps (.sdown a)))
    ∧ (∀ (d a : BitVec 5) (k : BitVec 4) (n : BitVec 2) (p : BitVec 3) (w : BitVec 10) (s : State),
    let traps := fun (i : Instr) => exec i s = .next (takeTrap s .illegal (i.encode.zeroExtend 64))
    (s.ctx.level ≠ .user ∨ s.myReaction = none → traps (.rget k n) ∧ traps (.rkey d p n) ∧ traps (.talloc k w) ∧ traps (.emit k) ∧ traps .commit
        ∧ traps .abort ∧ traps (.susp p a) ∧ traps .yield ∧ traps (.part d a n) ∧ traps (.crewid d) ∧ traps .crewrel ∧ traps (.wmem d a k n)
        ∧ traps .pause ∧ traps .barRow ∧ traps .barCol ∧ traps .barSg ∧ traps (.xmit a k) ∧ traps (.xsel d a) ∧ traps (.ipf a n)
        ∧ traps (.ipin a n) ∧ traps (.iunpin a n) ∧ traps (.psplit a))
      ∧ (s.ctx.inev = true → traps (.susp p a) ∧ traps .yield ∧ traps (.wmem d a k n) ∧ traps .commit ∧ traps .abort ∧ traps .crewrel)
      ∧ (∀ r, s.myReaction = some r → r.shape = 0 → eventPending s = true → traps (.susp p a) ∧ traps .yield ∧ traps (.wmem d a k n)))
    ∧ (∀ (s u : State) (c : CoreId) (rest : List Turn),
    s.agenda = .core c :: rest → u = { s.tickTimers with agenda := rest, tick := s.tick + 1, cur := c } →
    u.me.run = .running → u.me.hold = .none → ends u = false → u.codeLength ≤ u.ctx.pc →
    step s = .next (settle (takeTrap (u.setCtx { u.ctx with pc := u.codeLength }) .illegal (BitVec.ofNat 64 u.codeLength))))

/-- A turn of a core (R71, R119, R293, R334): where the core runs, waits for nothing, has no interrupt, event or overflow to
take and no merge of its own to end first, its weir is open and a whole line of code is sound, the step is `exec` of the
instruction that the four bytes at PC decode to, and then the cycles it took and the waits it meets; the wait timers have counted on
by what is free (log 68). R342, Table 14.10: a line of an overlay that an error has spoilt is refetched first from the overlay in HBM,
which changes that line alone, and raises MEM_UNCORR with its offset where it is spoilt there too. -/
def Obligations.StepRunsTheDecodedInstruction : Prop :=
  ∀ (s u : State) (c : CoreId) (rest : List Turn),
    s.agenda = .core c :: rest → u = { s.tickTimers with agenda := rest, tick := s.tick + 1, cur := c } →
    u.me.run = .running → u.me.hold = .none → u.me.irqs = [] → u.me.overflow = [] → asideOut u = false → eventDue u = false →
    coreHeld u = false → u.ctx.pc < u.codeLength →
    let line := u.ctx.pc / 64 * 64
    let sound := u.ctx.space = .overlay → u.mem.poisonIn (u.codeAddr line) 64 = []
    let runs := fun (v : State) => ∀ (i : Instr) (r : List Byte), decodeBytes (v.codeBytes v.ctx.pc) = .ok (i, r) →
      step s = match exec i v with
        | .next t => .next (finish i v t)
        | .fault f => .fault f
        | .refused f => .refused f
    (sound → runs u)
      ∧ (¬ sound → refetched u line = none → step s = .next (settle (takeTrap u .memUncorr (BitVec.ofNat 64 line))))
      ∧ ∀ v, ¬ sound → refetched u line = some v → runs v ∧ { v with mem := u.mem } = u ∧ SameOutside u.mem v.mem (u.codeAddr line) 64

/-- A turn of an event: the step is `exec` of the event and then the waits it meets. R329: an interrupt that waits is taken at
the next instruction boundary of a core below machine level, before any instruction, WIND before the others and these in the
order in which they came (log 12): the resident handler starts at offset 0 with the interrupt's code in `mcause`, bit 63 set, and
the PC that was left in `mpc`. The registers are as they were: that the handler starts with them is log 11 (DEDUCED), since R329
says only that the register block is copied. Table 14.4, Table 3.8: WIND has the reaction abort, any other pre-empts it. R210, R213: in
a turn of its own an open stream of the agent that runs keeps one piece more of what it needs for a position that it has not reached,
as memory holds it then (log 5); R188, R192: the piece stands behind the older stores of the agent to its bytes and the loads of streams
to them that come before it; R293, R295: it is charged as it issues, and does not issue while its weir is exhausted; nothing else
changes but which translations were used last. R342: an uncorrectable error of memory poisons one granule, and no byte changes that a
program could read without the poison; a corrected error changes the count for Primin alone (log 62). -/
def Obligations.EventsAndInterruptsTakeTurns : Prop :=
  (∀ (s u : State) (i : Instr) (rest : List Turn), s.agenda = .event i :: rest → isCode i = false →
    u = { s.tickTimers with agenda := rest, tick := s.tick + 1 } →
    step s = match exec i u with
      | .next t => .next (finish i u t)
      | .fault f => .fault f
      | .refused f => .refused f)
    ∧ (∀ (s u : State) (c : CoreId) (rest : List Turn) (code : Nat),
    s.agenda = .core c :: rest → u = { s.tickTimers with agenda := rest, tick := s.tick + 1, cur := c } →
    u.me.run = .running → u.me.hold = .none → u.ctx.pc < u.codeLength → u.me.irqs ≠ [] → code = (if 3 ∈ u.me.irqs then 3 else u.me.irqs.headD 0) →
    u.ctx.level ≠ .machine →
    ∃ t, boundary u = (t, none) ∧ step s = .next (settle t) ∧ t.ctx.level = .machine ∧ t.ctx.space = .handler ∧ t.ctx.pc = 0
      ∧ t.me.irqs = u.me.irqs.erase code ∧ t.me.mcause = BitVec.ofNat 64 (2 ^ 63 + code) ∧ t.me.mpc = BitVec.ofNat 64 u.ctx.pc
      ∧ t.me.mstatus = statusWord u.ctx ∧ t.ctx.x = u.ctx.x ∧ t.mem = u.mem
      ∧ ∀ r, u.myReaction = some r →
        (code = 3 → t.reaction c.sgn r.x = some (if r.aborting then r else { r with state := .ending, aborting := true }))
          ∧ (code ≠ 3 → t.me.preempted = true
            ∧ t.reaction c.sgn r.x = some (if r.state = .running then { r with state := .preempted } else r)))
    ∧ (∀ (s u : State) (c : CoreId) (n p k : Nat) (rest : List Turn), s.agenda = .prefetch c n p k :: rest →
    u = { s.tickTimers with agenda := rest, tick := s.tick + 1 } → n < 8 →
    let v := { u with cur := c }; let q := v.q n
    ∃ t, step s = .next (settle t) ∧ (∀ d, d ≠ c → t.core d = u.core d) ∧ { t with cores := u.cores, vifs := u.vifs } = u
      ∧ { t.core c with ctx := (u.core c).ctx, tlb := (u.core c).tlb } = u.core c
      ∧ { (t.core c).ctx with streams := (u.core c).ctx.streams } = (u.core c).ctx
      ∧ (∀ m, m ≠ n → (t.core c).ctx.streams.getD m StreamReg.closed = v.q m)
      ∧ (q ∉ ownStreams v ∨ p < q.pos ∨ q.total ≤ p → t = u)
      ∧ ∀ w ls, q ∈ ownStreams v → q.pos ≤ p → p < q.total → (neededAhead v.ctx.level q p)[k]? = some w →
        locate v w.space (BitVec.ofNat 64 w.addr) w.len .load = .ok ls → let moved := [movedTo w.space w.len ls]
        (loadHeld v q.since ls = true ∨ (∃ e ∈ unmade v.ctx.level q p, needMeets v q ls e = true) ∨ weirsOpen v moved = false → t = u)
          ∧ (loadHeld v q.since ls = false → (∀ e ∈ unmade v.ctx.level q p, needMeets v q ls e = false) → ls.any (locDown v) = false →
            weirsOpen v moved = true → t.vifs = chargedVifs v moved ∧ (t.core c).ctx.streams.getD n StreamReg.closed
              = { q with ahead := q.ahead ++ [⟨w.unit, w.space, w.addr % 2 ^ 56, readLocs v ls, badBytes v ls, []⟩] }))
    ∧ (∀ (s u : State) (a : Nat) (rest : List Turn), s.agenda = .upset a :: rest →
    u = { s.tickTimers with agenda := rest, tick := s.tick + 1 } →
    ∃ t, step s = .next (settle t) ∧ (a < 5 * 2 ^ 64 → ∀ g, g ∈ t.mem.poison ↔ g = a / 32 ∨ g ∈ u.mem.poison) ∧ (5 * 2 ^ 64 ≤ a → t = u)
      ∧ (∀ b, t.mem.byteAt b = u.mem.byteAt b) ∧ t.mem.tags = u.mem.tags ∧ { t with mem := u.mem } = u)
    ∧ (∀ (s u : State) (row : Fin 6) (rest : List Turn), s.agenda = .corrected row.val :: rest →
    u = { s.tickTimers with agenda := rest, tick := s.tick + 1 } →
    step s = .next (settle { u with primin := { u.primin with corrected := u.primin.corrected.set row.val (u.primin.corrected[row] + 1) } }))

/-! ## Reset and the canonical form -/

/-- R346, R20: with power applied the module is COLD: no core runs, no SG is enabled, no virtual interface exists and no
launch, reaction or message; the clock stands at 940 MHz. The system registers that the manual gives a reset value have it in
every core (R26, R49, R100, R101, R108, R137, R139, R172, R230, R264, R322). -/
def Obligations.ResetState : Prop :=
  (State.reset.stage = .cold ∧ State.reset.enabled = 0 ∧ State.reset.vifs = [] ∧ State.reset.launches = []
    ∧ (∀ c, (State.reset.core c).run = .idle) ∧ (∀ g x, State.reset.reaction g x = none) ∧ State.reset.clock = 940
    ∧ State.reset.sent = [] ∧ ∀ c, (State.reset.core c).cycle = 0)
    ∧ (∀ c, let t := (State.reset.core c).ctx
    t.partition = 0x178 ∧ t.crewcoord = 0x10000 ∧ t.bartimeout = 0x100000 ∧ t.round = 0 ∧ t.fflags = 0 ∧ t.jord = 0 ∧ t.jfl = 0
      ∧ (∀ i, t.amax.getD i 0 = 0) ∧ t.mstat = 0 ∧ t.evec = 0 ∧ t.tcause = 0 ∧ t.tstatus = 0 ∧ t.inev = false ∧ t.fault = 0)

/-- The memory at reset is in its canonical form. -/
def Obligations.ResetMemoryIsCanonical : Prop := MemWf State.reset

/-- Whatever a step does, it keeps the memory in its canonical form: addresses and granules strictly rise, and no listed byte
is zero. The form is the model's own. -/
def Obligations.StepKeepsMemoryCanonical : Prop := ∀ s t : State, MemWf s → step s = .next t → MemWf t

/-! ## Scalar arithmetic and control -/

/-- R115, R78: the register and immediate forms write the result of Table 6.1 to XD, nothing where XD is `x0`, and change no
flag, no memory and no other register. -/
def Obligations.ScalarResults : Prop :=
  (∀ (d a b : BitVec 5) (s : State), let x := s.x a.toNat; let y := s.x b.toNat
    let gives := fun (i : Instr) (v : Word) => Answers i s fun t => ScalarTo s t d.toNat v
    gives (.add d a b) (x + y) ∧ gives (.sub d a b) (x - y) ∧ gives (.and d a b) (x &&& y) ∧ gives (.or d a b) (x ||| y)
      ∧ gives (.xor d a b) (x ^^^ y) ∧ gives (.sll d a b) (x <<< (y.extractLsb' 0 6).toNat)
      ∧ gives (.srl d a b) (x >>> (y.extractLsb' 0 6).toNat) ∧ gives (.sra d a b) (x.sshiftRight (y.extractLsb' 0 6).toNat)
      ∧ gives (.mul d a b) (x * y) ∧ gives (.mulh d a b) ((x.signExtend 128 * y.signExtend 128).extractLsb' 64 64)
      ∧ gives (.mulhn d a b) ((x.zeroExtend 128 * y.zeroExtend 128).extractLsb' 64 64)
      ∧ gives (.slt d a b) (if x.toInt < y.toInt then 1 else 0) ∧ gives (.sltn d a b) (if x.toNat < y.toNat then 1 else 0)
      ∧ gives (.min d a b) (BitVec.ofInt 64 (min x.toInt y.toInt)) ∧ gives (.max d a b) (BitVec.ofInt 64 (max x.toInt y.toInt))
      ∧ gives (.minn d a b) (BitVec.ofNat 64 (min x.toNat y.toNat)) ∧ gives (.maxn d a b) (BitVec.ofNat 64 (max x.toNat y.toNat)))
    ∧ (∀ (d a : BitVec 5) (h : BitVec 6) (v : BitVec 16) (s : State), let x := s.x a.toNat
      let gives := fun (i : Instr) (v : Word) => Answers i s fun t => ScalarTo s t d.toNat v
      gives (.sllImm d a h) (x <<< h.toNat) ∧ gives (.srlImm d a h) (x >>> h.toNat) ∧ gives (.sraImm d a h) (x.sshiftRight h.toNat)
        ∧ gives (.addi d a v) (x + BitVec.ofInt 64 v.toInt) ∧ gives (.lih d a v) (x + BitVec.ofInt 64 (v.toInt * 65536))
        ∧ gives (.andi d a v) (x &&& BitVec.ofNat 64 v.toNat) ∧ gives (.ori d a v) (x ||| BitVec.ofNat 64 v.toNat)
        ∧ gives (.xori d a v) (x ^^^ BitVec.ofNat 64 v.toNat))

/-- R116: division never traps and sets no flag. For a zero divisor the quotient is all ones and the remainder the dividend;
the signed overflow gives −2^63 and 0; else the quotient is rounded toward zero and the remainder, a − q·b, takes the sign of
the dividend. -/
def Obligations.DivisionResults : Prop :=
  ∀ (d a b : BitVec 5) (s : State), let x := s.x a.toNat; let y := s.x b.toNat
    let gives := fun (i : Instr) (p : Word → Prop) => Answers i s fun t => ∃ v, p v ∧ ScalarTo s t d.toNat v
    gives (.div d a b) (fun v => (y = 0 → v = BitVec.allOnes 64) ∧ (x = BitVec.intMin 64 ∧ y = BitVec.allOnes 64 → v = BitVec.intMin 64)
        ∧ (y ≠ 0 ∧ ¬ (x = BitVec.intMin 64 ∧ y = BitVec.allOnes 64) → v.toInt = x.toInt.tdiv y.toInt))
      ∧ gives (.divn d a b) (fun v => (y = 0 → v = BitVec.allOnes 64) ∧ (y ≠ 0 → v.toNat = x.toNat / y.toNat))
      ∧ gives (.rem d a b) (fun v => (y = 0 → v = x) ∧ (x = BitVec.intMin 64 ∧ y = BitVec.allOnes 64 → v = 0)
        ∧ (y ≠ 0 → v.toInt = x.toInt - x.toInt.tdiv y.toInt * y.toInt ∧ (v = 0 ∨ (v.toInt < 0 ↔ x.toInt < 0))))
      ∧ gives (.remn d a b) (fun v => (y = 0 → v = x) ∧ (y ≠ 0 → v.toNat = x.toNat % y.toNat))

/-- R117: a branch whose comparison holds goes on at PC + 4·OFS, within the code space; otherwise, and always where the
comparison fails, at PC + 4. It writes no register. R118: `jal` and `jalr` write PC + 4 to XD and go on at their targets;
`jalr` reads XA before it writes XD and clears the two low bits of the target. R119, R78: a taken branch or a jump whose
target lies outside the code space raises ILLEGAL with the encoding, and writes no link: the trap is taken in the state before
the instruction. -/
def Obligations.ControlResults : Prop :=
  (∀ (a b : BitVec 5) (o : BitVec 16) (s : State), let x := s.x a.toNat; let y := s.x b.toNat
    let target := (s.ctx.pc : Int) + 4 * o.toInt
    let goes := fun (i : Instr) (holds : Prop) =>
      (holds → 0 ≤ target ∧ target < s.codeLength → Answers i s fun t => OnlyCtx s t ∧ t.ctx = { s.ctx with pc := target.toNat })
        ∧ (¬ holds → Answers i s fun t => GoesOn s t)
    goes (.beq a b o) (x = y) ∧ goes (.bne a b o) (x ≠ y) ∧ goes (.blt a b o) (x.toInt < y.toInt)
      ∧ goes (.bge a b o) (y.toInt ≤ x.toInt) ∧ goes (.bltn a b o) (x.toNat < y.toNat) ∧ goes (.bgen a b o) (y.toNat ≤ x.toNat))
    ∧ (∀ (d a : BitVec 5) (o : BitVec 21) (v : BitVec 16) (s : State), let link : Word := BitVec.ofNat 64 (s.ctx.pc + 4)
    let near := (s.ctx.pc : Int) + 4 * o.toInt
    let far := (s.x a.toNat + BitVec.ofInt 64 v.toInt) &&& ~~~3#64
    (0 ≤ near ∧ near < s.codeLength →
        Answers (.jal d o) s fun t => OnlyCtx s t ∧ ScalarCtx s.ctx t.ctx d.toNat link near.toNat)
      ∧ (far.toNat < s.codeLength → Answers (.jalr d a v) s fun t => OnlyCtx s t ∧ ScalarCtx s.ctx t.ctx d.toNat link far.toNat))
    ∧ (∀ (a b d : BitVec 5) (o : BitVec 16) (p : BitVec 21) (s : State),
    let out := fun (target : Int) => target < 0 ∨ (s.codeLength : Int) ≤ target
    let traps := fun (i : Instr) => exec i s = .next (takeTrap s .illegal (i.encode.zeroExtend 64))
    let near := (s.ctx.pc : Int) + 4 * o.toInt
    (out near → (s.x a.toNat = s.x b.toNat → traps (.beq a b o)) ∧ (s.x a.toNat ≠ s.x b.toNat → traps (.bne a b o))
        ∧ ((s.x a.toNat).toInt < (s.x b.toNat).toInt → traps (.blt a b o))
        ∧ ((s.x b.toNat).toInt ≤ (s.x a.toNat).toInt → traps (.bge a b o))
        ∧ ((s.x a.toNat).toNat < (s.x b.toNat).toNat → traps (.bltn a b o))
        ∧ ((s.x b.toNat).toNat ≤ (s.x a.toNat).toNat → traps (.bgen a b o)))
      ∧ (out ((s.ctx.pc : Int) + 4 * p.toInt) → traps (.jal d p))
      ∧ (s.codeLength ≤ ((s.x a.toNat + BitVec.ofInt 64 o.toInt) &&& ~~~3#64).toNat → traps (.jalr d a o)))

/-- R66: a write to `x0` is discarded and it reads zero; any other scalar register reads as it was last written, and no other
register changes; a capability register takes all 128 bits and the tag. R2: byte 0 of a number in memory is its least
significant byte. R202: a data store clears the tag of every 16-byte granule it touches and no other; R186: a granule written
whole loses its poison, and one written with poison is poisoned. A store's bytes are read back, and every other byte is as
before. -/
def Obligations.StorageLaws : Prop :=
  (∀ (s : State) (d : BitVec 5) (v : Word) (k : BitVec 4) (c : Cap),
    (s.setX 0 v).ctx = s.ctx ∧ s.x 0 = 0 ∧ (d ≠ 0 → (s.setX d.toNat v).x d.toNat = v)
      ∧ (∀ i, i ≠ d.toNat → (s.setX d.toNat v).x i = s.x i) ∧ (s.setK k.toNat c).k k.toNat = c
      ∧ (∀ i, i ≠ k.toNat → (s.setK k.toNat c).k i = s.k i))
    ∧ (∀ (m : Memory) (a n v : Nat), v < 2 ^ (8 * n) → (m.writeNat a n v).readNat a n = v
      ∧ ∀ i, i < n → (m.writeNat a n v).byteAt (a + i) = BitVec.ofNat 8 (v / 256 ^ i))
    ∧ (∀ (m : Memory) (a : Nat) (bs : List Byte) (bad : List Nat), bs ≠ [] →
    (m.write a bs bad).read a bs.length = bs
      ∧ (∀ b, b < a ∨ a + bs.length ≤ b → (m.write a bs bad).byteAt b = m.byteAt b)
      ∧ (∀ g, g ∈ (m.write a bs bad).tags ↔ g ∈ m.tags ∧ (16 * g + 16 ≤ a ∨ a + bs.length ≤ 16 * g))
      ∧ (∀ g, g ∈ (m.write a bs bad).poison ↔ g ∈ bad ∨ (g ∈ m.poison ∧ ¬ (a ≤ 32 * g ∧ 32 * g + 32 ≤ a + bs.length))))

/-! ## Exceptions -/

/-- R321, R322, R324: a trap at user level enters the steward. The four trap registers take the cause, its value, the PC and
the level and code space that were left; the steward starts at offset 0 of its handler with every scalar register zero, `k14`
its frame, `k15` the dead-letter ring and every other capability register null; the frame holds the register block; no other
byte of memory and no other core changes. Every other register is as R46 has it, as R324 says, `jord` with them: R154 says that
the entry of a trap handler changes neither `jord` nor `jfl`, and the choice between the two is log 55 (DEDUCED). The STATE word of
the frame is log 9 (DEDUCED), and how the frame lays out its STREAM, BARRIER and MAILBOX fields is log 14 (DESIGN CHOICE). -/
def Obligations.UserTrapEntersTheSteward : Prop :=
  ∀ (s : State) (c : Cause) (v : Word) (f : Vif), s.ctx.level = .user → s.myVif.bind s.vif = some f →
    let t := takeTrap s c v
    let a := pinnedAddr f.p.id (f.p.saveBase + saveOffset s.cur 2)
    t.ctx.tcause = BitVec.ofNat 64 c.code ∧ t.ctx.tvalue = v ∧ t.ctx.tpc = BitVec.ofNat 64 s.ctx.pc
      ∧ t.ctx.tstatus = BitVec.ofNat 64 ((if s.ctx.space = .handler then 16 else 0) + if s.ctx.inev then 32 else 0)
      ∧ t.ctx.pc = 0 ∧ t.ctx.level = .supervisor ∧ t.ctx.space = .handler ∧ (∀ i, t.x i = 0)
      ∧ t.k 14 = frameCap f.p s.cur ∧ t.k 15 = ringCap f.p ∧ (∀ i, i < 14 → t.k i = Cap.null)
      ∧ t.ctx.round = 0 ∧ t.ctx.fflags = 0 ∧ t.ctx.jord = 0 ∧ t.ctx.inev = false ∧ (∀ n, (t.q n).isOpen = false)
      ∧ t.ctx.partition = s.ctx.partition ∧ t.ctx.crewcoord = s.ctx.crewcoord
      ∧ t.mem.read a 8192 = blockBytes s s.cur (frameState s) [] ∧ SameOutside s.mem t.mem a 8192
      ∧ OtherCores s t ∧ { t with mem := s.mem, cores := s.cores } = s

/-- R321, R329: a trap at supervisor level enters the resident handler. The four machine registers take the cause, its value,
the PC and the level and code space that were left; the context is kept whole; machine level starts at offset 0; no byte of
memory and no other core changes. That the registers are as they were is log 11. R328, R333: a trap at machine level is a
double trap: the core stops, stays out of use and is reported to Primin, and the reaction that it ran is no more, or begins to
abort where its stores or operations are outstanding (R191) or its reactants find no room yet (R295). That the core is out of
use in the turn of the trap itself, and the reaction ends in the same turn, is log 13 (DEDUCED). R303, R61: an access outside
every lease is taken at machine level with its address in `mvalue`, and ends the launch with LEASE_FAULT and that address. -/
def Obligations.TrapsBeyondUserLevel : Prop :=
  (∀ (s : State) (c : Cause) (v : Word), s.ctx.level = .supervisor →
    let t := takeTrap s c v
    t.me.mcause = BitVec.ofNat 64 c.code ∧ t.me.mvalue = v ∧ t.me.mpc = BitVec.ofNat 64 s.ctx.pc
      ∧ t.me.mstatus = statusWord s.ctx ∧ t.me.saved = some s.ctx
      ∧ t.ctx = { s.ctx with pc := 0, level := .machine, space := .handler, inev := false }
      ∧ OtherCores s t ∧ { t with cores := s.cores } = s)
    ∧ (∀ (s : State) (c : Cause) (v : Word), s.ctx.level = .machine →
    let t := takeTrap s c v
    t.me.run = .outOfUse ∧ t.cur = s.cur ∧ t.primin.reports = s.primin.reports ++ [s.cur] ∧ ∀ r, s.myReaction = some r →
      if storesOut s s.cur.sgn r || opsOut s s.cur.sgn r || !abortOpen s s.cur.sgn r then
        t.reaction s.cur.sgn r.x = some { r with state := .ending, aborting := true }
      else t.reaction s.cur.sgn r.x = none ∧ t.me.rx = none)
    ∧ (∀ (s : State) (va : Nat) (l : Launch), s.ctx.level ≠ .machine → s.myLaunch = some l → l.state ≠ .ended →
    let t := takeLeaseFault s va
    t.me.mcause = 15 ∧ t.me.mvalue = BitVec.ofNat 64 va ∧ t.me.mpc = BitVec.ofNat 64 s.ctx.pc ∧ t.ctx.level = .machine ∧ t.ctx.pc = 0
      ∧ ∃ k, t.launch l.vif l.lid = some k ∧ k.state = .ended ∧ k.status = .leaseFault ∧ k.faultAddr = va)

/-- R326: `ecall` raises ECALL with IDX as its value: from user level the steward is entered, from supervisor level the
resident handler, and the PC saved is that of the `ecall`. R325: `tret` with END clear. From the steward the registers, the trap
registers among them, come from the frame, from machine level from the context area; then PEV goes to INEV, and control goes on
at the saved PC, its two low bits clear (log 7), in the saved level and code space, a reaction that no member has pre-empted any
more runs again, and what its spill ring holds is delivered (R335, R339). A target outside the code space raises ILLEGAL in the
handler, but for the length itself where the entry was taken there (R119, log 8). It waits for the handler's own stores to the
frame (log 5, DESIGN CHOICE, after R192), and at machine level while the pre-empted reaction is to be evicted, which R254 and R295
leave to the handler's firmware (log 32, DESIGN CHOICE). That the trap registers come back from the frame after the target has been
taken from the handler's own is log 8 (DEDUCED), and that their reserved bits and those of the other registers are discarded there is
log 51 (DEDUCED). With END set the reaction begins to abort. A core whose reaction has been stopped becomes idle (R344). -/
def Obligations.EcallAndTrapReturnResults : Prop :=
  (∀ (n : BitVec 10) (s : State),
    (s.ctx.level = .user → Answers (.ecall n) s fun t => t.ctx.level = .supervisor ∧ t.ctx.space = .handler ∧ t.ctx.pc = 0
        ∧ t.ctx.tcause = 13 ∧ t.ctx.tvalue = BitVec.ofNat 64 n.toNat ∧ t.ctx.tpc = BitVec.ofNat 64 s.ctx.pc)
      ∧ (s.ctx.level = .supervisor → Answers (.ecall n) s fun t => t.ctx.level = .machine ∧ t.ctx.space = .handler ∧ t.ctx.pc = 0
        ∧ t.me.mcause = 13 ∧ t.me.mvalue = BitVec.ofNat 64 n.toNat ∧ t.me.mpc = BitVec.ofNat 64 s.ctx.pc))
    ∧ (∀ (s : State) (r : Reaction) (f : Vif), s.ctx.level = .supervisor → s.myReaction = some r → s.vif r.vif = some f →
    bit s.ctx.tstatus.toNat 8 = false → frameBusy s = false →
    returnOk s (s.ctx.tpc.toNat / 4 * 4) (returnTo s.ctx.tstatus).2 = true →
    let a := pinnedAddr f.p.id (f.p.saveBase + saveOffset s.cur 2)
    let word := fun (off : Nat) => BitVec.ofNat 64 (s.mem.readNat (a + off) 8)
    Answers .tret s fun t => ∃ u, t = deliverRing u s.cur r.x
      ∧ u.ctx.pc = s.ctx.tpc.toNat / 4 * 4 ∧ (u.ctx.level, u.ctx.space) = returnTo s.ctx.tstatus
      ∧ u.ctx.inev = bit s.ctx.tstatus.toNat 5 ∧ (∀ i, 1 ≤ i → i < 32 → u.ctx.x.getD i 0 = word (64 + 8 * i))
      ∧ u.ctx.tcause = word 816 &&& 0x800000000000FFFF ∧ u.ctx.tvalue = word 824 ∧ u.ctx.tpc = word 832 ∧ u.ctx.tstatus = word 840 &&& 0x131
      ∧ u.ctx.round = word 656 &&& 0xF ∧ u.ctx.crewcoord = word 728 &&& 0x1FFFFFF
      ∧ CoreFrame s u ∧ { u with cores := s.cores } = s)
    ∧ (∀ (s : State) (c : Ctx), s.ctx.level = .machine → s.me.saved = some c → (s.myReaction.isSome ∨ s.cur.idx = Config.tsc) →
      bit s.me.mstatus.toNat 8 = false → frameBusy s = false → evictDue s = false →
      returnOk s (s.me.mpc.toNat / 4 * 4) (returnTo s.me.mstatus).2 = true →
      Answers .tret s fun t => ∃ u, t = ringAfter s u ∧ u.ctx.pc = s.me.mpc.toNat / 4 * 4
        ∧ (u.ctx.level, u.ctx.space) = returnTo s.me.mstatus
        ∧ u.ctx.inev = bit s.me.mstatus.toNat 5 ∧ u.ctx.x = c.x ∧ u.ctx.shadow = c.shadow ∧ u.ctx.k = c.k ∧ u.ctx.round = c.round
        ∧ u.ctx.fflags = c.fflags ∧ u.ctx.partition = c.partition ∧ u.ctx.streams = c.streams ∧ u.me.saved = none
        ∧ u.me.preempted = false ∧ u.mem = s.mem ∧ OtherCores s u
        ∧ ∀ r, s.myReaction = some r → r.state = .preempted →
          anyPreempted (s.setMe { s.me with preempted := false }) s.cur.sgn r.x = false →
          u.reaction s.cur.sgn r.x = some { r with state := .running })
    ∧ (∀ (s : State) (r : Reaction), s.ctx.level ≠ .user → s.myReaction = some r →
      let status := if s.ctx.level = .machine then s.me.mstatus else s.ctx.tstatus
      let pc := if s.ctx.level = .machine then s.me.mpc else s.ctx.tpc
      let ok := returnOk s (pc.toNat / 4 * 4) (returnTo status).2
      let due := s.ctx.level = .machine ∧ evictDue s = true
      (bit status.toNat 8 = true → frameBusy s = false → Answers .tret s fun t =>
          t.reaction s.cur.sgn r.x = some { r with state := .ending, aborting := true } ∧ t.mem = s.mem
            ∧ t.me.hold = .ending ∧ t.ctx.level = .user)
        ∧ (bit status.toNat 8 = true → frameBusy s = true → exec .tret s = .next s)
        ∧ (bit status.toNat 8 = false → due → exec .tret s = .next s)
        ∧ (bit status.toNat 8 = false → ¬ due → ok = false → exec .tret s = .next (takeTrap s .illegal (Instr.tret.encode.zeroExtend 64)))
        ∧ (bit status.toNat 8 = false → ¬ due → ok = true → frameBusy s = true → exec .tret s = .next s))
    ∧ (∀ s : State, s.ctx.level ≠ .user → s.myReaction = none → s.cur.idx ≠ Config.tsc → Answers .tret s fun t =>
      t.me.run = (if s.me.run = .outOfUse then .outOfUse else .idle) ∧ t.me.rx = none ∧ t.me.hold = .none ∧ OtherCores s t
        ∧ { t with cores := s.cores } = s)

/-- R324, R325: a user-level trap followed at once by the steward's `tret` leaves the scalar and the capability registers, the
PC, the level, the code space and INEV as they were. -/
def Obligations.TrapThenReturnRestoresTheRegisters : Prop :=
  ∀ (s : State) (c : Cause) (v : Word) (r : Reaction) (f : Vif), s.ctx.level = .user → s.myReaction = some r →
    s.vif r.vif = some f → frameBusy (takeTrap s c v) = false →
    s.ctx.pc % 4 = 0 → s.ctx.pc < 2 ^ 64 → s.ctx.pc < s.codeLength →
    Answers .tret (takeTrap s c v) fun t => (∀ i, t.x i = s.x i) ∧ (∀ i, i < 16 → t.k i = s.k i) ∧ t.ctx.pc = s.ctx.pc
      ∧ t.ctx.level = .user ∧ t.ctx.space = s.ctx.space ∧ t.ctx.inev = s.ctx.inev

/-! ## Levels and system registers -/

/-- R320, R321: whatever instruction runs at user level, the core is at user level afterwards, or it has entered a handler at
offset 0: no instruction raises the level of the code that executes it. -/
def Obligations.UserCodeStaysAtUserLevel : Prop :=
  ∀ (i : Instr) (s t : State), isCode i = true → s.ctx.level = .user → exec i s = .next t →
    t.cur = s.cur ∧ (t.ctx.level = .user ∨ (t.ctx.pc = 0 ∧ t.ctx.space = .handler))

/-- R65, R291: with two exceptions, whatever instruction runs at user level, the registers, the PC and the level of every other core
are as before: it takes LEASE_FAULT, which ends its launch and stops the cores that run for it (R303, R344), or it gives back what a core
has sent that still waits in its own core's spill ring, whose reply or refusal that core then has (R335, R340). -/
def Obligations.UserCodeLeavesOtherCores : Prop :=
  ∀ (i : Instr) (s t : State), isCode i = true → s.ctx.level = .user → exec i s = .next t → t.ctx.level ≠ .machine →
    ∀ c, c ≠ s.cur → (s.me.ring.all fun e => itemSender e.item != c) = true → (t.core c).ctx = (s.core c).ctx

/-- R69, R327, R4: `srr` writes the register's value to XD where the number is assigned and the level reaches it, and
otherwise raises ILLEGAL with the encoding. R69, R327, R4, R100, R137, R322: `srw` writes the register with its reserved bits
discarded, and a PPRIV of 3 leaves PPRIV as it was; a read-only number, an unassigned one, one above the level, a MODE of 5 to 7 and an order above 7 raise ILLEGAL
with the encoding. -/
def Obligations.SystemRegisterResults : Prop :=
  (∀ (d : BitVec 5) (s : State), let c := s.ctx; let k := s.me
    let gives := fun (n : BitVec 10) (v : Word) => Answers (.srr d n) s fun t => ScalarTo s t d.toNat v
    let traps := fun (n : BitVec 10) => exec (.srr d n) s = .next (takeTrap s .illegal ((Instr.srr d n).encode.zeroExtend 64))
    (gives 0 c.round ∧ gives 1 c.fflags ∧ gives 2 c.jord ∧ gives 3 c.jfl ∧ gives 4 (c.amax.getD 0 0) ∧ gives 5 (c.amax.getD 1 0)
        ∧ gives 6 (c.amax.getD 2 0) ∧ gives 7 (c.amax.getD 3 0) ∧ gives 8 c.partition ∧ gives 9 c.crewcoord ∧ gives 10 (coreidOf s.cur)
        ∧ gives 11 (sgenableOf s) ∧ gives 12 k.cycle ∧ gives 13 0x06543333 ∧ gives 14 c.bartimeout ∧ gives 15 (estatusOf s s.cur)
        ∧ gives 16 c.evec ∧ gives 17 c.ecause ∧ gives 18 c.evalue ∧ gives 19 c.epc)
      ∧ (c.level ≠ .user → gives 0x100 c.tcause ∧ gives 0x101 c.tvalue ∧ gives 0x102 c.tpc ∧ gives 0x103 c.tstatus)
      ∧ (c.level = .machine → gives 0x200 k.mcause ∧ gives 0x201 k.mvalue ∧ gives 0x202 k.mpc ∧ gives 0x203 k.mstatus)
      ∧ ∀ n : BitVec 10, (20 ≤ n.toNat ∧ n.toNat < 0x100) ∨ (0x104 ≤ n.toNat ∧ n.toNat < 0x200) ∨ 0x204 ≤ n.toNat
        ∨ (0x100 ≤ n.toNat ∧ c.level = .user) ∨ (0x200 ≤ n.toNat ∧ c.level ≠ .machine) → traps n)
    ∧ (∀ (a : BitVec 5) (s : State), let c := s.ctx; let v := s.x a.toNat
    let ctx := fun (n : BitVec 10) (u : Ctx) => Answers (.srw a n) s fun t => OnlyCtx s t ∧ t.ctx = { u with pc := c.pc + 4 }
    let me := fun (n : BitVec 10) (k : Core) => Answers (.srw a n) s fun t => { t with cores := s.cores } = s ∧ OtherCores s t
      ∧ t.me = { k with ctx := { c with pc := c.pc + 4 } }
    let traps := fun (n : BitVec 10) => exec (.srw a n) s = .next (takeTrap s .illegal ((Instr.srw a n).encode.zeroExtend 64))
    (v.toNat % 8 < 5 → ctx 0 { c with round := v &&& 0xF }) ∧ (5 ≤ v.toNat % 8 → traps 0) ∧ ctx 1 { c with fflags := v &&& 0x3F }
      ∧ (v.toNat < 8 → ctx 2 { c with jord := v }) ∧ (8 ≤ v.toNat → traps 2) ∧ ctx 3 { c with jfl := v &&& 0xFFFFFFFFFF }
      ∧ (∀ n : Fin 4, ctx (BitVec.ofNat 10 (4 + n.val)) { c with amax := c.amax.set n.val (v &&& 0xFFFFFFFF) })
      ∧ ctx 14 { c with bartimeout := v &&& 0xFFFFFFFF } ∧ ctx 16 { c with evec := v &&& 0xFFFD } ∧ ctx 19 { c with epc := v &&& 0xFFFC }
      ∧ (c.level ≠ .user → ctx 0x100 { c with tcause := v &&& 0x800000000000FFFF } ∧ ctx 0x101 { c with tvalue := v }
        ∧ ctx 0x102 { c with tpc := v } ∧ ctx 0x103 { c with tstatus := v &&& 0x131 })
      ∧ (c.level = .machine → me 0x200 { s.me with mcause := v &&& 0x800000000000FFFF } ∧ me 0x201 { s.me with mvalue := v }
        ∧ me 0x202 { s.me with mpc := v } ∧ (v.toNat % 4 ≠ 3 → me 0x203 { s.me with mstatus := v &&& 0x133 })
        ∧ (v.toNat % 4 = 3 → me 0x203 { s.me with mstatus := (v &&& 0x130) ||| (s.me.mstatus &&& 3) }))
      ∧ ∀ n : BitVec 10, (8 ≤ n.toNat ∧ n.toNat < 14) ∨ n.toNat = 15 ∨ n.toNat = 17 ∨ n.toNat = 18 ∨ (20 ≤ n.toNat ∧ n.toNat < 0x100)
        ∨ (0x104 ≤ n.toNat ∧ n.toNat < 0x200) ∨ 0x204 ≤ n.toNat ∨ (0x100 ≤ n.toNat ∧ c.level = .user)
        ∨ (0x200 ≤ n.toNat ∧ c.level ≠ .machine) → traps n)

/-- R85, R195 to R197, R345: `hint` does nothing; `fence` writes the failures recorded for the levels within its scope to XD
and clears them, once no store of its agent that it orders is in flight and, where it orders loads, no open stream of the agent has
one still to make (R213); until then the core waits, as it is or for a translation (`awaitNeed`); `wfe` holds,
or goes on at once where an event that is delivered or an interrupt waits; `halt` parks the core at the next instruction. That
it waits for every such store, whatever its scope, is log 5 (DESIGN CHOICE), and for every such load log 59 (DEDUCED); that the records of
several levels are put together by OR and by a saturating sum is log 43 (DEDUCED). -/
def Obligations.SystemFormResults : Prop :=
  ∀ (h : BitVec 26) (d : BitVec 5) (c p u : BitVec 3) (s : State),
    let mine := ownStores s
    let due := (!s.ctx.events.isEmpty && bit s.ctx.evec.toNat 0) || !s.me.irqs.isEmpty
    let within := (List.range 7).filter (· ≤ c.toNat)
    (Answers (.hint h) s fun t => GoesOn s t)
      ∧ ((bit p.toNat 1 && mine) = false → (bit p.toNat 2 = true → streamsOut s = []) → Answers (.fence d c p u) s fun t => OnlyCtx s t
        ∧ t.x d.toNat = (if d = 0 then 0 else BitVec.ofNat 64 (fenceStatus (within.map fun n => s.ctx.pending.getD n 0)))
        ∧ (∀ n, n < 7 → t.ctx.pending.getD n 0 = if n ≤ c.toNat then 0 else s.ctx.pending.getD n 0)
        ∧ KeepsX s.ctx t.ctx d.toNat ∧ t.ctx.pc = s.ctx.pc + 4
        ∧ { t.ctx with x := s.ctx.x, shadow := s.ctx.shadow, pending := s.ctx.pending, pc := s.ctx.pc } = s.ctx)
      ∧ ((bit p.toNat 1 && mine) = true → exec (.fence d c p u) s = .next s)
      ∧ (∀ w l, (bit p.toNat 1 && mine) = false → bit p.toNat 2 = true → streamsOut s = w :: l →
        ∃ t, awaitNeed s w = .hold t ∧ exec (.fence d c p u) s = .next t)
      ∧ (due = true → Answers .wfe s fun t => GoesOn s t)
      ∧ (due = false → Answers .wfe s fun t => { t with cores := s.cores } = s ∧ OtherCores s t
        ∧ t.me = { s.me with hold := .wfe, since := s.me.cycle })
      ∧ (s.ctx.level = .machine → Answers .halt s fun t => { t with cores := s.cores } = s ∧ OtherCores s t
        ∧ t.me = { s.me with run := .parked, ctx := { s.ctx with pc := s.ctx.pc + 4 } })

/-! ## Capabilities -/

/-- R90: `CapCheck` applies its checks in the order of Table 4.22, and the first that fails is the trap: the tag, the seal and
the permissions, the space, the bounds. R297: an address whose window decodes to other bounds than the capability's own VA is out
of bounds. -/
def Obligations.CapCheckOrder : Prop :=
  ∀ (lv : Level) (c : Cap) (a : Word) (size need : Nat), let va := a.toNat % 2 ^ 56
    let rights := c.isSealed = false ∧ c.perms &&& need = need
    let place := c.space < 8 ∧ (c.space = 7 → lv = .machine)
    let within := c.baseAt va = c.base ∧ c.base ≤ va ∧ (va : Int) + size ≤ c.top
    (c.tag = false → capCheck lv c a size need = trap .capTag a)
      ∧ (c.tag = true → ¬ rights → capCheck lv c a size need = trap .capPerm a)
      ∧ (c.tag = true → rights → ¬ place → capCheck lv c a size need = trap .capPerm a)
      ∧ (c.tag = true → rights → place → ¬ within → capCheck lv c a size need = trap .capBounds a)
      ∧ (c.tag = true → rights → place → within → capCheck lv c a size need = .ok ())

/-- R297 to R299: the forms that derive a capability write it to KD, and change nothing else. R300, R301: `kseal` seals under
the authority's VA as the type, and `kunseal` undoes it where the types agree; `klease` gives the intersection with a lease
that the launch names. Table 13.4, R298: the forms that read a field of a capability write it to XD, and change nothing else.
-/
def Obligations.CapabilityFormResults : Prop :=
  (∀ (d k : BitVec 4) (a : BitVec 5) (s : State), let c := s.k k.toNat; let w := (s.x a.toNat).toNat
    let gives := fun (i : Instr) (r : Cap) => Answers i s fun t => CapTo s t d.toNat r
    let open' := c.tag = true ∧ c.isSealed = false
    let derive := open' ∧ c.perms &&& 512 = 512
    let moved := c.put 0 56 (w % 2 ^ 56)
    (∀ e, derive → (c.va : Int) + w ≤ c.top → Cap.expFor w = some e → c.va % 2 ^ e = 0 → w % 2 ^ e = 0 → c.base ≤ c.va →
        gives (.kbound d a k) (((c.put 86 5 e).put 75 11 (c.va / 2 ^ e)).put 64 11 (w / 2 ^ e)))
      ∧ (derive → gives (.kperm d a k) (c.put 91 12 (c.perms &&& w % 2 ^ 12)))
      ∧ (derive → gives (.kaddr d a k)
        (if c.base ≤ (w % 2 ^ 56 : Nat) ∧ ((w % 2 ^ 56 : Nat) : Int) < c.base + (2 ^ (c.exp + 11) : Nat) then moved else { moved with tag := false }))
      ∧ (derive → w / 2 ^ 60 % 16 < 12 → blogOk (w / 2 ^ 60 % 16) (w / 2 ^ 56 % 16) = true →
        gives (.kformat d a k) ((c.put 60 4 (w / 2 ^ 60 % 16)).put 56 4 (w / 2 ^ 56 % 16)))
      ∧ (open' → gives (.kbase d k) (c.put 0 56 (wrap 56 c.base))))
    ∧ (∀ (d k m : BitVec 4) (a : BitVec 5) (s : State), let c := s.k k.toNat; let w := s.k m.toNat
    let gives := fun (i : Instr) (r : Cap) => Answers i s fun t => CapTo s t d.toNat r
    let may := fun (p : Nat) => w.tag = true ∧ w.isSealed = false ∧ w.perms &&& p = p ∧ w.base ≤ w.va ∧ (w.va : Int) < w.top ∧ w.va < 2 ^ 20
    (c.tag = true → c.isSealed = false → may 128 → gives (.kseal d k m) ((c.put 107 1 1).put 108 20 w.va))
      ∧ (c.tag = true → c.isSealed = true → c.otype = w.va → may 256 → gives (.kunseal d k m) ((c.put 107 1 0).put 108 20 0))
      ∧ (∀ (l : Launch) (f : Vif) (e : Lease) (r : Cap), s.ctx.level ≠ .user → c.tag = true → c.isSealed = false →
        c.perms &&& 512 = 512 → s.myLaunch = some l → s.myVif.bind s.vif = some f → l.leases.any (·.id == e.id) = true →
        e.id = (s.x a.toNat).toNat % 2 ^ 16 → f.leases.find? (·.id == e.id) = some e → c.space = e.space →
        max c.base e.va < min c.top (e.va + e.len : Nat) →
        c.narrow (max c.base e.va).toNat (min c.top (e.va + e.len : Nat) - max c.base e.va).toNat = .ok r →
        gives (.klease d a k) (r.put 0 56 (max c.base e.va).toNat)))
    ∧ (∀ (d : BitVec 5) (k : BitVec 4) (s : State), let c := s.k k.toNat
    let gives := fun (i : Instr) (v : Word) => Answers i s fun t => ScalarTo s t d.toNat v
    gives (.kgaddr d k) (c.bits.extractLsb' 0 64) ∧ gives (.kglen d k) (BitVec.ofInt 64 (c.top - c.base))
      ∧ gives (.kgbase d k) (BitVec.ofInt 64 c.base) ∧ gives (.kgperm d k) (BitVec.ofNat 64 ((c.bits.extractLsb' 91 10).toNat))
      ∧ gives (.kgspace d k) (BitVec.ofNat 64 ((c.bits.extractLsb' 108 20).toNat * 256 + (c.bits.extractLsb' 107 1).toNat * 16
        + (c.bits.extractLsb' 103 4).toNat)) ∧ gives (.kgtag d k) (if c.tag then 1 else 0))

/-- R296: no form that derives a capability gives more than its source: where the result is tagged the source was, and its
permissions, its bounds and its space lie within those of the source. The forms that bound, restrict, move or retype say so of the
bounds as numbers; `kbase`, `kseal`, `kunseal` and `klease` as addresses, which wrap at 2^56 (R89). Only `kseal` gives a sealed
capability. -/
def Obligations.DerivationNeverWidens : Prop :=
  ∀ (d k m : BitVec 4) (a : BitVec 5) (s t : State) (i : Instr),
    let near := i = .kbound d a k ∨ i = .kperm d a k ∨ i = .kaddr d a k ∨ i = .kformat d a k
    (near ∨ i = .kbase d k ∨ i = .kseal d k m ∨ i = .kunseal d k m ∨ i = .klease d a k) →
    exec i s = .next t → t.ctx.pc = s.ctx.pc + 4 →
    let c := s.k k.toNat; let r := t.k d.toNat
    r.tag = true → c.tag = true ∧ r.perms &&& c.perms = r.perms ∧ r.space = c.space ∧ (i ≠ .kseal d k m → r.isSealed = false)
      ∧ (near → c.base ≤ r.base ∧ r.top ≤ c.top)
      ∧ ∃ n : Int, c.base ≤ r.base + n * 2 ^ 56 ∧ r.top + n * 2 ^ 56 ≤ c.top

/-- R200, R201, R186, R293: where the checks of the operand pass, no older store of its agent to its bytes is in flight and no stream of
the agent has a load of them still to make (R192, R213), its memory can be reached, holds no poison and the weir is open, a scalar
load writes the bytes at the effective address to XD, sign- or zero-extended, changes no other register and no memory, and is charged.
That it waits for such a store is log 5, and that it waits for such a stream log 71. -/
def Obligations.ScalarLoadResults : Prop :=
  ∀ (d : BitVec 5) (k : BitVec 4) (x : BitVec 5) (c : BitVec 2) (o : BitVec 9) (s : State) (ls : List Loc),
    let key := s.k k.toNat
    let a := effAddr key (s.x x.toNat) (2 ^ c.toNat) o.toInt
    let moved := fun (n : Nat) => [movedTo key.space n ls]
    let ready := fun (n : Nat) => operand s key a n permLoad 1 .load = .ok ls ∧ loadHeld s s.here ls = false ∧ ls.any (locDown s) = false
      ∧ anyBad s ls = false ∧ weirsOpen s (moved n) = true
    let gives := fun (i : Instr) (n : Nat) (v : Nat → Word) => ready n → Answers i s fun t =>
      ScalarTo (accessed s (moved n)) t d.toNat (v (natOfBytes (readLocs s ls)))
    gives (.ldb d k x c o) 1 (fun b => (BitVec.ofNat 8 b).signExtend 64) ∧ gives (.ldbn d k x c o) 1 (BitVec.ofNat 64)
      ∧ gives (.ldh d k x c o) 2 (fun b => (BitVec.ofNat 16 b).signExtend 64) ∧ gives (.ldhn d k x c o) 2 (BitVec.ofNat 64)
      ∧ gives (.ldw d k x c o) 4 (fun b => (BitVec.ofNat 32 b).signExtend 64) ∧ gives (.ldwn d k x c o) 4 (BitVec.ofNat 64)
      ∧ gives (.ldd d k x c o) 8 (BitVec.ofNat 64)

/-- R203, R201: `ldk` writes the 16 bytes at an aligned address to KD; the tag is the granule's where the capability has LOADK
and its space is 0 to 3, and clear otherwise. `stk` stores the 16 bytes at an aligned address, and the tag likewise under STOREK:
in the core's own pool at once, elsewhere once the pieces that go on their way are performed, which is log 5 (DESIGN CHOICE). R202: the tag of every granule that a
data store touches is clear then. -/
def Obligations.CapabilityLoadsAndStores : Prop :=
  ∀ (d k : BitVec 4) (y x : BitVec 5) (c : BitVec 2) (o : BitVec 9) (s : State) (ls : List Loc),
    let key := s.k k.toNat; let v := s.k d.toNat
    let a := effAddr key (s.x x.toNat) (2 ^ c.toNat) o.toInt
    let passes := fun (p : Nat) => key.perms &&& p == p && key.space ≤ 3
    let moved := fun (n : Nat) => [movedTo key.space n ls]
    let data := fun (i : Instr) (n : Nat) => operand s key a n permStore 1 .store = .ok ls → weirsOpen s (moved n) = true →
      (ls.map (·.len)).sum = n → apart ls → Answers i s fun t => Lands s t ls (bytesOfNat n (s.x y.toNat).toNat) fun _ => false
    (operand s key a 16 permLoad 16 .load = .ok ls → loadHeld s s.here ls = false → ls.any (locDown s) = false → anyBad s ls = false →
      weirsOpen s (moved 16) = true → Answers (.ldk d k x c o) s fun t => CapTo (accessed s (moved 16)) t d.toNat
        ⟨(ls.all fun l => !l.foreign && s.mem.tagAt l.addr) && passes permLoadK, BitVec.ofNat 128 (natOfBytes (readLocs s ls))⟩)
      ∧ (operand s key a 16 permStore 16 .store = .ok ls → weirsOpen s (moved 16) = true →
        Answers (.stk d k x c o) s fun t => StoreFrame s t ls ∧ t.ctx = { s.ctx with pc := s.ctx.pc + 4 }
          ∧ StoreOnly (accessed s (moved 16)) t
          ∧ ((ls.map (·.len)).sum = 16 → apart ls → ls.length = 1 → (∀ l ∈ ls, l.addr % 16 = 0 ∧ l.granule % 16 = 0) →
            Lands s t ls (bytesOfNat 16 v.bits.toNat) fun _ => v.tag && passes permStoreK)
          ∧ (ls.all (·.own) = true → t.stores = s.stores))
      ∧ data (.stb y k x c o) 1 ∧ data (.sth y k x c o) 2 ∧ data (.stw y k x c o) 4 ∧ data (.std y k x c o) 8

/-- R200, R201, R202, R185, R293: where the checks of the operand pass and the weir is open, a scalar store issues: in the core's
own pool it is performed at once, elsewhere its pieces go on their way (that a store of the own pool does not is log 5, DESIGN CHOICE), and once they are performed its bytes stand at the
effective address; every byte outside the stored runs reads as before, no register changes, and it is charged. That the bytes stand
there is said of runs that lie in the module, keep what is stored to them and are apart. -/
def Obligations.ScalarStoreResults : Prop :=
  ∀ (d : BitVec 5) (k : BitVec 4) (x : BitVec 5) (c : BitVec 2) (o : BitVec 9) (s : State) (ls : List Loc),
    let key := s.k k.toNat
    let a := effAddr key (s.x x.toNat) (2 ^ c.toNat) o.toInt
    let gives := fun (i : Instr) (n : Nat) =>
      operand s key a n permStore 1 .store = .ok ls → weirsOpen s [movedTo key.space n ls] = true → Answers i s fun t =>
        StoreFrame s t ls ∧ t.ctx = { s.ctx with pc := s.ctx.pc + 4 } ∧ StoreOnly (accessed s [movedTo key.space n ls]) t
          ∧ (ls.all (·.own) = true → t.stores = s.stores)
          ∧ ((ls.map (·.len)).sum = n → apart ls → Lands s t ls (bytesOfNat n (s.x d.toNat).toNat) fun _ => false)
    gives (.stb d k x c o) 1 ∧ gives (.sth d k x c o) 2 ∧ gives (.stw d k x c o) 4 ∧ gives (.std d k x c o) 8

/-- R186, R181: a load that reads a poisoned granule raises POISON_USE, and one whose memory cannot be reached MEM_UNCORR,
each with the effective address; R90: a load or store whose operand checks fail takes their trap; R303: one outside every lease
takes LEASE_FAULT. Nothing else happens. R293, R295: a load or store whose weir is exhausted holds as it stands, as does a load
behind a store of its own agent (R188; log 5); a load behind one that a stream has still to make of its bytes holds too, as it stands
or for the translation of that load (R192, R213; log 71). -/
def Obligations.LoadTrapsAndHolds : Prop :=
  ∀ (d : BitVec 5) (e k : BitVec 4) (x : BitVec 5) (c : BitVec 2) (o : BitVec 9) (s : State),
    let key := s.k k.toNat
    let a := effAddr key (s.x x.toNat) (2 ^ c.toNat) o.toInt
    let loads : List (Instr × Nat × Nat) := [(.ldb d k x c o, 1, 1), (.ldbn d k x c o, 1, 1), (.ldh d k x c o, 2, 1),
      (.ldhn d k x c o, 2, 1), (.ldw d k x c o, 4, 1), (.ldwn d k x c o, 4, 1), (.ldd d k x c o, 8, 1), (.ldk e k x c o, 16, 16)]
    let stores : List (Instr × Nat × Nat) := [(.stb d k x c o, 1, 1), (.sth d k x c o, 2, 1), (.stw d k x c o, 4, 1),
      (.std d k x c o, 8, 1), (.stk e k x c o, 16, 16)]
    let stops := fun (i : Instr) (r : Res (List Loc)) => (∀ cause v, r = trap cause v → exec i s = .next (takeTrap s cause v))
      ∧ (∀ va, r = .error (.lease va) → exec i s = .next (takeLeaseFault s va)) ∧ ∀ t, r = .error (.hold t) → exec i s = .next t
    (∀ p ∈ loads, let (i, n, align) := p
      let r := operand s key a n permLoad align .load
      stops i r ∧ ∀ ls, r = .ok ls → (ownOut s s.here ls = true → exec i s = .next s)
        ∧ (∀ w l, ownOut s s.here ls = false → streamsMeet s s.here ls = w :: l → ∃ t, awaitNeed s w = .hold t ∧ exec i s = .next t)
        ∧ (loadHeld s s.here ls = false → ls.any (locDown s) = true → exec i s = .next (takeTrap s .memUncorr a))
        ∧ (loadHeld s s.here ls = false → ls.any (locDown s) = false → anyBad s ls = true → exec i s = .next (takeTrap s .poisonUse a))
        ∧ (loadHeld s s.here ls = false → ls.any (locDown s) = false → anyBad s ls = false → weirsOpen s [movedTo key.space n ls] = false →
          exec i s = .next s))
      ∧ ∀ p ∈ stores, let (i, n, align) := p
        let r := operand s key a n permStore align .store
        stops i r ∧ ∀ ls, r = .ok ls → weirsOpen s [movedTo key.space n ls] = false → exec i s = .next s

/-- R207, R181, R186, R192: an AMO at an aligned word reads the old value, writes the new one at its memory in the same step, and
gives the old value to XD; with W = 0 it acts on 32 bits and sign-extends, zero-extends for the natural forms. It waits for the
accesses of its agent that it orders: with a release for all own stores and all loads of open streams (R189, R213; log 59), else for those to
its bytes (log 5, log 71). A poisoned word raises POISON_USE, and one
that cannot be reached MEM_UNCORR with no register written, when the write may have been made (R181), but never over poison. A
target outside the module may refuse it (log 21), which is recorded at its level (R183, R197); what XD then holds is log 24 (DESIGN
CHOICE). -/
def Obligations.AtomicResults : Prop :=
  ∀ (d : BitVec 5) (k : BitVec 4) (x : BitVec 5) (o : BitVec 2) (sc : BitVec 3) (w : BitVec 1) (s : State) (ls : List Loc),
    let key := s.k k.toNat
    let a : Word := BitVec.ofNat 64 key.va
    let n := if w = 1 then 8 else 4
    let old := natOfBytes (readLocs s ls)
    let src := (s.x x.toNat).toNat % 2 ^ (8 * n)
    let wide := fun (v : Nat) => if w = 1 then BitVec.ofNat 64 v else (BitVec.ofNat 32 v).signExtend 64
    let ready := (2 ≤ o.toNat → ownStores s = false ∧ streamsOut s = []) ∧ loadHeld s s.here ls = false
    let refused := ls.any (·.foreign) = true ∧ Config.foreignRefuses s.tick = true
    let moved := fun (operands : Nat) => [movedTo key.space (if key.space = 4 ∨ key.space = 5 then n * (operands + 1) else n) ls]
    let gives := fun (i : Instr) (operands : Nat) (v : Nat → Word) (new : Option Nat) => let acc := accessed s (moved operands)
      operand s key a n (permLoad + permStore + permAtomic) n .store = .ok ls →
      ((2 ≤ o.toNat ∧ ownStores s = true) ∨ ((2 ≤ o.toNat → streamsOut s = []) ∧ ownOut s s.here ls = true) → exec i s = .next s)
        ∧ (¬ ready → ∃ t, amoReady s o.toNat ls = .error (.hold t) ∧ exec i s = .next t)
        ∧ (ready → ls.any (locDown s) = true → ∃ m, exec i s = .next (takeTrap { s with mem := m } .memUncorr a)
          ∧ (∀ b, inLocs ls b = false → m.byteAt b = s.mem.byteAt b) ∧ (anyBad s ls = true ∨ new = none → m = s.mem))
        ∧ (ready → ls.any (locDown s) = false → anyBad s ls = true → exec i s = .next (takeTrap s .poisonUse a))
        ∧ (ready → ls.any (locDown s) = false → anyBad s ls = false → weirsOpen s (moved operands) = false → exec i s = .next s)
        ∧ (ready → ls.any (locDown s) = false → anyBad s ls = false → weirsOpen s (moved operands) = true → ∃ t, exec i s = .next t
          ∧ ScalarCtx (if refused then markPending s.ctx ((ls.head?.map (·.level)).getD 6) 1 else s.ctx) t.ctx d.toNat (v old) (s.ctx.pc + 4)
          ∧ CoreFrame acc t ∧ { t with cores := acc.cores, mem := acc.mem } = acc
          ∧ (refused ∨ new = none → t.mem = s.mem)
          ∧ (∀ b, inLocs ls b = false → t.mem.byteAt b = s.mem.byteAt b)
          ∧ ∀ l, ls = [l] → plainLocs ls = true → l.len = n → SameOutside s.mem t.mem l.addr n
            ∧ ∀ v, new = some v → t.mem.readNat l.addr n = v % 2 ^ (8 * n))
    let pick := fun (greater natural : Bool) => if natural then (if greater then max old src else min old src)
      else wrap (8 * n) (if greater then max (toSigned (8 * n) old) (toSigned (8 * n) src) else min (toSigned (8 * n) old) (toSigned (8 * n) src))
    gives (.amoAdd d k x o sc w) 1 wide (some (old + src)) ∧ gives (.amoSwap d k x o sc w) 1 wide (some src)
      ∧ gives (.amoAnd d k x o sc w) 1 wide (some (old &&& src)) ∧ gives (.amoOr d k x o sc w) 1 wide (some (old ||| src))
      ∧ gives (.amoCas d k x o sc w) 2 wide (if old = (s.x d.toNat).toNat % 2 ^ (8 * n) then some src else none)
      ∧ gives (.amoMax d k x o sc w 0) 1 wide (some (pick true false)) ∧ gives (.amoMin d k x o sc w 0) 1 wide (some (pick false false))
      ∧ gives (.amoMax d k x o sc w 1) 1 (BitVec.ofNat 64) (some (pick true true))
      ∧ gives (.amoMin d k x o sc w 1) 1 (BitVec.ofNat 64) (some (pick false true))

/-- R181, R185, R186, R202: an event performs one piece of a store in flight, none of whose agent's older stores has a byte in
common with it (log 5): its bytes and tags are in memory, the granules of its poison are poisoned, those that its store has now
written whole and good are poisoned no more, and the piece is in flight no more. A piece whose link is dead, or that a target outside
the module refuses (log 21), fails instead, and memory stays. R197: bit 0 of the record of its level is set for a dead link, bit 1
for a refusal and bit 2 for poison, for the agent that issued it; the first two count, one for each piece that fails (log 60, DESIGN
CHOICE). -/
def Obligations.StoreCompletionResults : Prop :=
  ∀ (n : Nat) (f : InFlight) (s : State), s.stores[n]? = some f → storeBefore s n f = false →
    let rest := s.stores.eraseIdx n
    let down := (f.link.map (linkDown s)).getD false
    let refused := down = false ∧ f.foreign = true ∧ Config.foreignRefuses s.tick = true
    let part := rest.map fun (e : InFlight) => if e.sameStore f then { e with clean := e.clean.filter (!f.clean.contains ·) } else e
    let recorded := fun (t : State) (b count : Nat) => (s.core f.core).rx = f.x → f.level < 7 →
      let was := ((s.core f.core).ctx.pending.getD f.level 0).toNat
      let now := ((t.core f.core).ctx.pending.getD f.level 0).toNat
      bit now b = true ∧ (∀ i, i < 8 → i ≠ b → bit now i = bit was i) ∧ now / 256 = min 255 (was / 256 + count)
        ∧ ∀ c, c ≠ f.core → t.core c = s.core c
    (down = false → ¬ refused → f.bytes ≠ [] → (f.poison = [] ∨ (s.core f.core).rx = f.x) → Answers (.storeCompletion n) s fun t =>
        t.mem.read f.addr f.bytes.length = f.bytes
          ∧ (∀ b, b < f.addr ∨ f.addr + f.bytes.length ≤ b → t.mem.byteAt b = s.mem.byteAt b)
          ∧ (∀ g, g ∈ t.mem.tags ↔ g ∈ f.tags ∨ (g ∈ s.mem.tags ∧ (16 * g + 16 ≤ f.addr ∨ f.addr + f.bytes.length ≤ 16 * g)))
          ∧ (∀ g, g ∈ t.mem.poison ↔ g ∉ healed { s with stores := rest } f
            ∧ (g ∈ f.poison ∨ (g ∈ s.mem.poison ∧ ¬ (f.addr ≤ 32 * g ∧ 32 * g + 32 ≤ f.addr + f.bytes.length))))
          ∧ t.stores = rest ∧ { t with mem := s.mem, stores := s.stores, cores := s.cores } = s
          ∧ (f.poison = [] → t.cores = s.cores) ∧ (f.poison ≠ [] → recorded t 2 0))
      ∧ (down = true → Answers (.storeCompletion n) s fun t => t.stores = part ∧ recorded t 0 1 ∧ ((s.core f.core).rx = f.x → t.mem = s.mem))
      ∧ (refused → Answers (.storeCompletion n) s fun t => t.stores = part ∧ recorded t 1 1 ∧ ((s.core f.core).rx = f.x → t.mem = s.mem))

/-! ## Streams and sharded tensors -/

/-- R210 to R212: `qopen` opens a stream over a record that keeps Table 10.3, at position 0; `qadv` moves it on by one read,
`qend` tells whether it has reached its total, and `qclose` closes it, a write stream once its agent's stores are performed: that it
waits for all of them, and `qopen` over an open write stream too, where R212 asks for the stream's, is log 79 (DESIGN CHOICE). None of
them changes another register or memory. The loads of a stream stand in program order at its `qopen` (R213), which has a place there. R208, R311: `ldt` writes the element of a sharded tensor at its coordinates to XD,
sign-extended for INT8 and INT32; `vldt` fills a vector register with the elements from the coordinates on, and writes zero in the
lanes past the extent; memory changes in that register alone. -/
def Obligations.StreamAndShardResults : Prop :=
  (∀ (q : BitVec 3) (d : BitVec 5) (k m : BitVec 4) (s : State), let r := s.q q.toNat
    let writes := fun (a t : State) (v : StreamReg) => t.q q.toNat = v ∧ (∀ n, n ≠ q.toNat → t.q n = s.q n) ∧ t.ctx.pc = s.ctx.pc + 4
      ∧ { t.ctx with streams := s.ctx.streams, pc := s.ctx.pc } = s.ctx ∧ CoreFrame a t ∧ { t with cores := a.cores } = a
    let busy := r.isOpen && r.dir == 1 && ownStores s
    (r.isOpen = true → Answers (.qadv q) s fun t => let p := min (r.pos + 128 / 2 ^ r.elog) r.total
        writes s t { r with pos := p, ahead := r.ahead.filter fun e => r.unitOf p ≤ e.unit })
      ∧ (r.isOpen = true → Answers (.qend d q) s fun t => ScalarTo s t d.toNat (if r.pos = r.total then 1 else 0))
      ∧ (r.isOpen = false → exec (.qadv q) s = .next (takeTrap s .illegal ((Instr.qadv q).encode.zeroExtend 64))
        ∧ exec (.qend d q) s = .next (takeTrap s .illegal ((Instr.qend d q).encode.zeroExtend 64)))
      ∧ (busy = false → Answers (.qclose q) s fun t => writes s t StreamReg.closed) ∧ (busy = true → exec (.qclose q) s = .next s)
      ∧ (∀ bs bad ls, let rec' := s.k m.toNat; let base := s.k k.toNat; let a : Word := BitVec.ofNat 64 rec'.va
        let v : StreamReg := { isOpen := true, record := BitVec.ofNat 512 (natOfBytes bs), fibres := BitVec.ofNat 64 ((rec'.va + 64) % 2 ^ 56)
                               listSpace := rec'.space, base := base, pos := 0, since := s.seq, ahead := [], cursor := none }
        capCheck s.ctx.level rec' a 64 permLoad = .ok () → loadBytes s rec'.space a 64 = .ok (bs, bad, ls) → bad.any id = false →
        v.sound = true → (v.kind = 1 → capCheck s.ctx.level rec' v.fibres (8 * v.flen) permLoad = .ok ()) →
        capRights s.ctx.level base base.addr (if v.dir = 0 then permLoad else permStore) = .ok () → base.space ≠ 6 → base.space ≠ 7 →
        walkFormat v = .ok () → busy = false → weirsOpen s [movedTo rec'.space 64 ls] = true →
        Answers (.qopen q k m) s fun t => writes { accessed s [movedTo rec'.space 64 ls] with seq := s.seq + 1 } t v))
    ∧ (∀ (d : BitVec 5) (v : BitVec 6) (k : BitVec 4) (x : BitVec 5) (ty : BitVec 4) (s : State) (e : Shard) (c : List Nat),
    shardCheck s k x ty = .ok (e, c) → ty.toNat ≤ 8 →
    (∀ bs bad a m, shardElement s (s.x x.toNat) e c = .ok (bs, bad, a, m) → bad.any id = false → weirsOpen s [m] = true →
      Answers (.ldt d k x ty) s fun t => ScalarTo (accessed s [m]) t d.toNat
          (if ty = 6 ∨ ty = 7 then BitVec.ofInt 64 (toSigned (8 * m.bytes) (natOfBytes bs)) else BitVec.ofNat 64 (natOfBytes bs)))
      ∧ (∀ es : Nat → List Byte × List Bool × Word × Moved, v.toNat < s.ctx.vcount →
        let lanes := (List.range (lanesOf ty.toNat)).filter fun l => c.getD 0 0 + l < e.ext.getD 0 1
        let acc := accessed s (lanes.map fun l => (es l).2.2.2)
        (∀ l ∈ lanes, shardElement s (s.x x.toNat) e ((c.getD 0 0 + l) :: c.drop 1) = .ok (es l)
          ∧ (es l).1.length = widthOf ty.toNat / 8) → weirsOpen s (lanes.map fun l => (es l).2.2.2) = true →
        Answers (.vldt v k x ty) s fun t => t.ctx = { s.ctx with pc := s.ctx.pc + 4 } ∧ CoreFrame acc t
          ∧ SameOutside s.mem t.mem (poolAddr s.cur (128 * v.toNat)) 128 ∧ { t with cores := acc.cores, mem := acc.mem } = acc
          ∧ ∀ l, l < lanesOf ty.toNat → t.mem.read (poolAddr s.cur (128 * v.toNat + widthOf ty.toNat / 8 * l)) (widthOf ty.toNat / 8)
            = if c.getD 0 0 + l < e.ext.getD 0 1 then (es l).1 else List.replicate (widthOf ty.toNat / 8) 0))

/-! ## Vectors and jets -/

/-- R204 to R206, R186, R293: `vld` writes the elements at their addresses, converted, to the lanes of a vector register, and
poisons each granule that a poisoned element falls into; `vldx` writes the elements at its indexed addresses as they are.
Neither changes any other register or memory, `fflags` and the weirs apart; a load waits for its agent's older stores to its bytes
(log 5), and for the loads of them that its streams have still to make (R192, R213; log 71). R204 to R206, R185, R293: `vst` stores the lanes of a vector register, converted, at their addresses, and `vstx` stores
them as they are at its indexed addresses: every byte outside the stored runs reads as before, and no register changes but `fflags`
and the core's own fence record (R197). The bytes stand there under the conditions of the scalar stores. -/
def Obligations.VectorMemoryResults : Prop :=
  (∀ (d a : BitVec 6) (k : BitVec 4) (x : BitVec 5) (c : BitVec 2) (ty : BitVec 4) (o : BitVec 5) (s : State),
    let key := s.k k.toNat
    let t := ty.toNat
    let w := widthOf t / 8
    let lane := poolAddr s.cur (128 * d.toNat)
    let moves := fun (u : State) (m : Moved) (fl : Nat) (val : Nat → Nat) (bad : Nat → Prop) =>
      (∀ l, l < lanesOf t → u.mem.readNat (lane + w * l) w = val l % 2 ^ widthOf t)
        ∧ (∀ g, g < 4 → (lane / 32 + g ∈ u.mem.poison ↔ ∃ l, l < lanesOf t ∧ w * l / 32 = g ∧ bad l))
        ∧ SameOutside s.mem u.mem lane 128 ∧ CoreFrame (accessed s [m]) u
        ∧ { u with cores := (accessed s [m]).cores, mem := s.mem } = accessed s [m]
        ∧ u.ctx = { s.ctx with fflags := s.ctx.fflags ||| BitVec.ofNat 64 (fl % 64), pc := s.ctx.pc + 4 }
    (∀ (ls : List Loc) (mt es st : Nat), let va := effAddr key (s.x x.toNat) (2 ^ c.toNat) (o.toInt * 128)
      let el := fun (l : Nat) => natOfBytes (((readLocs s ls).drop (es * l)).take es)
      let conv := fun (l : Nat) => if mt = t then (el l, 0) else convert mt t s.ctx.mode s.ctx.flush false (el l)
      let m := movedTo key.space (lanesOf t * es) ls
      memElement key t = (mt, es, st) → vectorLocs s (.vld d k x c ty o) d.toNat key va t permLoad .load = .ok ls →
      (ownOut s s.here ls = true → exec (.vld d k x c ty o) s = .next s)
        ∧ (∀ w r, ownOut s s.here ls = false → streamsMeet s s.here ls = w :: r →
          ∃ u, awaitNeed s w = .hold u ∧ exec (.vld d k x c ty o) s = .next u)
        ∧ (loadHeld s s.here ls = false → ls.any (locDown s) = false → (ls.map (·.len)).sum = lanesOf t * es → weirsOpen s [m] = true →
          Answers (.vld d k x c ty o) s fun u => moves u m (laneFlags t conv) (fun l => (conv l).1)
            fun l => ∃ b, b < es ∧ (badBytes s ls).getD (es * l + b) false = true))
      ∧ ∀ (ps : List Word) (els : Nat → List Byte × List Bool × List Loc),
        let m := movedTo key.space 128 ((List.range (lanesOf t)).flatMap fun l => (els l).2.2)
        indexedAddrs s (.vldx d a k c ty) d.toNat a.toNat key c.toNat t permLoad = .ok ps →
        (∀ l, l < lanesOf t → loadBytes s key.space (ps.getD l 0) w = .ok (els l) ∧ (els l).1.length = w) →
        weirsOpen s [m] = true →
        Answers (.vldx d a k c ty) s fun u => moves u m 0 (fun l => natOfBytes (els l).1) fun l => (els l).2.1.any id = true)
    ∧ (∀ (d a : BitVec 6) (k : BitVec 4) (x : BitVec 5) (c : BitVec 2) (ty : BitVec 4) (o : BitVec 5) (s : State),
    let key := s.k k.toNat
    let t := ty.toNat
    let reg := vget s d.toNat
    let stores := fun (u : State) (m : Moved) (fl : Nat) (ls : List Loc) (bs : List Byte) =>
      StoreFrame s u ls ∧ StoreOnly (accessed s [m]) u
        ∧ { u.ctx with pending := s.ctx.pending }
            = { s.ctx with fflags := s.ctx.fflags ||| BitVec.ofNat 64 (fl % 64), pc := s.ctx.pc + 4 }
        ∧ (apart ls → Lands s u ls bs fun _ => false)
    (∀ (ls : List Loc) (mt es st : Nat), let va := effAddr key (s.x x.toNat) (2 ^ c.toNat) (o.toInt * 128)
      let conv := fun (l : Nat) => if mt = t then (laneAt t reg l, 0) else convert t mt s.ctx.mode s.ctx.flush false (laneAt t reg l)
      memElement key t = (mt, es, st) → vectorLocs s (.vst d k x c ty o) d.toNat key va t permStore .store = .ok ls →
      (ls.map (·.len)).sum = lanesOf t * es → weirsOpen s [movedTo key.space (lanesOf t * es) ls] = true →
      Answers (.vst d k x c ty o) s fun u => stores u (movedTo key.space (lanesOf t * es) ls) (laneFlags t conv) ls
        ((List.range (lanesOf t)).flatMap fun l => bytesOfNat es (conv l).1))
      ∧ ∀ (ps : List Word) (lss : List (List Loc)),
        indexedAddrs s (.vstx d a k c ty) d.toNat a.toNat key c.toNat t permStore = .ok ps →
        lss.length = lanesOf t → (∀ l, l < lanesOf t → locate s key.space (ps.getD l 0) (widthOf t / 8) .store = .ok (lss.getD l [])
          ∧ ((lss.getD l []).map (·.len)).sum = widthOf t / 8) →
        weirsOpen s [movedTo key.space 128 lss.flatten] = true →
        Answers (.vstx d a k c ty) s fun u => stores u (movedTo key.space 128 lss.flatten) 0 lss.flatten (poolRead s (128 * d.toNat) 128))

/-- R120 to R134, R95 to R101: with `jord` at zero and SQ = 0, a vector form whose registers are in the file and hold no
poison writes its result to VD and its flags to `fflags`, and changes nothing else; the result holds no poison. `vmov` takes a
poisoned register and carries its poison (R122); the amax form of `vcvt` also moves its `amax` register (R134), and where its TYPEs
are equal it leaves a quiet NaN as it is (log 38, DEDUCED). `vsel` selects by the bits of the mask lane, of which R129 says nothing for
−0 and subnormals (log 65, DESIGN CHOICE); an E4M3 that overflows, and the flags and the last bit of a special function, are logs 18, 19
and 20; that a source register is examined whole for poison is log 73 (DESIGN CHOICE). R99, R103, R104: a value, a sum, a product, a
quotient, a fused product and sum and a conversion are each the exact one, rounded once in the mode, with the overflows of Table 5.3 and
the tininess and flush rules, in every format. R107: a reduction is the pairwise tree, as the example of R107 shows. -/
def Obligations.VectorFormResults : Prop :=
  (∀ (i : Instr) (s : State) (f : VectorForm), vectorForm s i = some f → f.sq = 0 → s.ctx.order = 0 → f.dst < s.ctx.vcount →
    (∀ n ∈ f.srcs, n < s.ctx.vcount ∧ (badRegister s n = false ∨ f.carries = true)) →
    let v := fun (n : Nat) => laneAt f.type (vget s (f.srcs.getD n 0))
    Answers i s fun t =>
      (match i with
        | .vcvtAmax _ _ m u w _ _ => t.ctx.amax = s.ctx.amax.set m.toNat
            ((List.range (min (lanesOf u.toNat) (lanesOf w.toNat))).foldl (fun r l => amaxStep u.toNat s.ctx.flush r (v 0 l)) (s.ctx.amax.getD m.toNat 0))
            m.isLt
          ∧ VectorTo s (t.setCtx { t.ctx with amax := s.ctx.amax }) f.dst (f.bytes v) (f.flags v)
        | _ => VectorTo s t f.dst (f.bytes v) (f.flags v))
      ∧ (f.carries = false → badRegister t f.dst = false)
      ∧ (f.carries = true → ∀ g, g < 4 → (poolAddr s.cur (128 * f.dst) / 32 + g ∈ t.mem.poison
          ↔ poolAddr s.cur (128 * f.srcs.getD 0 0) / 32 + g ∈ s.mem.poison)))
    ∧ (∀ (f : Fmt) (mode : Nat) (flush sat : Bool), f ∈ roundedFormats → mode < 5 →
      (∀ neg m e, 0 < m → IsRounded f mode flush sat neg m 1 e (roundEx f mode flush sat (.fin neg m e)))
        ∧ ∀ x y z, isFinite f x → isFinite f y → isFinite f z → let a := valueUnits f flush x; let b := valueUnits f flush y; let c := valueUnits f flush z
          let rounds := fun (v : Int) (e : Int) (r : Nat × Nat) => v ≠ 0 → IsRounded f mode flush false (decide (v < 0)) v.natAbs 1 e r
          rounds (a + b) f.minExp (fpAdd f mode flush x y) ∧ rounds (a - b) f.minExp (fpSub f mode flush x y)
            ∧ rounds (a * b) (2 * f.minExp) (fpMul f mode flush x y)
            ∧ (a ≠ 0 → b ≠ 0 → IsRounded f mode flush false (decide ((a < 0) ≠ (b < 0))) a.natAbs b.natAbs 0 (fpDiv f mode flush x y))
            ∧ (∀ minus, rounds (c * 2 ^ (-f.minExp).toNat + if minus then -(a * b) else a * b) (2 * f.minExp) (fpFma f mode flush minus x y z)))
    ∧ (∀ (t u mode : Nat) (flush sat : Bool) (x : Nat), t < 6 → u < 6 → mode < 5 → isFinite (fmtOfType t) x →
      let v := valueUnits (fmtOfType t) flush x
      v ≠ 0 → IsRounded (fmtOfType u) mode flush sat (decide (v < 0)) v.natAbs 1 (fmtOfType t).minExp (convert t u mode flush sat x))
    ∧ pairTree (fpAdd fp32 0 false) (fun l => if l = 0 then 0x4B800000 else 0x3F800000) 5 0 = (0x4B80000F, 1)

/-- R74, R121, R123, R211, R293: with SQ = 1 a field from 56 up names a stream. Each source stream is read once and moves on
by one read; a result for a stream is stored at its next elements, and that stream, which keeps the fibre entries that it has read
(R210), moves on; else it goes to the register. No
other register changes, and memory changes only in the register or at the elements stored. A quiet NaN lane of the amax form of `vcvt` is
log 38 (DEDUCED), the mask lanes of `vsel` are log 65 (DESIGN CHOICE), and E4M3 overflow and the special functions logs 18, 19 and 20. -/
def Obligations.VectorStreamResults : Prop :=
  ∀ (i : Instr) (s : State) (f : VectorForm) (del : Nat → Delivered) (ps : List (List Loc)) (r : StreamReg) (fibres : List Moved),
    vectorForm s i = some f → f.sq = 1 →
    windowCheck i 1 f.srcs f.dst = .ok () → vectorCheck s i 1 f.srcs f.dst = .ok () →
    (∀ n ∈ f.srcs, 56 ≤ n → streamRead s (s.q (n - 56)) = .ok (del n) ∧ ((del n).hits = [] ∨ f.carries = true)) →
    (∀ n ∈ f.srcs, n < 56 → badRegister s n = false ∨ f.carries = true) →
    let out := s.q (f.dst - 56)
    let size := 2 ^ out.elog
    let count := min out.chunk (out.total - out.pos)
    (56 ≤ f.dst → streamWrite s out count = .ok (ps, r, fibres)) →
    let moved := f.srcs.flatMap (fun n => if 56 ≤ n then (del n).moved else [])
      ++ if 56 ≤ f.dst ∧ count ≠ 0 then movedTo out.base.space (count * size) ps.flatten :: fibres else []
    weirsOpen s moved = true →
    let v := fun (n l : Nat) => let m := f.srcs.getD n 0; laneAt f.type (if 56 ≤ m then natOfBytes (del m).bytes else vget s m) l
    Answers i s fun t =>
      (∀ n, n < 8 → t.q n = if f.srcs.contains (56 + n) then (del (56 + n)).after else if f.dst = 56 + n then r.next else s.q n)
        ∧ (56 ≤ f.dst → { r with ahead := out.ahead } = out)
        ∧ (∀ n, n < 8 → f.srcs.contains (56 + n) = true → (t.q n).pos = min ((s.q n).pos + (s.q n).chunk) (s.q n).total)
        ∧ StoreOnly (accessed s moved) t
        ∧ t.ctx.fflags = s.ctx.fflags ||| BitVec.ofNat 64 (f.flags v % 64) ∧ t.ctx.pc = s.ctx.pc + 4
        ∧ { t.ctx with streams := s.ctx.streams, fflags := s.ctx.fflags, amax := s.ctx.amax, pending := s.ctx.pending, pc := s.ctx.pc } = s.ctx
        ∧ (f.dst < 56 → t.mem.read (poolAddr s.cur (128 * f.dst)) 128 = f.bytes v
          ∧ SameOutside s.mem t.mem (poolAddr s.cur (128 * f.dst)) 128 ∧ t.stores = s.stores)
        ∧ (56 ≤ f.dst → StoreFrame s t ps.flatten
          ∧ (apart ps.flatten → (∀ r ∈ ps, (r.map (·.len)).sum = size) →
            Lands s t ps.flatten ((f.bytes v).take (count * size)) fun _ => false))

/-- R81, R121, R140 to R146: with `jord` above zero the forms that have a jet meaning act on jets of TYPE 0 and 1 and set
`jfl`; a TYPE of 2 to 8 raises JET_TYPE, and a stream field, a jet outside the file and every other vector form ILLEGAL, with the
encoding. A poisoned source raises POISON_USE with the lowest coefficient position that meets poison. -/
def Obligations.JetFormResults : Prop :=
  ∀ (i : Instr) (s : State), s.ctx.order ≠ 0 →
    let g := groupSize s.ctx.order
    let traps := fun (c : Cause) => exec i s = .next (takeTrap s c (i.encode.zeroExtend 64))
    let window := fun (sq t : Nat) (srcs : List Nat) (d : Nat) =>
      (windowCheck i sq srcs d ≠ .ok () ∨ t ≤ 1 → traps .illegal) ∧ (windowCheck i sq srcs d = .ok () → 2 ≤ t → traps .jetType)
    (∀ f, jetForm s i = some f → f.sq = 0 →
      (f.type ≤ 1 → (∀ N ∈ f.dst :: f.srcs, jetFits s N = true) →
          (∀ N ∈ f.srcs, ∀ c, c ≤ s.ctx.order → badRegister s (g * N + c) = false) →
          Answers i s fun t => JetTo s t f.type f.dst fun l c => (f.run (f.srcs.map fun N => jetLane s f.type N l)).getD c (0, 0))
        ∧ (f.type ≤ 1 → ¬ (∀ N ∈ f.dst :: f.srcs, jetFits s N = true) → traps .illegal)
        ∧ (∀ c, f.type ≤ 1 → (∀ N ∈ f.dst :: f.srcs, jetFits s N = true) → c ≤ s.ctx.order →
          (∃ N ∈ f.srcs, badRegister s (g * N + c) = true) → (∀ e N, e < c → N ∈ f.srcs → badRegister s (g * N + e) = false) →
          ∃ v : Word, exec i s = .next (takeTrap s .poisonUse v) ∧ v.toNat % 256 = c ∧ bit v.toNat 63 = true)
        ∧ (2 ≤ f.type → traps .jetType))
      ∧ (∀ f, jetForm s i = some f → f.sq = 1 → window 1 f.type f.srcs f.dst)
      ∧ (∀ (d a : BitVec 6) (t : BitVec 4), i = .vmov d a t 0 → t.toNat ≤ 1 → jetFits s a.toNat = true → jetFits s d.toNat = true →
        Answers i s fun u => (∀ c, c ≤ s.ctx.order → vget u (g * d.toNat + c) = vget s (g * a.toNat + c))
          ∧ (∀ c, s.ctx.order < c → c < g → vget u (g * d.toNat + c) = 0)
          ∧ SameOutside s.mem u.mem (poolAddr s.cur (128 * (g * d.toNat))) (128 * g) ∧ CoreFrame s u
          ∧ u.ctx = { s.ctx with pc := s.ctx.pc + 4 } ∧ { u with cores := s.cores, mem := s.mem } = s)
      ∧ (∀ (d a : BitVec 6) (t : BitVec 4), i = .vmov d a t 0 → 2 ≤ t.toNat → traps .jetType)
      ∧ (∀ (d a : BitVec 6) (t : BitVec 4), i = .vmov d a t 1 → window 1 t.toNat [a.toNat] d.toNat)
      ∧ (∀ f, vectorForm s i = some f → jetForm s i = none → f.carries = false → traps .illegal)

/-- R147 to R152: the forms of the JET major at every order. `jseed` makes a variable, `jext` gives the K-th derivative,
`jcoef` and `jset` copy one coefficient with its poison, `jshift` differentiates and `jint` integrates; `jfl` reads the flags
of a position, and clears them where CLR = 1. R81, R147: a TYPE of 2 to 8 raises JET_TYPE, and with TYPE 0 or 1 a register or jet
outside the file, or a K above the order, ILLEGAL, with the encoding; R146: a poisoned coefficient that a form rounds raises
POISON_USE with its position. -/
def Obligations.JetMajorResults : Prop :=
  ∀ (d a : BitVec 6) (k r : BitVec 3) (ty : BitVec 4) (s : State),
    let n := s.ctx.order
    let g := groupSize n
    let t := ty.toNat
    let ro : Rounding := ⟨t, s.ctx.rmode r.toNat, s.ctx.flush⟩
    let file := fun (m : BitVec 6) => m.toNat < s.ctx.vcount
    let fits := fun (m : BitVec 6) => jetFits s m.toNat = true
    let clean := fun (c : Nat) => badRegister s (g * a.toNat + c) = false
    let one := laneBytes t fun _ => ((fmtOfType t).one, 0)
    let same := fun (u : State) (at' size : Nat) => SameOutside s.mem u.mem (poolAddr s.cur (128 * at')) (128 * size) ∧ CoreFrame s u
      ∧ { u with cores := s.cores, mem := s.mem } = s
    let quiet := fun (u : State) => u.ctx = { s.ctx with pc := s.ctx.pc + 4 }
    let raised := fun (u : State) (fs : List (Nat × Nat)) => u.ctx = { s.ctx with jfl := s.ctx.jfl ||| jflOf fs, pc := s.ctx.pc + 4 }
    let bytes := fun (u : State) (m : Nat) => u.mem.read (poolAddr s.cur (128 * m)) 128
    let copied := fun (u : State) (src dst : Nat) => bytes u dst = poolRead s (128 * src) 128
      ∧ ∀ p, p < 4 → (poolAddr s.cur (128 * dst) / 32 + p ∈ u.mem.poison ↔ poolAddr s.cur (128 * src) / 32 + p ∈ s.mem.poison)
    let traps := fun (i : Instr) (c : Cause) => exec i s = .next (takeTrap s c (i.encode.zeroExtend 64))
    (2 ≤ t → traps (.jseed d a ty) .jetType ∧ traps (.jext d a k ty r) .jetType ∧ traps (.jcoef d a k ty) .jetType
        ∧ traps (.jset d a k ty) .jetType ∧ traps (.jshift d a ty r) .jetType ∧ traps (.jint d a ty r) .jetType)
      ∧ (t ≤ 1 → (¬ (file a ∧ fits d) → traps (.jseed d a ty) .illegal ∧ traps (.jset d a k ty) .illegal)
        ∧ (¬ (file d ∧ fits a) → traps (.jext d a k ty r) .illegal ∧ traps (.jcoef d a k ty) .illegal)
        ∧ (n < k.toNat → traps (.jext d a k ty r) .illegal ∧ traps (.jcoef d a k ty) .illegal ∧ traps (.jset d a k ty) .illegal)
        ∧ (¬ (fits d ∧ fits a) → traps (.jshift d a ty r) .illegal ∧ traps (.jint d a ty r) .illegal)
        ∧ (file d → fits a → k.toNat ≤ n → ¬ clean k.toNat → ∃ v : Word, exec (.jext d a k ty r) s = .next (takeTrap s .poisonUse v)
          ∧ v.toNat % 256 = k.toNat ∧ bit v.toNat 63 = true))
      ∧ (t ≤ 1 →
    (file a → fits d → Answers (.jseed d a ty) s fun u => same u (g * d.toNat) g ∧ quiet u ∧ copied u a.toNat (g * d.toNat)
        ∧ (1 ≤ n → bytes u (g * d.toNat + 1) = one) ∧ ∀ c, 2 ≤ c → c < g → bytes u (g * d.toNat + c) = List.replicate 128 0)
      ∧ (file d → fits a → k.toNat ≤ n → clean k.toNat → Answers (.jext d a k ty r) s fun u =>
        let f := fun (l : Nat) => scaleLane ro (fact k.toNat) (laneAt t (vget s (g * a.toNat + k.toNat)) l)
        same u d.toNat 1 ∧ bytes u d.toNat = laneBytes t f ∧ raised u [(k.toNat, laneFlags t f)])
      ∧ (file d → fits a → k.toNat ≤ n → Answers (.jcoef d a k ty) s fun u =>
        same u d.toNat 1 ∧ quiet u ∧ copied u (g * a.toNat + k.toNat) d.toNat)
      ∧ (file a → fits d → k.toNat ≤ n → Answers (.jset d a k ty) s fun u => same u (g * d.toNat) g ∧ quiet u
        ∧ copied u a.toNat (g * d.toNat + k.toNat) ∧ (∀ c, c ≤ n → c ≠ k.toNat → copied u (g * d.toNat + c) (g * d.toNat + c))
        ∧ ∀ c, n < c → c < g → bytes u (g * d.toNat + c) = List.replicate 128 0)
      ∧ (fits d → fits a → (∀ c, 1 ≤ c → c ≤ n → clean c) → Answers (.jshift d a ty r) s fun u =>
        JetTo s u t d.toNat fun l c => if c < n then scaleLane ro (c + 1) ((jetLane s t a.toNat l).getD (c + 1) 0) else (0, 0))
      ∧ (fits d → fits a → (∀ c, c < n → clean c) → Answers (.jint d a ty r) s fun u =>
        JetTo s u t d.toNat fun l c => if c = 0 then (0, 0) else
          let x := (jetLane s t a.toNat l).getD (c - 1) 0
          let q := roundDiv ro.fmt ro.mode ro.flush (unpack ro.fmt ro.flush x) (.fin false c 0)
          (q.1, q.2 ||| nanFlag ro.fmt x)))
      ∧ ∀ (e : BitVec 5) (clr : BitVec 1), Answers (.jfl e clr k) s fun u => OnlyCtx s u
        ∧ u.x e.toNat = (if e = 0 then 0 else BitVec.ofNat 64 (s.ctx.jfl.toNat / 2 ^ (5 * k.toNat) % 32)) ∧ KeepsX s.ctx u.ctx e.toNat
        ∧ u.ctx.pc = s.ctx.pc + 4 ∧ { u.ctx with x := s.ctx.x, shadow := s.ctx.shadow, jfl := s.ctx.jfl, pc := s.ctx.pc } = s.ctx
        ∧ ∀ b, b < 64 → u.ctx.jfl.getLsbD b = (s.ctx.jfl.getLsbD b && !(clr = 1 && 5 * k.toNat ≤ b && b < 5 * k.toNat + 5))

/-! ## The matrix unit -/

/-- R159, R163, R169: an `mma` whose checks pass becomes the pending run at its PC: it starts at step 0 with the rounding of
`round` recorded, or goes on where a run at the same PC stopped; its steps are events of the unit (log 28). A run that has no
step left retires. No memory changes. R158, R160 to R163, R169: a step of the run of a core whose panels and slot hold no
poison writes every element of the tile together, ORs its flags into PFL, counts in DONE and moves its streams on; with BSRC =
1 the latch takes the panel of B. The last step retires the run: PFL goes to `fflags`, PEND is clear and PC goes on. A segment
outside the pool or in the accumulator region raises CAP_BOUNDS with its offset, and the tile stays. -/
def Obligations.MatrixRunResults : Prop :=
  (∀ (a b : BitVec 5) (c : BitVec 4) (x : BitVec 1) (y : BitVec 2) (h : BitVec 1) (m : BitVec 3) (s : State),
    let da := descOf (s.x a.toNat)
    let db := descOf (s.x b.toNat)
    let st := s.ctx.mstat.toNat
    let steps := if y = 2 then 1 else db.nsm1 + 1
    let resume := bit st 63 = true ∧ bitsOf st 32 16 = s.ctx.pc
    c.toNat < s.ctx.acc → descAOk s da (x == 1) = true → (if y = 2 then s.x b.toNat = 0 else descBOk db = true) →
    ¬ (y ≠ 2 ∧ da.sq = true ∧ db.sq = true ∧ da.q = db.q) → streamReadable s da = true → (y ≠ 2 → streamReadable s db = true) →
    (y = 2 → bit st 16 = true ∧ bitsOf st 60 3 = m.toNat) → codedOk s da = .ok () → (y ≠ 2 → codedOk s db = .ok ()) → s.ctx.pc < 2 ^ 16 →
    Answers (.mma a b c x y h m) s fun t => t.mem = s.mem ∧ OtherCores s t ∧ { t with cores := s.cores } = s
      ∧ ((¬ resume ∨ bitsOf st 48 9 < steps) →
        t.me = { s.me with ctx := t.ctx, hold := .matrix, rows := t.me.rows, rowsBad := t.me.rowsBad }
          ∧ t.ctx = { s.ctx with mstat := t.ctx.mstat } ∧ bit t.ctx.mstat.toNat 63 = true ∧ bitsOf t.ctx.mstat.toNat 32 16 = s.ctx.pc
          ∧ bit t.ctx.mstat.toNat 17 = false ∧ bitsOf t.ctx.mstat.toNat 0 17 = bitsOf st 0 17 ∧ bitsOf t.ctx.mstat.toNat 60 3 = bitsOf st 60 3
          ∧ bitsOf t.ctx.mstat.toNat 48 9 = (if resume then bitsOf st 48 9 else 0)
          ∧ bitsOf t.ctx.mstat.toNat 18 10 = (if resume then bitsOf st 18 10 else s.ctx.round.toNat % 16 * 64))
      ∧ (resume → steps ≤ bitsOf st 48 9 → t.me.hold = .none ∧ t.ctx.pc = s.ctx.pc + 4
        ∧ t.ctx.fflags = s.ctx.fflags ||| BitVec.ofNat 64 (bitsOf st 18 6)
        ∧ { t.ctx with mstat := s.ctx.mstat, fflags := s.ctx.fflags, pc := s.ctx.pc } = s.ctx))
    ∧ (∀ (a b : BitVec 5) (c : BitVec 4) (x : BitVec 1) (y : BitVec 2) (h : BitVec 1) (m : BitVec 3) (s : State) (rest : List Byte),
    s.me.run = .running → s.me.hold = .matrix → decodeBytes (s.codeBytes s.ctx.pc) = .ok (.mma a b c x y h m, rest) →
    let da := descOf (s.x a.toNat)
    let db := descOf (s.x b.toNat)
    let n := tileRows m.toNat
    let st := s.ctx.mstat.toNat
    let done := bitsOf st 48 9
    let sa := if da.sq then [] else segments da s.me.rows done
    let sb := if y = 2 ∨ db.sq = true then [] else segments db (List.range n) done
    let at' := poolAddr s.cur (slotBase s c.toNat h.toNat)
    (∀ o, badSegment s (sa ++ sb) = some o →
        exec (.mmaStepComplete s.cur) s = .next (takeTrap (s.setMe { s.me with hold := .none }) .capBounds (BitVec.ofNat 64 o)))
      ∧ ∀ (pa pb : PanelRead), badSegment s (sa ++ sb) = none → readPanel s da n sa = .ok pa →
        (if y = 2 then pb = ⟨latchRows s.ctx n, latchPoison s.ctx n, none, pa.after, []⟩ else readPanel pa.after db n sb = .ok pb) →
        pa.rows.length = n → s.me.rowsBad = none → pa.low = none → pb.low = none → pa.uncorr = none → pb.uncorr = none →
        s.mem.poisonIn at' (tileBytes m.toNat) = [] →
        weirsOpen s (pa.moved ++ pb.moved) = true → done < 256 →
        let mode := bitsOf st 24 3
        let flush := bit st 27
        let last := (if y = 2 then 1 else db.nsm1 + 1) ≤ done + 1
        let pfl := bitsOf st 18 6 ||| stepFlags m.toNat mode flush (s.mem.readNat at' (tileBytes m.toNat)) pa.rows pb.rows
        Answers (.mmaStepComplete s.cur) s fun t => TileStep s.mem t.mem at' m.toNat mode flush pa.rows pb.rows ∧ OtherCores s t
          ∧ { t with cores := s.cores, mem := s.mem, vifs := s.vifs } = s ∧ t.ctx.streams = pb.after.ctx.streams
          ∧ { t.ctx with streams := s.ctx.streams, mstat := s.ctx.mstat, latch := s.ctx.latch, latchBad := s.ctx.latchBad
                         fflags := s.ctx.fflags, pc := s.ctx.pc } = s.ctx
          ∧ (y ≠ 1 → t.ctx.latch = s.ctx.latch ∧ t.ctx.latchBad = s.ctx.latchBad)
          ∧ (y = 1 → t.ctx.latch = BitVec.ofNat 16384 (natOfBytes pb.rows.flatten) ∧ t.ctx.latchBad = 0
            ∧ bit t.ctx.mstat.toNat 16 = true ∧ bitsOf t.ctx.mstat.toNat 60 3 = m.toNat)
          ∧ (¬ last → t.me.hold = .matrix ∧ t.ctx.pc = s.ctx.pc ∧ t.ctx.fflags = s.ctx.fflags ∧ bitsOf t.ctx.mstat.toNat 48 9 = done + 1
            ∧ bitsOf t.ctx.mstat.toNat 18 6 = pfl % 64)
          ∧ (last → t.me.hold = .none ∧ t.ctx.pc = s.ctx.pc + 4 ∧ t.ctx.fflags = s.ctx.fflags ||| BitVec.ofNat 64 (pfl % 64)
            ∧ bit t.ctx.mstat.toNat 63 = false ∧ bitsOf t.ctx.mstat.toNat 18 6 = 0))

/-- R165, R166, R168, R170: `mzero` writes zero to a slot or half and clears its poison; `mstat` writes the status word to XA,
and with CLR = 1 then clears it but for LV, LMODE and RAPP; a handler's `mstat.clr` so abandons the run of the code that it left,
whose status word is in the steward frame or the context area (log 8); `mrd` and `mwr` move a row between a tile and a vector register,
converted. All but `mstat` drop a pending run, and none changes anything else but `fflags`. -/
def Obligations.TileFormResults : Prop :=
  ∀ (a : BitVec 5) (c : BitVec 4) (h v : BitVec 2) (d : BitVec 6) (clr : BitVec 1) (s : State),
    let half := if h = 3 then 1 else 0
    let from' := poolAddr s.cur (slotBase s c.toNat half)
    let len := if h = 0 then 4608 else 2304
    let row := rowSelect s c.toNat v.toNat (s.x a.toNat)
    let n := (viewOf v.toNat).2.1
    let t' := (viewOf v.toNat).2.2
    let old := natOfBytes (poolRead s row 144)
    (c.toNat < s.ctx.acc → Answers (.mzero c h) s fun t => t.mem.read from' len = List.replicate len 0 ∧ t.mem.poisonIn from' len = []
        ∧ SameOutside s.mem t.mem from' len
        ∧ GoesOn (dropped s) { t with mem := s.mem })
      ∧ Answers (.mstat a clr) s (fun t => let cleared := fun (w : Word) => w &&& 0x7E000000F001FFFF
        let saved := frameAddr s + 856
        KeepsX s.ctx t.ctx a.toNat ∧ t.x a.toNat = (if a = 0 then 0 else s.ctx.mstat)
        ∧ t.ctx.mstat = (if clr = 1 then cleared s.ctx.mstat else s.ctx.mstat) ∧ t.ctx.pc = s.ctx.pc + 4
        ∧ { t.ctx with x := s.ctx.x, shadow := s.ctx.shadow, mstat := s.ctx.mstat, pc := s.ctx.pc } = s.ctx
        ∧ (clr = 0 ∨ s.ctx.level = .user → OnlyCtx s t)
        ∧ (clr = 1 → s.ctx.level = .supervisor → CoreFrame s t ∧ { t with cores := s.cores, mem := s.mem } = s
          ∧ SameOutside s.mem t.mem saved 8 ∧ BitVec.ofNat 64 (t.mem.readNat saved 8) = cleared (BitVec.ofNat 64 (s.mem.readNat saved 8)))
        ∧ (clr = 1 → s.ctx.level = .machine → OtherCores s t ∧ { t with cores := s.cores } = s
          ∧ { t.me with ctx := s.ctx, saved := s.me.saved } = s.me
          ∧ t.me.saved = s.me.saved.map fun c => { c with mstat := cleared c.mstat }))
      ∧ (c.toNat < s.ctx.acc → d.toNat < s.ctx.vcount →
        (Answers (.mrd a c v d) s fun t =>
          VectorTo (dropped s) t d.toNat (laneBytes t' fun l => fromTile s v.toNat (rowElement v.toNat old l))
            (laneFlags t' fun l => fromTile s v.toNat (rowElement v.toNat old l)))
        ∧ Answers (.mwr a c v d) s fun t =>
          (∀ i, i < n → rowElement v.toNat (t.mem.readNat (poolAddr s.cur row) 144) i
              = (toTile s v.toNat (laneAt t' (vget s d.toNat) i)).1 % 2 ^ (viewOf v.toNat).1)
            ∧ SameOutside s.mem t.mem (poolAddr s.cur row) 144 ∧ CoreFrame s t ∧ { t with cores := s.cores, mem := s.mem } = s
            ∧ t.ctx = { s.ctx with mstat := runCleared s.ctx.mstat, pc := s.ctx.pc + 4
                                   fflags := s.ctx.fflags ||| BitVec.ofNat 64 (laneFlags t' (fun i => toTile s v.toNat (laneAt t' (vget s d.toNat) i)) % 64) })

/-- R165 to R167, R170: `mld` fills a tile from memory and `mst` stores it: as it stands where FMT is 0, else row by row,
converted, each row of 128 bytes at its own address. As it stands it carries the tags of whole granules, with LOAD or STORE alone, as
R166 says and R296 does not list (log 40, DEDUCED); the others clear them.
Outside the tile, or outside the runs stored to, every byte reads as before. Bytes stored stand there under the conditions of the
scalar stores. `mld` waits for its agent's older stores to the bytes that it reads (log 5), and for the loads of them that its streams
have still to make (R192, R213; log 71). -/
def Obligations.TileMemoryResults : Prop :=
  ∀ (a b : BitVec 5) (c : BitVec 4) (h f : BitVec 2) (k : BitVec 4) (s : State) (ls : List Loc) (places : List (List Loc)),
    let key := s.k k.toNat
    let tile := slotBase s c.toNat (if h = 3 then 1 else 0)
    let at' := poolAddr s.cur tile
    let n := if h = 0 then 4608 else 2304
    let p := effAddr key (s.x a.toNat) 1 0
    let v := f.toNat - 1
    let rows := if v = 1 then 16 else 32
    let t' := (viewOf v).2.2
    let as := rowAddrs s key a b rows
    let moved := fun (n : Nat) (ls : List Loc) => [movedTo key.space n ls]
    let kept := fun (u : State) (fl n : Nat) (ls : List Loc) =>
      { u.ctx with pending := s.ctx.pending } = { s.ctx with
        mstat := runCleared s.ctx.mstat, fflags := s.ctx.fflags ||| BitVec.ofNat 64 (fl % 64), pc := s.ctx.pc + 4 }
      ∧ StoreOnly (accessed s (moved n ls)) u
    let rowsOk := fun (need : Nat) (kind : Access) => places.length = rows
      ∧ ∀ r, r < rows → tileAccess s key (as.getD r 0) 128 need kind = .ok (places.getD r []) ∧ ((places.getD r []).map (·.len)).sum = 128
    let inward := fun (r l : Nat) => toTile s v (laneAt t' (natOfBytes (readLocs s (places.getD r []))) l)
    let outward := fun (r l : Nat) => fromTile s v (rowElement v (natOfBytes (poolRead s (tile + 144 * r) 144)) l)
    let flags := fun (g : Nat → Nat → Nat × Nat) => (List.range rows).foldl (fun x r => x ||| laneFlags t' (g r)) 0
    c.toNat < s.ctx.acc →
    (f = 0 → tileAccess s key p n permLoad .load = .ok ls → loadHeld s s.here ls = false → ls.any (locDown s) = false →
        (ls.map (·.len)).sum = n → weirsOpen s (moved n ls) = true →
        Answers (.mld a b c h f k) s fun u => u.mem.read at' n = readLocs s ls ∧ SameOutside s.mem u.mem at' n ∧ kept u 0 n ls ∧ u.stores = s.stores
          ∧ ∀ o, o % 16 = 0 → o + 16 ≤ n → u.mem.tagAt (at' + o) = (tagsOf s.mem ls).contains o)
      ∧ (f = 0 → tileAccess s key p n permLoad .load = .ok ls → ownOut s s.here ls = true → exec (.mld a b c h f k) s = .next s)
      ∧ (∀ w r, f = 0 → tileAccess s key p n permLoad .load = .ok ls → ownOut s s.here ls = false → streamsMeet s s.here ls = w :: r →
        ∃ u, awaitNeed s w = .hold u ∧ exec (.mld a b c h f k) s = .next u)
      ∧ (f ≠ 0 → rowsOk permLoad .load → places.all (fun l => !loadHeld s s.here l && !l.any (locDown s)) = true →
        weirsOpen s (moved (128 * rows) places.flatten) = true →
        Answers (.mld a b c h f k) s fun u =>
          (∀ r i, r < rows → i < (viewOf v).2.1 → rowElement v (u.mem.readNat (at' + 144 * r) 144) i = (inward r i).1 % 2 ^ (viewOf v).1)
            ∧ SameOutside s.mem u.mem at' (144 * rows) ∧ kept u (flags inward) (128 * rows) places.flatten ∧ u.stores = s.stores)
      ∧ (f = 0 → tileAccess s key p n permStore .store = .ok ls → (ls.map (·.len)).sum = n → weirsOpen s (moved n ls) = true →
        Answers (.mst a b c h f k) s fun u => StoreFrame s u ls ∧ kept u 0 n ls
          ∧ (apart ls → tagsOf s.mem [poolLoc s.cur s.cur tile n] = [] → Lands s u ls (poolRead s tile n) fun _ => false)
          ∧ ∀ l, ls = [l] → apart ls → p.toNat % 16 = 0 → l.addr % 16 = 0 → l.granule % 16 = 0 →
            Lands s u ls (poolRead s tile n) fun b => s.mem.tagAt (at' + (b - l.addr)))
      ∧ (f ≠ 0 → rowsOk permStore .store → weirsOpen s (moved (128 * rows) places.flatten) = true →
        Answers (.mst a b c h f k) s fun u => StoreFrame s u places.flatten ∧ kept u (flags outward) (128 * rows) places.flatten
          ∧ (apart places.flatten →
            Lands s u places.flatten ((List.range rows).flatMap fun r => laneBytes t' (outward r)) fun _ => false))

/-- R173 to R176, R28, R335: `mxsend` whose checks pass sends its command, and advances the issue side of its timeline where TLE =
1: to the end of the target's queue, 8 deep, or to its spill ring while the reaction is pre-empted there, which the record of an
evicted reaction shows; where the ring has no room its own network interface holds it. That sets the matrix busy flag of `estatus`, as a
full queue does in which a command of the core waits, and while the flag is set, or the target's queue is full, `mxsend` holds: what
fills the flag and the interface where the queue is full is log 67 (DESIGN CHOICE), and how SPILL lays out an entry log 53. The target's unit
applies the oldest command that may go, with the settings and the panel that it carries and the latched panel, and counts it in RAPP;
a command that it refuses changes no pool, and is recorded for its sender (R197). Either way the command is settled: where TLE = 1 its
number completes on the sender's counter. Which commands may go while a handler has the target is log 28 (DEDUCED). -/
def Obligations.RemoteStepResults : Prop :=
  (∀ (a b : BitVec 5) (k : BitVec 4) (s : State) (ls : List Loc),
    let w := (s.x a.toNat).toNat
    let mode := bitsOf w 45 3
    let d := descOf (s.x b.toNat)
    let segs := segments d (List.range (tileRows mode)) 0
    let tgt : CoreId := ⟨s.cur.sgn, bitsOf w 56 8⟩
    let there := s.core tgt
    let key := s.k k.toNat
    let at' : Word := BitVec.ofNat 64 (tgt.idx * 2 ^ 17 + slotBase s (bitsOf w 52 4) (bitsOf w 44 1))
    let num : Word := if bit w 43 then s.me.issued.getD (bitsOf w 40 3) 0 + 1 else 0
    let m : MatrixCmd :=
      { word := s.x a.toNat, panel := BitVec.ofNat 16384 (natOfBytes (segs.flatMap fun o => poolRead s o 64))
        mode := s.ctx.mode, flush := s.ctx.flush, sender := s.cur, x := s.me.rx.getD 0
        gen := (s.myReaction.map (·.gen)).getD 0, vif := s.myVif.getD 0, num := num.toNat }
    let away := there.evicted.any (·.x == m.x) || (there.rx == some m.x && there.preempted)
    let spills := away && !(s.reaction tgt.sgn m.x).any (·.aborting)
    let room := if spills then ringUse there m.x + itemBytes (.cmd m) ≤ 24576 else there.cmds.length < 8
    let held := matrixBusy s s.cur = true ∨ (8 ≤ there.cmds.length ∧ away = false)
    bitsOf w 48 4 = 0 → bitsOf w 0 40 = 0 → (mode = 7 ∨ bit w 44 = false) → descAOk s d false = true → d.sq = false →
    badSegment s segs = none → capCheck s.ctx.level key at' (tileBytes mode) (permStore + permRemote) = .ok () → key.space = 1 →
    locate s 1 at' (tileBytes mode) .store = .ok ls → segmentPoison s segs = none →
    (held → exec (.mxsend a b k) s = .next s)
      ∧ (¬ held → Answers (.mxsend a b k) s fun t =>
        (t.core tgt).cmds = (if room ∧ spills = false then there.cmds ++ [m] else there.cmds)
          ∧ (t.core tgt).ring = (if room ∧ spills = true then there.ring ++ [⟨m.x, .cmd m⟩] else there.ring)
          ∧ t.me.cmdOut = (if room then none else some m) ∧ matrixBusy t s.cur = decide (¬ room ∨ (spills = false ∧ there.cmds.length = 7))
          ∧ t.ctx = { s.ctx with mstat := runCleared s.ctx.mstat, pc := s.ctx.pc + 4 }
          ∧ (∀ n, n < 8 → t.me.issued.getD n 0 = if bit w 43 ∧ n = bitsOf w 40 3 then s.me.issued.getD n 0 + 1 else s.me.issued.getD n 0)
          ∧ (∀ e, e ≠ s.cur → e ≠ tgt → t.core e = s.core e) ∧ { t with cores := s.cores, mem := s.mem } = s
          ∧ (¬ room ∨ spills = false ∨ evictedAt s tgt m.x = none → t.mem = s.mem)
          ∧ ∀ r, room → spills = true → evictedAt s tgt m.x = some r →
            let bs := ((there.ring ++ [RingEntry.mk m.x (.cmd m)]).filter fun (e : RingEntry) => e.x == m.x).flatMap fun (e : RingEntry) => entryBytes e.item
            (∀ b, b < r + 106496 ∨ r + 131072 ≤ b → t.mem.byteAt b = s.mem.byteAt b) ∧ (bs.length ≤ 24576 → t.mem.read (r + 106496) bs.length = bs)))
    ∧ ∀ (c : CoreId) (s : State) (n : Nat) (m : MatrixCmd), (s.core c).cmds.findIdx? (!cmdWaits s c ·) = some n →
      (s.core c).cmds[n]? = some m →
      let w := m.word.toNat
      let mode := bitsOf w 45 3
      let dest : CoreId := ⟨m.sender.sgn, bitsOf w 56 8⟩
      let target := (s.core dest).ctx
      let at' := poolAddr dest (target.accBase + 4608 * bitsOf w 52 4 + 2304 * bitsOf w 44 1)
      let panel := chunks 64 (tileRows mode) ((bytesOfNat 2048 m.panel.toNat).take (64 * tileRows mode))
      let latched := latchRows target (tileRows mode)
      let fl := stepFlags mode m.mode m.flush (s.mem.readNat at' (tileBytes mode)) panel latched
      let settled := fun (t : State) => (t.core c).cmds = (s.core c).cmds.eraseIdx n
        ∧ ∀ e, (t.core e).complete = if bit w 43 ∧ e = m.sender then (completeNum (s.core e) (bitsOf w 40 3) (BitVec.ofNat 64 m.num)).complete
          else (s.core e).complete
      (cmdRefused s dest m = false → Answers (.remoteStepApply c) s fun t => TileStep s.mem t.mem at' mode m.mode m.flush panel latched ∧ settled t
          ∧ (t.core dest).ctx = { target with
            fflags := target.fflags ||| BitVec.ofNat 64 (fl % 64)
            mstat := BitVec.ofNat 64 (setBits target.mstat.toNat 0 16 (bitsOf target.mstat.toNat 0 16 + 1)) }
          ∧ (∀ e, e ≠ dest → (t.core e).ctx = (s.core e).ctx) ∧ { t with cores := s.cores, mem := s.mem } = s)
        ∧ (cmdRefused s dest m = true → Answers (.remoteStepApply c) s fun t => settled t
          ∧ (∀ b, b < 3 * 2 ^ 64 → t.mem.byteAt b = s.mem.byteAt b)
          ∧ ((s.core m.sender).rx = some m.x → (s.reaction m.sender.sgn m.x).map (·.gen) = some m.gen →
            bit ((t.core m.sender).ctx.pending.getD 3 0).toNat 1 = true))

/-! ## Engines and timelines -/

/-- R214, R215, R219, R293: a command whose control word, block and capabilities pass is accepted: it takes the next number of
its timeline, which counts one more as issued, and the operation goes to the engines with its block as read. `eremap` also
sets the reaction's remap configuration. While an open stream of its agent has a load still to make, which comes before every access of
the operation (R188 case 5, R213; log 59, DEDUCED), while the engine's queue is full, while eight events are out and the command asks for one, or while a
weir that it needs is exhausted, it holds. -/
def Obligations.EngineCommandResults : Prop :=
  ∀ (a b : BitVec 5) (s : State) (i : Instr) (op : Nat),
    (i, op) ∈ [(Instr.ecopy a b, 0), (.eget a b, 1), (.eput a b, 2), (.egather a b, 3), (.escatter a b, 4), (.eremap a b, 5),
      (.epool a b, 6), (.emerge a b, 7), (.esend a b, 8)] →
    let o := opOf s op a b
    let ctl := o.ctl.toNat
    let xa := (s.x a.toNat).toNat
    let scratch := fun (off n : Nat) => s.ctx.scratch ≤ off ∧ off + n ≤ 98304
    let held := engineBusy s s.cur (engineBit op) = true ∨ (bit ctl 3 = true ∧ 8 ≤ eventsOut s s.cur)
      ∨ (opWeirs o).any (fun w => !weirOpen s (s.myVif.getD 0) w) = true
    s.cur.idx < 256 → bitsOf ctl 32 32 = 0 → bitsOf ctl 5 11 = 0 → xa % 64 = 0 → scratch xa (blockLength op) →
    (bit ctl 4 = true → scratch (16 * bitsOf ctl 16 16) 16) → poolPoison s xa (blockLength op) = [] → blockOk i s o →
    (∀ w l, streamsOut s = w :: l → ∃ t, awaitNeed s w = .hold t ∧ exec i s = .next t)
      ∧ (streamsOut s = [] → held → exec i s = .next s)
      ∧ (streamsOut s = [] → ¬ held → Answers i s fun t => t.ops = s.ops ++ [{ o with num := s.me.issued.getD o.tl 0 + 1 }]
        ∧ t.me = { s.me with
          issued := s.me.issued.setIfInBounds o.tl (s.me.issued.getD o.tl 0 + 1)
          ctx := { s.ctx with pc := s.ctx.pc + 4, remap := if op = 5 then some (remapOf o) else s.ctx.remap } }
        ∧ OtherCores s t ∧ { t with cores := s.cores, ops := s.ops, seq := s.seq } = s)

/-- R185, R218, R220 to R229, R231, R334 (log 16: one access an event, or all that can be made; log 17: the engine's TLB is its
core's). An operation that may run makes one access after another, each to one granule of its memory: it reads the pieces that what it
does next still needs, and writes the pieces of what it has made of them; when it has nothing left, or fails, its number completes on
its timeline, its record is written where CR = 1, its event is queued where EV = 1, and FAULT is set if it failed. A copy reads
what a destination granule takes and then writes that, of coded blocks the decoded elements, and by shape records the elements that
follow one another into it in walk order; the last piece of a granule that is written whole and good makes it good (R186); a gather or scatter checks each row before it moves any; pooling takes the entries of a bag with their rows and writes
the reduced bag; a merge takes the best head that passes; a remote operation moves 8-byte pieces or acts on the remote word and delivers
the old one; VALUE of a failed one is the address of the access that failed. A plain copy within the core's pool delivers LEN bytes of its
source. That the charge is made with each access is log 41 (DEDUCED), that a shaped copy keeps no tag log 41 too (DESIGN CHOICE), that
scores are compared whatever FLUSH holds log 64, and that a bag whose offsets fall is empty log 77 (both DESIGN CHOICE). -/
def Obligations.EngineCompletionResults : Prop :=
  ∀ (n : Nat) (o : EngineOp) (s : State), s.ops[n]? = some o →
    let c := o.cursor
    let u := asEngine s o
    let word := fun (off : Nat) => o.num' off 4
    let reads := fun (unit cap off k : Nat) (g : Got) => engineRead o unit (o.cap cap) off k permLoad = .ok g
    let stops := fun (cause : Cause) (v : Word) => (engineStep u o).stop = some (.trap cause v)
    let part := fun (out : List Piece) (p : Piece) => out = cutPiece o p
    (opDefers s n o = true → Answers (.operationComplete n) s fun t => t = { s with ops := s.ops.set n { o with deferred := true } })
      ∧ (opDefers s n o = false → opReady s n o = false → exec (.operationComplete n) s = .next s)
      ∧ (opReady s n o = true → opLives s o = false → Answers (.operationComplete n) s fun t => t.ops = s.ops.eraseIdx n ∧ t.mem = s.mem
        ∧ (∀ e, e ≠ o.core → t.core e = s.core e)
        ∧ (t.core o.core).complete = (if o.setAside then s.core o.core else completeNum (s.core o.core) o.tl o.num).complete)
      ∧ (opReady s n o = true → opLives s o = true →
        (o.ended = true → o.setAside = false → Answers (.operationComplete n) s fun t => Completed s t n o (opResult o).1 (opResult o).2 c.flags)
          ∧ (o.ended = true → o.setAside = true → (∃ (m : Nat) (p : EngineOp), m ≠ n ∧ s.ops[m]? = some p ∧ p.setAside = true ∧ o.sameRun p = true ∧ p.finished = none) →
            Answers (.operationComplete n) s fun t => t = { s with ops := s.ops.set n { o with finished := some ((opResult o).1, (opResult o).2, c.flags) } })
          ∧ (∀ cause v, o.ended = false → o.setAside = false → (engineStep u o).stop = some (.trap cause v) →
            Answers (.operationComplete n) s fun t => Completed s t n o cause.code v (engineStep u o).c.flags)
          ∧ (o.ended = false → (engineStep u o).stop = none → ∃ t, engineTurn n s = .next t ∧ exec (.operationComplete n) s = driveOps n (2 ^ 64 - 1) t)
          ∧ (∀ (p : Piece) (more : List Piece) (ls : List Loc), c.out = p :: more → sendFails u (o.cap p.cap).space = none →
            enginePlaces u (o.cap p.cap) (effAddr (o.cap p.cap) 0 1 p.off) p.bytes.length permStore .engineStore = .ok ls → ls.any (locDown u) = false →
            EngineOn s n o { chargeMoved u (movedTo (o.cap p.cap).space p.bytes.length ls) with mem := p.perform s.mem ls }
              { c with out := more, count := c.count + p.adds })
          ∧ (∀ (p : Piece) (more : List Piece) (cause : Cause) (b : Nat), c.out = p :: more → sendFails u (o.cap p.cap).space = some (cause, b) →
            stops cause (effAddr (o.cap p.cap) 0 1 p.off) ∧ (engineStep u o).mark = some (6, b))
          ∧ (∀ p : Piece, p.bad.length = p.bytes.length → let cap := o.cap p.cap; let g := granuleOf cap.space; let a := (effAddr cap 0 1 p.off).toNat
            (cutPiece o p).flatMap (·.bytes) = p.bytes ∧ (cutPiece o p).flatMap (·.bad) = p.bad
              ∧ (p.bytes ≠ [] → ((cutPiece o p).map (·.adds)).sum = p.adds)
              ∧ ∀ q ∈ cutPiece o p, q.cap = p.cap ∧ ∃ i : Nat, q.off = p.off + i ∧ q.bytes = (p.bytes.drop i).take q.bytes.length
                ∧ 1 ≤ q.bytes.length ∧ (a + i) / g = (a + i + q.bytes.length - 1) / g
                ∧ let w := (a + i) / 32 * 32
                  (q.heals = true ↔ (a + i + q.bytes.length) % 32 = 0 ∧ a ≤ w ∧ w < a + i ∧ w + 32 ≤ a + p.bytes.length
                    ∧ ∀ j, w ≤ a + j → a + j < w + 32 → p.bad.getD j false = false))
          ∧ (∀ (p : Piece) (m : Memory) (ls : List Loc), (p.heals = false → p.perform m ls = putLocs m ls p.bytes p.bad p.tags)
            ∧ (p.heals = true → (∀ b, (p.perform m ls).byteAt b = (putLocs m ls p.bytes p.bad p.tags).byteAt b)
              ∧ ∀ g, g ∈ (p.perform m ls).poison ↔ g ∈ (putLocs m ls p.bytes p.bad p.tags).poison ∧ ∀ l ∈ ls, l.addr / 32 ≠ g))
          ∧ (∀ (w : Need) (ws : List Need), c.out = [] → o.ended = false → o.remoteAtomic = false → readNext u o = .error (.missing (w :: ws)) →
            let a : Word := BitVec.ofNat 64 w.addr
            (∀ cause b, sendFails u w.space = some (cause, b) → stops cause a ∧ (engineStep u o).mark = some (6, b))
              ∧ ∀ ls, sendFails u w.space = none → locate u w.space a w.len .engine = .ok ls → ls.any (locDown u) = false →
                EngineOn s n o (chargeMoved u (movedTo w.space w.len ls)) { c with
                  got := c.got ++ [⟨w.unit, w.space, w.addr % 2 ^ 56, readLocs u ls, badBytes u ls, tagsOf s.mem ls⟩] })
          ∧ (c.out = [] → o.ended = false → o.op ≤ 2 → (o.cap 32).tag = false → (o.cap 0).format ≠ 7 →
            let k := granuleStep (o.cap 16) c.pos (o.num' 48 8 - c.pos)
            ∀ g, reads 0 0 c.pos k g → ∃ tags out, part out ⟨16, c.pos, g.bs, g.bad, tags, k, false⟩
              ∧ EngineOn s n o u { c with pos := c.pos + k, got := [], out := out }
              ∧ tags = if keepsTags (o.cap 0) (o.cap 16) then g.tags.filter fun t => ((o.cap 16).va + c.pos + t) % 16 == 0 else [])
          ∧ (c.out = [] → o.ended = false → o.op ≤ 2 → (o.cap 32).tag = false → (o.cap 0).format = 7 →
            let len := granuleStep (o.cap 16) c.pos (o.num' 48 8 - c.pos)
            let a := effAddr (o.cap 0) 0 1 c.off
            (len ≤ c.buf.length → ∃ out, part out ⟨16, c.pos, (c.buf.take len).map (·.1), (c.buf.take len).map (·.2), [], len, false⟩
                ∧ EngineOn s n o u { c with pos := c.pos + len, buf := c.buf.drop len, out := out })
              ∧ ∀ (h g : Got), c.buf.length < len → engineRead o 0 (o.cap 0) c.off 4 permLoad = .ok h →
                let k := blockSize (o.cap 0).blog (natOfBytes h.bs)
                engineRead o 0 (o.cap 0) c.off k permLoad = .ok g →
                (∀ es, decodeBlock (o.cap 0).blog g.bs = .elements es → EngineOn s n o u { c with
                    off := c.off + k, got := [], buf := c.buf ++ (es.flatMap (bytesOfNat 2)).map fun b => (b, g.bad.any id) })
                  ∧ (c.buf = [] → c.held = [] → decodeBlock (o.cap 0).blog g.bs = .malformed → stops .formatReserved a)
                  ∧ (c.buf = [] → c.held = [] → decodeBlock (o.cap 0).blog g.bs = .signedScale → stops .scaleSign a))
          ∧ (∀ (a b : StreamReg), c.out = [] → o.ended = false → o.op ≤ 2 → (o.cap 32).tag = true → c.walks = [a, b] →
            let written := EngineOn s n o u { c with held := [], out := c.held.flatMap (cutPiece o) }
            (a.total ≤ c.pos → written)
              ∧ ∀ off : Int, c.pos < a.total → walkOffset { b with ahead := c.got } c.pos 0 = .ok off →
                (sameGranule (o.cap 16) off c.held = false → written)
                  ∧ ∀ (bs : List Byte) (bad : List Bool) (next : StreamReg), sameGranule (o.cap 16) off c.held = true →
                    walkElement u.ctx.level { a with ahead := c.got } c.pos = .ok (bs, bad, next) →
                    EngineOn s n o u { c with pos := c.pos + 1, walks := [{ next with ahead := [] }, b], got := next.ahead
                                              held := c.held ++ [⟨16, off, bs, bad, [], 2 ^ a.elog, false⟩] })
          ∧ (∀ (g : Got) (j : Option Nat), c.out = [] → (o.op = 3 ∨ o.op = 4) → o.ended = false → c.rows.length < word 64 → reads 0 32 (4 * c.rows.length) 4 g →
            remapIndex o (natOfBytes g.bs) = .ok j →
            let r := c.rows.length
            let (src, dst) := rowOffsets o r (j.getD 0)
            let (cs, cd) := rowCaps o
            (j.isSome → ∃ ls, enginePlaces u (o.cap cs) (effAddr (o.cap cs) 0 1 src) (word 68) permLoad .engine = .ok ls) →
            (j.isSome ∨ o.op = 3 → ∃ ls, enginePlaces u (o.cap cd) (effAddr (o.cap cd) 0 1 dst) (word 68) permStore .engineStore = .ok ls) →
            EngineOn s n o u { c with rows := c.rows ++ [j], got := [] })
          ∧ (∀ (j : Nat) (ls : List Loc), c.out = [] → (o.op = 3 ∨ o.op = 4) → o.ended = false → c.rows.length = word 64 → c.rows[c.pos]? = some (some j) →
            let stride := o.num' 72 8
            let src := if o.op = 3 then j * stride else c.pos * word 68
            let dst := if o.op = 3 then c.pos * word 68 else j * stride
            let (cs, cd) := if o.op = 3 then (0, 16) else (16, 0)
            let a := effAddr (o.cap cs) 0 1 src
            let k := granuleStep (o.cap cd) (dst + c.sub) (word 68 - c.sub)
            let last := c.sub + k = word 68
            let moves := fun (bs : List Byte) (bad : List Bool) (low : Option Word) =>
              ∃ out, part out ⟨cd, (dst + c.sub : Nat), bs, bad, [], if last then 1 else 0, false⟩
                ∧ EngineOn s n o u { c with pos := if last then c.pos + 1 else c.pos, sub := if last then 0 else c.sub + k, got := [], low := low, out := out }
            c.sub < word 68 → locate u (o.cap cs).space a (word 68) .engine = .ok ls →
            (ls.any (locDown u) = true → moves (List.replicate k 0) (List.replicate k true) (if c.low = none then some a else c.low))
              ∧ ∀ g, ls.any (locDown u) = false → reads 0 cs (src + c.sub) k g → moves g.bs g.bad c.low)
          ∧ (∀ x y : Got, c.out = [] → o.op = 6 → o.ended = false → c.bag = none → reads 0 48 (4 * c.pos) 4 x → reads 0 48 (4 * (c.pos + 1)) 4 y →
            EngineOn s n o u { c with bag := some (natOfBytes x.bs, natOfBytes y.bs, x.bad.any id || y.bad.any id), terms := [], got := [] })
          ∧ (∀ (p last : Nat) (bad : Bool) (e row : Got), c.out = [] → o.op = 6 → o.ended = false → c.bag = some (p, last, bad) → p < last →
            weirOpen u o.vif 2 = true → reads 0 32 (8 * p) 8 e →
            let d := word 68
            let size := tableElement (o.cap 0).format
            let j := fieldOf e.bs 0 4
            j < o.num' 72 8 → reads 1 0 (j * (d * size)) (d * size) row →
            EngineOn s n o (charge u o.vif 2 1) { c with
              bag := some (p + 1, last, bad), got := []
              terms := c.terms ++ [⟨((o.cap 0).va + j * (d * size)) / 4096 % 16, fieldOf e.bs 4 4, splitLanes (8 * size) d (natOfBytes row.bs), e.bad.any id || row.bad.any id⟩] })
          ∧ (∀ (p last : Nat) (bad : Bool), c.out = [] → o.op = 6 → o.ended = false → c.bag = some (p, last, bad) → last ≤ p →
            let out := (List.range (word 68)).map fun e => poolElement o (c.terms.map fun k => (k.chip, k.weight, k.row.getD e 0))
            ∃ ps, EngineOn s n o u { c with pos := c.pos + 1, bag := none, terms := [], flags := out.foldl (fun f x => f ||| x.2) c.flags, out := ps }
              ∧ ps.flatMap (·.bytes) = (out.flatMap fun x => bytesOfNat 4 x.1) ∧ (c.terms = [] → ∀ x ∈ out, x = (0, 0)))
          ∧ (∀ (lower higher : List Head) (e : Head) (ok : Bool), c.out = [] → o.op = 7 → o.ended = false → c.sub = 0 →
            mergeHeads o = .ok (lower ++ e :: higher) → passes o e.2.1 = .ok ok →
            let above := fun (h g : Head) => scoreAbove (fieldOf h.2.1 0 4) (fieldOf g.2.1 0 4)
            (∀ h ∈ lower, above e h = true) → (∀ h ∈ higher, above h e = false) →
            ∃ out, part out ⟨16, (8 * c.pos : Nat), e.2.1, List.replicate 8 e.2.2, [], 1, false⟩
              ∧ EngineOn s n o u { c with
                heads := c.heads.set e.1 (c.heads.getD e.1 0 + 1), got := c.got.filter fun p => p.unit != 0 && p.unit != e.1 + 1
                pos := if ok then c.pos + 1 else c.pos, out := if ok then out else [] })
          ∧ (c.out = [] → o.op = 7 → o.ended = false → (c.sub = 1 ∨ mergeHeads o = .ok []) →
            ∃ out, part out ⟨16, (8 * c.pos : Nat), bytesOfNat 8 0xFFFFFFFFFF800000, List.replicate 8 false, [], 0, false⟩
              ∧ EngineOn s n o u { c with pos := c.pos + 1, sub := 1, out := out })
          ∧ (c.out = [] → o.op = 8 → o.ended = false → o.num' 40 1 ≤ 1 →
            let (src, dst) := if o.num' 40 1 = 0 then (0, 16) else (16, 0)
            let k := min (o.num' 32 8 - c.pos) (8 - ((o.cap 16).va + c.pos) % 8)
            ∀ g, reads 0 src c.pos k g → ∃ out, part out ⟨dst, c.pos, g.bs, g.bad, [], k, false⟩
              ∧ EngineOn s n o u { c with pos := c.pos + k, got := [], out := out })
          ∧ (c.out = [] → o.op = 8 → o.ended = false → 2 ≤ o.num' 40 1 → o.num' 40 1 ≤ 4 →
            (∀ cause b, sendFails u (o.cap 16).space = some (cause, b) → stops cause (o.cap 16).addr ∧ (engineStep u o).mark = some (6, b))
              ∧ ∀ ls, sendFails u (o.cap 16).space = none → enginePlaces u (o.cap 16) (effAddr (o.cap 16) 0 1 0) 8 permLoad .engine = .ok ls →
                let old := natOfBytes (readLocs u ls)
                let stores := o.num' 40 1 ≠ 4 ∨ old = o.num' 56 8
                let new := if o.num' 40 1 = 2 then old + o.num' 48 8 else o.num' 48 8
                let w := chargeMoved u (movedTo (o.cap 16).space (if o.num' 40 1 = 4 then 24 else 16) ls)
                ∃ v out, part out ⟨0, 0, bytesOfNat 8 old, badBytes u ls, [], old, false⟩ ∧ EngineOn s n o v { c with pos := 8, out := out }
                  ∧ { v with mem := w.mem } = w ∧ (¬ stores → v.mem = s.mem)
                  ∧ ∀ l, stores → ls = [l] → l.sink = false → l.len = 8 → v.mem.readNat l.addr 8 = new % 2 ^ 64 ∧ SameOutside s.mem v.mem l.addr 8)
          ∧ (let src := o.cap 0; let dst := o.cap 16; let len := o.num' 48 8
            o.cursor = Cursor.start → o.setAside = false → o.op ≤ 2 → (o.cap 32).tag = false → src.format ≠ 7 → src.space = 0 → dst.space = 0 →
            o.core.idx < 256 → o.core.sgn < 20 → src.va + len ≤ 98304 → dst.va + len ≤ 98304 → (src.va + len ≤ dst.va ∨ dst.va + len ≤ src.va) →
            bit o.ctl.toNat 4 = false → (s.core o.core).rx = some o.x →
            (∀ d m, d + m ≤ len → capCheck .user src (effAddr src 0 1 d) m (permLoad + permEngine) = .ok ()
              ∧ capCheck .user dst (effAddr dst 0 1 d) m (permStore + permEngine) = .ok ()) →
            Answers (.operationComplete n) s fun t => Completed s t n o 0 (BitVec.ofNat 64 len) 0
              ∧ t.mem.read (poolAddr o.core dst.va) len = s.mem.read (poolAddr o.core src.va) len
              ∧ SameOutside s.mem t.mem (poolAddr o.core dst.va) len))

/-- R216: C of a counter advances over every number that has completed and stops at the first that has not; the other counters
and the context of the core stay. R217, R231: `tread` writes C and clears the counter's FAULT bit, `tissue` writes I; `twait`
goes on once C has reached XA, holds while it has not, and raises ILLEGAL for a value above I. A queued event that is due is
taken between two instructions: its words and the PC go to `ecause`, `evalue` and `epc`, INEV is set and control goes to the
handler; `evret` goes back to `epc` and clears INEV. -/
def Obligations.TimelineResults : Prop :=
  (∀ (k : Core) (tl : Nat) (n : Word), tl < 8 → k.early.length < 2 ^ 32 →
    let l := k.early ++ [(tl, n)]
    let c := k.complete.getD tl 0
    let t := completeNum k tl n
    (∃ j : Nat, t.complete.getD tl 0 = c + BitVec.ofNat 64 j ∧ j ≤ l.length
        ∧ (∀ i : Nat, 1 ≤ i → i ≤ j → (tl, c + BitVec.ofNat 64 i) ∈ l) ∧ (tl, c + BitVec.ofNat 64 (j + 1)) ∉ l)
      ∧ (∀ m, m ≠ tl → t.complete.getD m 0 = k.complete.getD m 0)
      ∧ (∀ m v, m ≠ tl → ((m, v) ∈ t.early ↔ (m, v) ∈ k.early)) ∧ { t with complete := k.complete, early := k.early } = k)
    ∧ (∀ (d a : BitVec 5) (l : BitVec 3) (s : State), let c := s.me.complete.getD l.toNat 0; let i := s.me.issued.getD l.toNat 0
    let x := s.x a.toNat
    Answers (.tread d l) s (fun t => OnlyCtx s t ∧ t.x d.toNat = (if d = 0 then 0 else c) ∧ KeepsX s.ctx t.ctx d.toNat ∧ t.ctx.pc = s.ctx.pc + 4
        ∧ (∀ n, n < 8 → t.ctx.fault.getLsbD n = (s.ctx.fault.getLsbD n && n != l.toNat))
        ∧ { t.ctx with x := s.ctx.x, shadow := s.ctx.shadow, fault := s.ctx.fault, pc := s.ctx.pc } = s.ctx)
      ∧ Answers (.tissue d l) s (fun t => ScalarTo s t d.toNat i)
      ∧ (x.toNat ≤ i.toNat → x.toNat ≤ c.toNat → Answers (.twait l a) s fun t => GoesOn s t)
      ∧ (x.toNat ≤ i.toNat → c.toNat < x.toNat → exec (.twait l a) s = .next s)
      ∧ (i.toNat < x.toNat → exec (.twait l a) s = .next (takeTrap s .illegal ((Instr.twait l a).encode.zeroExtend 64)))
      ∧ (s.ctx.inev = true → s.ctx.epc.toNat < s.codeLength → Answers .evret s fun t => OnlyCtx s t
        ∧ t.ctx = { s.ctx with pc := s.ctx.epc.toNat, inev := false })
      ∧ (s.ctx.inev = false → exec .evret s = .next (takeTrap s .illegal (Instr.evret.encode.zeroExtend 64)))
      ∧ ∀ (e : CoreId) (info value : Word) (more : List (Word × Word)), let k := s.core e
        k.run = .running → k.hold = .none → k.ctx.events = (info, value) :: more → bit k.ctx.evec.toNat 0 = true → k.ctx.inev = false →
        k.ctx.level = .user → bit k.ctx.mstat.toNat 63 = false →
        Answers (.eventTaken e) s fun t => (t.core e).ctx = { k.ctx with
            events := more, ecause := info, evalue := value, epc := BitVec.ofNat 64 k.ctx.pc, inev := true, pc := (k.ctx.evec.toNat % 2 ^ 16) / 4 * 4 }
          ∧ (∀ f, f ≠ e → t.core f = s.core f) ∧ { t with cores := s.cores } = s)

/-! ## Reactions -/

/-- R267 to R270, R277, R278, R287: what a running reaction reads of itself and what it builds. `rget` gives a capability of
exactly the 64 bytes of a reactant's header, `rkey` a match field, `crewid` the identity and `part` the member's share of an
extent; `psplit` moves the split of the pool; `talloc` takes the next header slot and makes the new header, and `emit` makes a
header a product as it stands, the slot being that of its address whether taken or not; it waits for the stores of its own body to that
header (log 5) and the loads of it that its streams have still to make (log 71), and raises MEM_UNCORR where the header cannot be reached
(R181). R293, R295: both are charged to the HBM weir for the header, and hold while that is exhausted. -/
def Obligations.ReactionFormResults : Prop :=
  ∀ (s : State) (r : Reaction) (d a : BitVec 5) (k : BitVec 4) (n : BitVec 2) (f : BitVec 3) (j : BitVec 10), runs s r →
    let p : VifParams := ((s.vif r.vif).map fun v => v.p).getD default
    let slotVa := fun (m : Nat) => p.window + 4096 * (65536 * r.x + r.gen) + 64 * m
    let names := fun (c : Cap) (m perms : Nat) => c.tag = true ∧ c.isSealed = false ∧ c.otype = 0 ∧ c.space = 2 ∧ c.format = 0 ∧ c.blog = 0
      ∧ c.perms = perms ∧ c.va = slotVa m ∧ c.base = slotVa m ∧ c.top = slotVa m + 64
    let cost := [movedTo 2 64 []]
    let mine := fun (t : State) (q : Reaction) => t.reaction s.cur.sgn r.x = some q ∧ (∀ g x, (g, x) ≠ (s.cur.sgn, r.x) → t.reaction g x = s.reaction g x)
      ∧ { t with cores := s.cores, units := s.units, mem := s.mem, vifs := s.vifs } = s ∧ t.vifs = (accessed s cost).vifs ∧ CoreFrame s t
    let w := (s.x a.toNat).toNat
    let coord := s.ctx.crewcoord.toNat
    (slotVa 20 ≤ 2 ^ 56 → n.toNat < r.reactants.length → Answers (.rget k n) s fun t => ∃ c, names c n.toNat 5 ∧ CapTo s t k.toNat c)
      ∧ (∀ q, r.reactants[n.toNat]? = some q → f.toNat < 6 → Answers (.rkey d f n) s fun t => ScalarTo s t d.toNat
        (BitVec.ofNat 64 (if f.toNat < 4 then bitsOf q.hdr.toNat (64 + 16 * f.toNat) 16 else bitsOf q.hdr.toNat (64 * (f.toNat - 2)) 64)))
      ∧ Answers (.crewid d) s (fun t => ScalarTo s t d.toNat (BitVec.ofNat 64 (s.cur.sgn * 2 ^ 32 + r.x * 2 ^ 16 + r.gen)))
      ∧ (n ≠ 3 → Answers (.part d a n) s fun t =>
        let side := if n = 2 then bitsOf coord 16 9 else if r.shape = 0 then 1 else if r.shape = 1 then 2 else if r.shape = 2 then 8 else 16
        let m := if n = 0 then bitsOf coord 4 4 else if n = 1 then bitsOf coord 0 4 else bitsOf coord 8 8
        let e := w % 2 ^ 32
        ScalarTo s t d.toNat (BitVec.ofNat 64 ((e / side + if m < e % side then 1 else 0) * 2 ^ 32 + (m * (e / side) + min m (e % side)))))
      ∧ (bitsOf w 12 2 ≠ 3 → bitsOf w 16 4 ≤ 14 → bitsOf w 9 3 = 0 → bitsOf w 14 2 = 0 → bitsOf w 20 44 = 0 → r.shape = 0 →
        bit s.ctx.mstat.toNat 63 = false → Answers (.psplit a) s fun t => OnlyCtx s t
          ∧ t.ctx = { s.ctx with partition := t.ctx.partition, pc := s.ctx.pc + 4 } ∧ t.ctx.vregs = bitsOf w 12 2 ∧ t.ctx.acc = bitsOf w 16 4
          ∧ 256 * bitsOf t.ctx.partition.toNat 0 9 = 98304 - 2048 * 2 ^ bitsOf w 12 2 - 4608 * bitsOf w 16 4)
      ∧ (∀ (l : Launch) (sp : Species), s.myLaunch = some l → l.image.species[j.toNat]? = some sp → r.taken < 16 → weirsOpen s cost = false →
        exec (.talloc k j) s = .next s)
      ∧ (∀ (l : Launch) (sp : Species), s.myLaunch = some l → l.image.species[j.toNat]? = some sp → r.taken < 16 → slotVa 20 ≤ 2 ^ 56 →
        weirsOpen s cost = true →
        let at' := windowAddr r.vif s.cur.sgn (slotVa (4 + r.taken))
        Answers (.talloc k j) s fun t => mine t { r with taken := r.taken + 1 }
          ∧ (∃ c, names c (4 + r.taken) 15 ∧ t.ctx = { s.ctx.setK k.toNat c with pc := s.ctx.pc + 4 })
          ∧ t.mem.readNat at' 64 = (newHeader l r sp).toNat ∧ (∀ b, b < at' ∨ at' + 64 ≤ b → t.mem.byteAt b = s.mem.byteAt b)
          ∧ t.mem.poisonIn at' 64 = [] ∧ t.mem.tagAt (at' + 32) = false)
      ∧ ∀ m : Nat, let c := s.k k.toNat; let at' := windowAddr r.vif s.cur.sgn (slotVa (4 + m))
        c.tag = true → c.isSealed = false → c.space = 2 → m < 16 → slotVa (4 + m) ≤ c.va → c.va < slotVa (4 + m) + 64 →
        r.emitted.contains m = false → r.products.length < ((ruleOf s r).map (·.products)).getD 0 →
        let hdr := [hbmLoc s.cur at' at' 64]
        (ownOut s s.here hdr = true → exec (.emit k) s = .next s)
          ∧ (∀ w q, ownOut s s.here hdr = false → streamsMeet s s.here hdr = w :: q → ∃ t, awaitNeed s w = .hold t ∧ exec (.emit k) s = .next t)
          ∧ (loadHeld s s.here hdr = false → hdr.any (locDown s) = true → exec (.emit k) s = .next (takeTrap s .memUncorr c.addr))
          ∧ (loadHeld s s.here hdr = false → hdr.any (locDown s) = false → (s.myLaunch.bind fun l => speciesOf l.image (s.mem.readNat at' 2)).isSome = true →
            s.mem.poisonIn at' 64 = [] → (weirsOpen s cost = false → exec (.emit k) s = .next s)
              ∧ (weirsOpen s cost = true → Answers (.emit k) s fun t => mine t { r with
                emitted := r.emitted ++ [m]
                products := r.products ++ [(BitVec.ofNat 512 (s.mem.readNat at' 64), s.mem.tagAt (at' + 32))] }
              ∧ t.mem = s.mem ∧ t.ctx = { s.ctx with pc := s.ctx.pc + 4 }))

/-- R251, R254, R271 to R276, R279: how a running reaction ends, waits and is suspended. `commit` puts the member among those
that have committed, with its write streams closed and its events, which R231 discards when every operation is done, as they are, and
`abort` begins the abort; both leave the core in the wait that the step of R52 or R53 ends, and `crewrel` takes the member out of its crew. `susp`, `yield` and a `wmem` whose relation does not hold suspend a reaction of
shape `core` and free its core; in a crew they wait in place, as `pause` does everywhere. What still waits in the core's spill ring
for a member that leaves is given back (R335, R340). A `wmem` whose relation holds goes on with 1, and waits first for the own
stores to its word (log 5) and for the loads of it that its streams have still to make (log 71). R293: it is charged whether or not its relation holds, and for what it leaves in the frame; it reads the
wait timer of its SG, which counts what is free (log 68), and reads through a capability of FORMAT 7 the word as it stands (log 74,
DESIGN CHOICE). -/
def Obligations.ReactionWaitResults : Prop :=
  ∀ (s : State) (r : Reaction) (d a : BitVec 5) (k : BitVec 4) (n : BitVec 2) (l : BitVec 3), runs s r →
    let g := s.cur.sgn
    let c := s.ctx
    let x := s.x a.toNat
    let issued := s.me.issued.getD l.toNat 0
    let quiet := storesOut s g r = false ∧ opsOut s g r = false
    let mayWait := c.inev = false ∧ (r.shape ≠ 0 ∨ eventsOut s s.cur = 0)
    let mine := fun (t : State) (q : Reaction) => t.reaction g r.x = some q ∧ (∀ h y, (h, y) ≠ (g, r.x) → t.reaction h y = s.reaction h y)
      ∧ OtherCores s t
    let idle := fun (u t : State) => t = dropRing u s.cur r.x false ∧ u.me = s.me.leave ∧ u.me.rx = none
      ∧ { u with cores := s.cores, units := s.units, mem := s.mem } = s
    let asleep := fun (u t : State) (w : Wait) => idle u t ∧ mine u { r with
        state := .suspended, wait := w, offset := c.pc + 4, fault := c.fault, ready := none, outcome := false, live := [] }
    let waits := fun (t : State) (h : Hold) => { t with cores := s.cores } = s ∧ OtherCores s t ∧ t.me = { s.me with hold := h, since := s.me.cycle }
    (c.inev = false → Answers .commit s fun t => mine t { r with committed := insertNat s.cur.idx r.committed }
        ∧ t.me = { s.me with hold := .ending, ctx := { c with
          streams := c.streams.map fun q => if q.dir = 1 then StreamReg.closed else q } } ∧ t.mem = s.mem)
      ∧ (c.inev = false → Answers .abort s fun t => t.reaction g r.x = some { r with state := .ending, aborting := true } ∧ t.mem = s.mem
        ∧ (∀ o ∈ t.ops, o.core = s.cur → o.x = r.x → o.deferred = false)
        ∧ ∀ e, t.core e = if e.sgn = g ∧ (s.core e).rx = some r.x ∧ (s.core e).inHandler = false then { s.core e with hold := .ending } else s.core e)
      ∧ (c.inev = false → 1 < r.live.length → Answers .crewrel s fun t => ∃ u, idle u t ∧ u.mem = s.mem
        ∧ mine u ({ r with live := r.live.filter (· != s.cur.idx), committed := r.committed.filter (· != s.cur.idx) }))
      ∧ (mayWait → x.toNat ≤ issued.toNat →
        (r.shape = 0 → storesOut s g r = true → exec (.susp l a) s = .next s)
          ∧ (r.shape = 0 → storesOut s g r = false →
            Answers (.susp l a) s fun t =>
              ∃ u, asleep u t (.timeline l.toNat s.cur.idx (BitVec.ofNat 51 x.toNat)) ∧ u.mem = s.mem)
          ∧ (r.shape ≠ 0 → x.toNat ≤ (s.me.complete.getD l.toNat 0).toNat → Answers (.susp l a) s fun t => GoesOn s t)
          ∧ (r.shape ≠ 0 → (s.me.complete.getD l.toNat 0).toNat < x.toNat → exec (.susp l a) s = .next s))
      ∧ (mayWait → (r.shape = 0 → quiet → Answers .yield s fun t => ∃ u, asleep u t .nothing ∧ u.mem = s.mem)
        ∧ (r.shape = 0 → ¬ quiet → exec .yield s = .next s) ∧ (r.shape ≠ 0 → Answers .yield s fun t => waits t .pause))
      ∧ Answers .pause s (fun t => waits t .pause)
      ∧ ∀ ls : List Loc, mayWait →
        let key := s.k k.toNat
        let va : Word := BitVec.ofNat 64 key.va
        let v : Word := BitVec.ofNat 64 (natOfBytes (readLocs s ls))
        let holds := if n = 0 then v = x else if n = 1 then v ≠ x else if n = 2 then x.toNat ≤ v.toNat else v.toNat < x.toNat
        let at' := pinnedAddr r.vif r.base
        let moved := [movedTo key.space 8 ls]
        let stored := moved ++ [movedTo 2 16 []]
        let timer := s.timers.getD g 0
        capCheck c.level key va 8 permLoad = .ok () → key.format < 12 → blogOk key.format key.blog = true → (key.space = 1 ∨ key.space = 2) → key.va % 8 = 0 → locate s key.space va 8 .load = .ok ls →
        (r.shape ≠ 0 ∨ 16 ≤ ((ruleOf s r).map (·.frame)).getD 0) →
        (ownOut s s.here ls = true → exec (.wmem d a k n) s = .next s)
        ∧ (∀ w q, ownOut s s.here ls = false → streamsMeet s s.here ls = w :: q → ∃ t, awaitNeed s w = .hold t ∧ exec (.wmem d a k n) s = .next t)
        ∧ (loadHeld s s.here ls = false → ls.any (locDown s) = false → anyBad s ls = false →
          (holds → weirsOpen s moved = true → Answers (.wmem d a k n) s fun t => ScalarTo (accessed s moved) t d.toNat 1)
          ∧ (holds ∨ r.shape ≠ 0 → weirsOpen s moved = false → exec (.wmem d a k n) s = .next s)
          ∧ (¬ holds → r.shape ≠ 0 → weirsOpen s moved = true → Answers (.wmem d a k n) s fun t => { t with cores := s.cores, vifs := s.vifs } = s
            ∧ OtherCores s t ∧ t.vifs = (accessed s moved).vifs ∧ t.me = { (accessed s moved).me with hold := .wmem, since := BitVec.ofNat 64 timer })
          ∧ (¬ holds → r.shape = 0 → quiet → weirsOpen s stored = false → exec (.wmem d a k n) s = .next s)
          ∧ (¬ holds → r.shape = 0 → quiet → weirsOpen s stored = true → Answers (.wmem d a k n) s fun t =>
            ∃ u v, asleep u v (.word key.space key.va timer) ∧ t = chargeAll (v.useTlb (stored.flatMap (·.used))) r.vif stored
            ∧ SameOutside s.mem u.mem at' 16 ∧ u.mem.readNat at' 8 = x.toNat ∧ u.mem.readNat (at' + 8) 4 = d.toNat + 256 * n.toNat
            ∧ u.mem.readNat (at' + 12) 4 = (s.x d.toNat).toNat % 2 ^ 32)
          ∧ (¬ holds → r.shape = 0 → ¬ quiet → exec (.wmem d a k n) s = .next s))

/-! ## Barriers, exchange and the waits that end -/

/-- R261 to R265, R280: a member of a crew that is alone on a barrier's wire goes on once its own stores are performed; another arrives,
at the episode that is open on the wire or at a new one, and its core waits. Either waits first for the loads that its open streams have
still to make (R189, R213; log 59, DEDUCED). Once every participant has arrived and the stores that
they made before are performed, a release lets those that wait go on: both waits for stores stand for the ordering edge of R189 and are
log 5 (DESIGN CHOICE). With the launch barrier the phase counts on. In an exchange
phase the launch barrier waits for the transfers that its core has started (R281). A timeout traps those that wait with BAR_TIMEOUT, and cancels the
episode. -/
def Obligations.BarrierResults : Prop :=
  (∀ (i : Instr) (named : Nat) (s : State) (r : Reaction), (i, named) ∈ [(Instr.barRow, 0), (.barCol, 1), (.barSg, 2)] → runs s r →
    let channelled := s.myLaunch.any (·.channelled)
    let wire := if named = 2 ∧ channelled = true then 3 else named
    let index := if wire = 0 then rowOf s.cur.idx else if wire = 1 then colOf s.cur.idx else 0
    let passes := Answers i s fun t => t.me = { s.me with hold := .none, ctx := { s.ctx with arrival := none, pc := s.ctx.pc + 4 } }
      ∧ OtherCores s t ∧ { t with cores := s.cores } = s
    let mine := fun (b : Episode) => b.wire == wire && b.vif == r.vif && b.lid == r.lid
      && (wire == 3 || (b.index == index && b.sgn == s.cur.sgn && b.x == r.x))
    let arrives := fun (id : Nat) (t : State) => t.me = { s.me with hold := .barrier, ctx := { s.ctx with arrival := some ⟨wire, id⟩ } }
      ∧ OtherCores s t ∧ { t with cores := s.cores, bars := s.bars, seq := s.seq } = s
    (∀ w q, s.ctx.arrival = none → streamsOut s = w :: q → ∃ t, awaitNeed s w = .hold t ∧ exec i s = .next t)
      ∧ (s.ctx.arrival = none → streamsOut s = [] → wire ≠ 3 → crewParticipants r wire index = [s.cur.idx] →
        (ownStores s = true → exec i s = .next s) ∧ (ownStores s = false → passes))
      ∧ (∀ a, s.ctx.arrival = some a → a.wire = wire → s.released.contains a.episode = true → passes)
      ∧ (s.ctx.arrival = none → streamsOut s = [] → wire = 3 → s.ctx.phase % 2 = 1 → transferOut s s.cur = true → exec i s = .next s)
      ∧ (s.ctx.arrival = none → streamsOut s = [] → (if wire = 3 then ¬ (s.ctx.phase % 2 = 1 ∧ transferOut s s.cur = true)
            else crewParticipants r wire index ≠ [s.cur.idx]) →
        (s.bars.find? mine = none → Answers i s fun t => arrives s.seq t ∧ t.bars = s.bars ++ [
            { id := s.seq, wire := wire, index := index, sgn := s.cur.sgn, x := r.x, vif := r.vif, lid := r.lid, arrived := [s.cur]
              limit := bitsOf s.ctx.bartimeout.toNat 0 32, start := s.me.cycle }])
          ∧ ∀ b, s.bars.find? mine = some b → Answers i s fun t => arrives b.id t
            ∧ t.bars = upsert mine { b with arrived := b.arrived ++ [s.cur] } s.bars))
    ∧ (∀ (n : Nat) (s : State) (b : Episode), s.bars[n]? = some b →
      (missingAt s b ≠ [] ∨ arrivedStores s b = true → exec (.barrierRelease n) s = .next s)
        ∧ (missingAt s b = [] → arrivedStores s b = false → Answers (.barrierRelease n) s fun t => t.bars = s.bars.eraseIdx n ∧ t.mem = s.mem
        ∧ (b.wire ≠ 3 → ∀ c, t.core c = if c ∈ b.arrived ∧ waitsAt (s.core c) b = true then
            { s.core c with hold := .none, ctx := { (s.core c).ctx with arrival := none, pc := (s.core c).ctx.pc + 4 } } else s.core c)
        ∧ (∀ l, b.wire = 3 → s.launch b.vif b.lid = some l → (stageCores l).Nodup →
          t.launch l.vif l.lid = some { l with phase := l.phase + 1 } ∧ ∀ c, (t.core c).ctx.phase = (s.core c).ctx.phase + if c ∈ stageCores l then 1 else 0)))
    ∧ ∀ (n : Nat) (s : State) (b : Episode) (low first : CoreId) (rest more : List CoreId), s.bars[n]? = some b →
      missingAt s b = low :: rest → b.arrived = first :: more → b.limit ≠ 0 → b.limit ≤ ((s.core first).cycle - b.start).toNat →
      (∀ c ∈ b.arrived, (s.core c).ctx.level = .user) → Answers (.barTimeout n) s fun t => t.bars = s.bars.eraseIdx n
        ∧ (∀ c ∈ b.arrived, waitsAt (s.core c) b = true → let u := (t.core c).ctx
          u.level = .supervisor ∧ u.space = .handler ∧ u.pc = 0 ∧ u.tcause = 12 ∧ u.tpc = BitVec.ofNat 64 (s.core c).ctx.pc
            ∧ u.tvalue = barValue b.wire (if b.wire ≤ 1 then b.index else 0) (rest.length + 1) low)
        ∧ ∀ c, c ∉ b.arrived → t.core c = s.core c

/-- R281 to R284, R335: in an exchange phase `xmit` sends the bytes of the core's pool once its time in the phase has come, and
until then holds, as it does while an open stream has a load still to make (R213, R284; log 59, DEDUCED); the transfer follows its sender's older stores,
which is log 5 (DESIGN CHOICE), and lands in the scratch of its target on a channel that has received none, or is refused and recorded for
the sender's fence; where the pool of its target is not its VIF's, that pool passes to the VIF first, and the transfer waits until it may
(R291; log 80, DESIGN CHOICE); for an evicted stage reaction it goes to the spill ring, which its record shows, or is
held while that has no room. `xsel` gives the length that its channel has received, or waits for it, until BAR_TIMEOUT.
R254, R275, R345: `pause` ends after 64 cycles and `wfe` after 4,096, and the core goes on at the next instruction, pre-empted
where the scheduler has work that only it can run; the timeout of a `wmem` ends it with outcome 0, in place or for a suspended
reaction, which is then resumable; both go by the wait timer of the SG, which counts what is free (log 68). -/
def Obligations.ExchangeAndWaitResults : Prop :=
  ((∀ (d a : BitVec 5) (k : BitVec 4) (s : State) (r : Reaction) (l : Launch), runs s r → s.myLaunch = some l → l.channelled = true →
    s.ctx.phase % 2 = 1 →
    let key := s.k k.toNat
    let w := (s.x a.toNat).toNat
    let len := bitsOf w 16 12
    let p : Word := BitVec.ofNat 64 key.va
    let bad := poolPoison s key.va (64 * len)
    (∀ ls, bitsOf w 61 3 = 0 → 1 ≤ len → len ≤ 1536 → bitsOf w 36 12 + len ≤ 1536 → capCheck s.ctx.level key p (64 * len) permLoad = .ok () →
        key.space = 0 → (stageCores l).contains ⟨bitsOf w 56 5, bitsOf w 48 8⟩ = true → locate s 0 p (64 * len) .load = .ok ls →
        (∀ w q, streamsOut s = w :: q → ∃ t, awaitNeed s w = .hold t ∧ exec (.xmit a k) s = .next t)
          ∧ (streamsOut s = [] → (s.me.cycle - s.me.phaseAt).toNat < bitsOf w 0 16 → exec (.xmit a k) s = .next s)
          ∧ (streamsOut s = [] → bitsOf w 0 16 ≤ (s.me.cycle - s.me.phaseAt).toNat → Answers (.xmit a k) s fun t => GoesOn s { t with xfers := s.xfers, seq := s.seq }
            ∧ t.xfers = s.xfers ++ [{ word := s.x a.toNat, bytes := readLocs s ls, sender := s.cur, x := s.me.rx.getD 0, vif := l.vif, lid := l.lid
                                      gen := r.gen, seq := s.seq, held := false
                                      poison := (List.range (64 * len)).filter fun n => bad.contains ((key.va + n) / 32 * 32)
                                      phase := s.ctx.phase }]))
      ∧ (w < 256 → (∀ n, s.me.chans.find? (·.1 == w) = some (w, n) → Answers (.xsel d a) s fun t => ScalarTo s t d.toNat (BitVec.ofNat 64 n))
        ∧ (s.me.chans.find? (·.1 == w) = none → Answers (.xsel d a) s fun t => { t with cores := s.cores } = s ∧ OtherCores s t
          ∧ t.me = { s.me with hold := .xsel, since := s.me.cycle })))
    ∧ (∀ (n : Nat) (s : State) (f : Transfer), s.xfers[n]? = some f →
      let w := f.word.toNat
      let c : CoreId := ⟨bitsOf w 56 5, bitsOf w 48 8⟩
      let k := s.core c
      let off := 64 * bitsOf w 36 12
      let chan := bitsOf w 28 8
      let len := 64 * bitsOf w 16 12
      let refused := off < f.scratch s ∨ 98304 < off + len ∨ k.chans.any (·.1 == chan) = true
      let failed := fun (b : Nat) => (s.core f.sender).rx = some f.x → (s.reaction f.sender.sgn f.x).map (·.gen) = some f.gen →
        Answers (.xmitArrival n) s fun t => t.mem = s.mem ∧ t.xfers = s.xfers.eraseIdx n
          ∧ (t.core f.sender).ctx.pending = (markPending (s.core f.sender).ctx 5 b).pending ∧ ∀ e, e ≠ f.sender → t.core e = s.core e
      (xferWaits s f = true → exec (.xmitArrival n) s = .next s)
        ∧ (∀ x, xferWaits s f = false → evictedStage s f = some x →
          let room := ringUse k x + 64 + f.bytes.length ≤ 24576
          (room → Answers (.xmitArrival n) s fun t => t.xfers = s.xfers.eraseIdx n
              ∧ (∀ b, (∀ r, evictedAt s c x = some r → b < r + 106496 ∨ r + 131072 ≤ b) → t.mem.byteAt b = s.mem.byteAt b)
              ∧ t.core c = { k with ring := k.ring ++ [⟨x, .xfer { f with held := false }⟩] } ∧ ∀ e, e ≠ c → t.core e = s.core e)
            ∧ (¬ room → Answers (.xmitArrival n) s fun t => t = { s with xfers := s.xfers.set n { f with held := true } }))
        ∧ (xferWaits s f = false → evictedStage s f = none → xferPasses s f = some false → exec (.xmitArrival n) s = .next s)
        ∧ (∀ v, xferWaits s f = false → evictedStage s f = none → xferPasses s f = none → s.vif f.vif = some v →
          Answers (.xmitArrival n) s fun t => t = landTransfer (passCore { s with xfers := s.xfers.eraseIdx n } c v) f)
        ∧ (xferWaits s f = false → evictedStage s f = none → xferPasses s f = some true →
          (linkDown s (.sg c.sgn) = true → failed 0) ∧ (linkDown s (.sg c.sgn) = false → refused → failed 1)
          ∧ (linkDown s (.sg c.sgn) = false → ¬ refused → f.bytes.length = len → f.poison = [] → Answers (.xmitArrival n) s fun t =>
            t.xfers = s.xfers.eraseIdx n ∧ t.mem.read (poolAddr c off) len = f.bytes ∧ SameOutside s.mem t.mem (poolAddr c off) len
              ∧ (t.core c).chans = k.chans ++ [(chan, len)] ∧ (∀ e, e ≠ c → t.core e = s.core e)
              ∧ (∀ d a, k.hold = .xsel → instrAt { s with cur := c } = some (.xsel d a) → (k.ctx.getX a.toNat).toNat = chan →
                (t.core c).hold = .none ∧ ScalarCtx k.ctx (t.core c).ctx d.toNat (BitVec.ofNat 64 len) (k.ctx.pc + 4)))))
    ∧ ∀ (c : CoreId) (s : State), let k := s.core c; let limit := bitsOf k.ctx.bartimeout.toNat 0 32
      k.hold = .xsel → limit ≠ 0 → limit < heldFor k → k.ctx.level = .user → Answers (.xselTimeout c) s fun t => let u := (t.core c).ctx
        u.level = .supervisor ∧ u.space = .handler ∧ u.pc = 0 ∧ u.tcause = 12 ∧ u.tvalue = barValue 3 0 1 c
          ∧ ∀ e, e ≠ c → t.core e = s.core e)
    ∧ (∀ (c : CoreId) (s : State), let k := s.core c
    let goesOn := fun (t : State) => t.core c = { k with hold := .none, ctx := { k.ctx with pc := k.ctx.pc + 4 } }
      ∧ (∀ e, e ≠ c → t.core e = s.core e) ∧ { t with cores := s.cores } = s
    let preempts := (∃ x r, k.rx = some x ∧ s.reaction c.sgn x = some r ∧ r.shape = 0 ∧ r.aborting = false) ∧ k.ctx.level = .user
      ∧ ownWork s c = true
    let interrupted := fun (t : State) => goesOn { t with cores := (t.setCore c { t.core c with irqs := k.irqs }).cores }
      ∧ (t.core c).irqs = k.irqs ++ [1]
    (k.hold = .pause → 64 ≤ heldFor k → (¬ preempts → Answers (.pauseExpiry c) s goesOn)
        ∧ (preempts → 1 ∉ k.irqs → Answers (.pauseExpiry c) s interrupted))
      ∧ (k.hold = .wfe → 4096 ≤ heldFor k → (¬ preempts → Answers (.wfeTimeout c) s goesOn)
        ∧ (preempts → 1 ∉ k.irqs → Answers (.wfeTimeout c) s interrupted))
      ∧ (∀ (x : Nat) (d a : BitVec 5) (key : BitVec 4) (n : BitVec 2), k.hold = .wmem → k.rx = some x →
        instrAt { s with cur := c } = some (.wmem d a key n) → (k.ctx.getX d.toNat).toNat % 2 ^ 32 ≠ 0 →
        (k.ctx.getX d.toNat).toNat % 2 ^ 32 ≤ (BitVec.ofNat 64 (s.timers.getD c.sgn 0) - k.since).toNat → Answers (.wmemTimeout c x) s fun t => ScalarCtx k.ctx (t.core c).ctx d.toNat 0 (k.ctx.pc + 4)
          ∧ (t.core c).hold = .none ∧ (∀ e, e ≠ c → t.core e = s.core e) ∧ { t with cores := s.cores } = s)
      ∧ ∀ (x : Nat) (r : Reaction) (space addr since : Nat), k.hold ≠ .wmem → s.reaction c.sgn x = some r →
        r.wait = .word space addr since → r.state = .suspended → r.ready = none → frameTimeout s r ≠ 0 →
        let waited := s.timers.getD c.sgn 0 - since
        (waited < frameTimeout s r → exec (.wmemTimeout c x) s = .next s)
          ∧ (frameTimeout s r ≤ waited → Answers (.wmemTimeout c x) s fun t =>
            t.reaction c.sgn x = some { r with ready := some (s.unit c.sgn).order, outcome := false } ∧ (t.unit c.sgn).order = (s.unit c.sgn).order + 1
              ∧ { t with units := s.units } = s))

/-- R63, R285, R286: `ipf` fetches lines of code, `ipin` pins them and `iunpin` lets them go: in the core's own instruction
buffer where N is 0, else in the overlay slot of its tile, which starts to load where it is not there yet and one can be
loaded: `ipin` pins the lines of a slot that loads too, holds while no slot can be loaded and one of them holds no pinned line, and does
nothing where both do. Which slot was used least recently, and so which one is loaded, is log 58 (DESIGN CHOICE). -/
def Obligations.InstructionMemoryResults : Prop :=
  ∀ (a : BitVec 5) (s : State) (r : Reaction) (l : Launch) (o : Nat × Nat), runs s r → s.myLaunch = some l →
    let w := (s.x a.toNat).toNat
    let ovl := bitsOf w 44 12
    let off := bitsOf w 0 16
    let count := bitsOf w 16 10 + 1
    let numbers := (List.range count).map (off / 64 + ·)
    let lines := numbers.map fun n => (⟨l.vif, l.lid, ovl, n⟩ : Line)
    let pins := s.me.ibufPins ++ (lines.map (r.x, ·)).filter fun p => !s.me.ibufPins.contains p
    let tile := s.cur.idx / 4
    let held := slotHolding s s.cur.sgn tile l.vif l.lid ovl
    bitsOf w 56 8 = 0 → bitsOf w 26 18 = 0 → off % 64 = 0 → l.image.overlays[ovl]? = some o → off + 64 * (count - 1) < o.2 →
    let buffer := fun (t : State) => { t with cores := s.cores } = s ∧ OtherCores s t ∧ { t.me with ibuf := s.me.ibuf, ibufPins := s.me.ibufPins }
      = { s.me with ctx := { s.ctx with pc := s.ctx.pc + 4 } }
    (((ruleOf s r).map (·.ovl)) = some ovl → count ≤ 64 →
        (Answers (.ipf a 0) s fun t => buffer t ∧ t.me.ibufPins = s.me.ibufPins ∧ t.me = { (fetchLines s.me lines) with ctx := t.ctx })
          ∧ ((pins.map (·.2)).eraseDups.length ≤ 32 → Answers (.ipin a 0) s fun t => buffer t ∧ t.me.ibufPins = pins ∧ (∀ n ∈ lines, n ∈ t.me.ibuf))
          ∧ (32 < (pins.map (·.2)).eraseDups.length → exec (.ipin a 0) s = .next (takeTrap s .illegal ((Instr.ipin a 0).encode.zeroExtend 64)))
          ∧ Answers (.iunpin a 0) s fun t => buffer t ∧ t.me.ibuf = s.me.ibuf ∧ t.me.ibufPins = s.me.ibufPins.filter fun m => !lines.contains m.2)
      ∧ (∀ k, held = some k → (Answers (.ipf a 1) s fun t => GoesOn s t)
        ∧ (Answers (.ipin a 1) s fun t => GoesOn s { t with slots := s.slots } ∧ t.slots = (s.setSlot { k with pins := insertNats numbers k.pins }).slots)
        ∧ Answers (.iunpin a 1) s fun t => GoesOn s { t with slots := s.slots }
          ∧ t.slots = (s.setSlot { k with pins := k.pins.filter fun m => !numbers.contains m }).slots)
      ∧ (held = none → Answers (.iunpin a 1) s fun t => GoesOn s t)
      ∧ (∀ n, held = none → slotToLoad s s.cur.sgn tile = some n →
        (weirOpen s l.vif 1 = false → exec (.ipf a 1) s = .next s ∧ exec (.ipin a 1) s = .next s)
          ∧ (weirOpen s l.vif 1 = true →
            let loads := fun (pins : List Nat) (t : State) => GoesOn s { t with slots := s.slots, vifs := s.vifs }
              ∧ slotAt t s.cur.sgn tile n = some ⟨s.cur.sgn, tile, n, l.vif, l.lid, ovl, o.2, s.tick, true, pins⟩
              ∧ (∀ k : Slot, (k.sgn, k.tile, k.slot) ≠ (s.cur.sgn, tile, n) → (k ∈ t.slots ↔ k ∈ s.slots)) ∧ t.vifs = (charge s l.vif 1 o.2).vifs
            Answers (.ipf a 1) s (loads []) ∧ Answers (.ipin a 1) s (loads (insertNats numbers []))))
      ∧ (held = none → slotToLoad s s.cur.sgn tile = none →
        (Answers (.ipf a 1) s fun t => GoesOn s t)
          ∧ ((∃ m, m < 2 ∧ ∀ k, slotAt s s.cur.sgn tile m = some k → k.pins = []) → exec (.ipin a 1) s = .next s)
          ∧ ((∀ m, m < 2 → ∃ k, slotAt s s.cur.sgn tile m = some k ∧ k.pins ≠ []) → Answers (.ipin a 1) s fun t => GoesOn s t))

/-! ## Mailboxes and translation -/

/-- R335 to R340: the steward's `mbox`. SEND without ACK puts the message on its way; with ACK it gives how it fared: 0 queued, 1
stale, 2 dead link, 3 refused, or waits for the reply where the message goes to a spill ring. BIND binds a slot of the core to its
reaction, and UNBIND drops the binding, in the steward's frame as well (log 10), in the layout of a binding that log 14 (DESIGN
CHOICE) chooses. A message writes its entry of payload, sender and VIF at the tail of the bound queue and advances the tail; one under
another GEN becomes a dead letter; one whose queue is full goes to the spill ring, with an overflow for the core, as does one for an
evicted reaction, while the ring has room; the ring of an evicted reaction is written in SPILL of its record, in the layout of
log 53 (DESIGN CHOICE). -/
def Obligations.MailboxResults : Prop :=
  (∀ (d a : BitVec 5) (s : State), let w := s.x a.toNat; let n := w.toNat; let m : Mail := ⟨w, s.x d.toNat, s.cur, s.myVif.getD 0, false⟩
    let slot := bitsOf n 44 4
    let binds := fun (b : Option Binding) (t : State) => OtherCores s t ∧ { t with cores := s.cores, mem := s.mem } = s
      ∧ ScalarCtx { s.ctx with binds := s.ctx.binds.setIfInBounds slot b } t.ctx d.toNat 0 (s.ctx.pc + 4)
      ∧ (s.ctx.level = .machine → t.mem = s.mem)
      ∧ ∀ f, s.ctx.level = .supervisor → s.myVif.bind s.vif = some f →
        let at' := pinnedAddr f.p.id (f.p.saveBase + saveOffset s.cur 2 + 1920 + 8 * slot)
        t.mem.read at' 8 = bindBytes b ∧ SameOutside s.mem t.mem at' 8
    s.ctx.level ≠ .user → slot ≠ 0 → bitsOf n 11 9 = 0 →
    (bitsOf n 62 2 = 0 → bit n 61 = false → Answers (.mboxSend d a) s fun t => ScalarCtx s.ctx t.ctx d.toNat 0 (s.ctx.pc + 4) ∧ CoreFrame s t
        ∧ { t with cores := s.cores, mails := s.mails } = s ∧ t.mails = s.mails ++ [m])
      ∧ (bitsOf n 62 2 = 0 → bit n 61 = true →
        (∀ u st, deliver s m = .settled u st → Answers (.mboxSend d a) s fun t => t = u.retire d.toNat (BitVec.ofNat 64 st))
          ∧ (∀ u x, deliver s m = .spills u x → Answers (.mboxSend d a) s fun t => let v := spillMail s u m x
            t = v.setMe { v.me with hold := .reply }))
      ∧ (∀ r, bitsOf n 62 2 = 1 → s.myReaction = some r → s.ctx.scratch ≤ 64 * bitsOf n 0 11 → 64 * bitsOf n 0 11 + 16 + 16 * bitsOf n 20 8 ≤ 98304 →
        Answers (.mboxBind d a) s (binds (some ⟨r.x, r.gen, bitsOf n 0 11, bitsOf n 20 8⟩)))
      ∧ (bitsOf n 62 2 = 2 → Answers (.mboxUnbind d a) s (binds none)))
    ∧ (∀ (n : Nat) (s : State) (m : Mail), s.mails[n]? = some m → let rest := { s with mails := s.mails.eraseIdx n }
      (∀ u st, deliver rest m = .settled u st → Answers (.mailboxDelivery n) s fun t => t = reply u m st)
        ∧ ∀ u x, deliver rest m = .spills u x → Answers (.mailboxDelivery n) s fun t => t = spillMail rest u m x)
    ∧ (∀ (s : State) (m : Mail), let w := m.word.toNat
      let c : CoreId := ⟨bitsOf w 56 5, bitsOf w 48 8⟩
      let k := s.core c
      let slot := bitsOf w 44 4
      let gen := bitsOf w 28 16
      let reaches := sgEnabled s c.sgn = true ∧ (c = m.sender ∨ linkDown s (.sg c.sgn) = false)
      (¬ reaches → deliver s m = .settled s 2)
        ∧ (∀ x, reaches → boundEvicted s c m.vif slot gen = some x → deliver s m = .spills s x)
        ∧ (reaches → boundEvicted s c m.vif slot gen = none → (k.owner ≠ some m.vif → deliver s m = .settled s 3)
          ∧ (k.owner = some m.vif → (k.ctx.binds.getD slot none).all (·.gen != gen) = true →
            deliver s m = .settled (deadLetter s m.vif m.word m.payload 18 m.sender) 1)
          ∧ (∀ b : Binding, k.owner = some m.vif → k.ctx.binds.getD slot none = some b → b.gen = gen → let q := poolAddr c (64 * b.qoff)
            let tail := s.mem.readNat q 8
            let entry := q + 16 + 16 * (tail % b.qent)
            let full := (tail + 2 ^ 64 - s.mem.readNat (q + 8) 8) % 2 ^ 64 = b.qent
            (full → ∃ u, deliver s m = .spills u b.x ∧ { u with cores := s.cores } = s ∧ BitVec.ofNat 64 (slot * 2 ^ 60 + b.qoff) ∈ (u.core c).overflow
                ∧ (∀ v ∈ k.overflow, v ∈ (u.core c).overflow) ∧ (u.core c).ring = k.ring ∧ ∀ e, e ≠ c → u.core e = s.core e)
              ∧ (¬ full → 0 < b.qent → ∃ u, deliver s m = .settled u 0 ∧ u.mem.readNat q 8 = (tail + 1) % 2 ^ 64
                ∧ u.mem.readNat entry 8 = m.payload.toNat
                ∧ u.mem.readNat (entry + 8) 8 = (m.sender.sgn + m.sender.idx % 256 * 256 + m.vif * 65536) % 2 ^ 64
                ∧ (∀ x, (x < q ∨ q + 8 ≤ x) → (x < entry ∨ entry + 16 ≤ x) → u.mem.byteAt x = s.mem.byteAt x)
                ∧ { u with cores := s.cores, mem := s.mem } = s ∧ ∀ e, e ≠ c → u.core e = s.core e))))
    ∧ (∀ (s u : State) (m : Mail) (x : Nat), let c : CoreId := ⟨bitsOf m.word.toNat 56 5, bitsOf m.word.toNat 48 8⟩; let k := u.core c
      (ringUse k x + 128 ≤ 24576 → 
          let v := u.setCore c { k with ring := k.ring ++ [⟨x, .mail { m with held := false }⟩] }
          { spillMail s u m x with mem := u.mem } = v ∧ (evictedAt v c x = none → spillMail s u m x = v)
            ∧ ∀ a, evictedAt v c x = some a → let bs := ((v.core c).ring.filter (·.x == x)).flatMap fun (e : RingEntry) => entryBytes e.item
              (∀ b, b < a + 106496 ∨ a + 131072 ≤ b → (spillMail s u m x).mem.byteAt b = u.mem.byteAt b)
                ∧ (bs.length ≤ 24576 → (spillMail s u m x).mem.read (a + 106496) bs.length = bs))
        ∧ (24576 < ringUse k x + 128 → spillMail s u m x = { s with mails := s.mails ++ [{ m with held := true }] }))
    ∧ ∀ (s : State) (m : Mail) (st : Nat) (d a : BitVec 5), let k := s.core m.sender
      bit m.word.toNat 61 = true → k.hold = .reply → instrAt { s with cur := m.sender } = some (.mboxSend d a) → k.ctx.getX a.toNat = m.word →
      let t := reply s m st
      (t.core m.sender).hold = .none ∧ ScalarCtx k.ctx (t.core m.sender).ctx d.toNat (BitVec.ofNat 64 st) (k.ctx.pc + 4)
        ∧ (∀ e, e ≠ m.sender → t.core e = s.core e) ∧ { t with cores := s.cores } = s

/-- R306 to R309, R345: at machine level `tlbw` sends a fill to a core of the SG, which puts the entry into its TLB, over the least
recently used where it is full, and tries its access and those of its engine again, unless the fill is older than a shoot-down it
has taken; a fill that is not valid makes the access that it is for fail as one outside every lease (log 17 names whose that is).
`tlbflush` takes the entries of one VIF, or all, out of the TLB. `sdown` makes its generation the VIF's newest and sets out to every
core of the VIF's mask that may run; a core that has no store in flight, where R309 asks for the accesses through the entries alone
(log 81, DESIGN CHOICE), acknowledges it, and the last acknowledgement lets the `sdown` go on. It reaches its core once: the entries in
its range are gone then, and the core keeps its generation unless it has had a newer one.
Which accesses count as uses of an entry is log 48 (DEDUCED). -/
def Obligations.TranslationResults : Prop :=
  (∀ (d a : BitVec 5) (s : State), let w := (s.x d.toNat).toNat; let b := (s.x a.toNat).toNat; s.ctx.level = .machine →
    (bitsOf w 16 6 = 0 → bitsOf b 33 4 = 0 → bitsOf w 22 2 ≠ 3 → bitsOf w 24 40 % pageUnits (bitsOf w 22 2) = 0 →
        bitsOf b 0 25 % pageUnits (bitsOf w 22 2) = 0 → sgEnabled s s.cur.sgn = true → (s.core ⟨s.cur.sgn, bitsOf b 25 8⟩).run ≠ .outOfUse →
        Answers (.tlbw d a) s fun t => GoesOn s { t with fills := s.fills } ∧ t.fills = s.fills ++ [⟨s.cur.sgn, s.x d.toNat, s.x a.toNat⟩])
      ∧ (bitsOf b 9 55 = 0 → Answers (.tlbflush a) s fun t => { t with cores := s.cores } = s ∧ OtherCores s t
        ∧ t.me = { s.me with ctx := { s.ctx with pc := s.ctx.pc + 4 }
                             tlb := if bit b 8 then [] else s.me.tlb.filter (·.vif != bitsOf b 0 8) })
      ∧ (∀ f : Vif, let bs := poolRead s b 32; let va := fieldOf bs 8 8; let len := fieldOf bs 16 8; let gen := (f.gen + 1) % 2 ^ 16
        let targets := (permittedCores f.p).filter fun c => sgEnabled s c.sgn && (s.core c).run != .parked && (s.core c).run != .outOfUse
        s.cur.idx < 256 → s.ctx.scratch ≤ b → b + 32 ≤ 98304 → va % 2 ^ 16 = 0 → len % 2 ^ 16 = 0 → s.vif (fieldOf bs 0 1) = some f →
        fieldOf bs 24 2 = gen → Answers (.sdown a) s fun t => (t.vif f.p.id).map (·.gen) = some gen ∧ OtherCores s t
          ∧ t.shoots = s.shoots ++ (targets.map fun c => Shootdown.mk c s.cur f.p.id va len gen false)
          ∧ (targets ≠ [] → t.me = { s.me with hold := .sdown })
          ∧ (targets = [] → t.me = { s.me with ctx := { s.ctx with pc := s.ctx.pc + 4 } }) ∧ t.mem = s.mem))
    ∧ (∀ (n : Nat) (s : State) (f : Fill), s.fills[n]? = some f → let b := f.b.toNat; let c : CoreId := ⟨f.sgn, bitsOf b 25 8⟩; let k := s.core c
      let e := fillEntry f
      let older := (k.gens.find? (·.1 == e.vif)).any fun h => genOlder (bitsOf b 48 16) h.2
      let after := fun (t : State) => t.fills = s.fills.eraseIdx n ∧ (k.hold = .miss → (t.core c).hold = .none) ∧ (∀ x, x ≠ c → t.core x = s.core x)
        ∧ { t with cores := s.cores, fills := s.fills, ops := s.ops } = s
        ∧ t.ops = s.ops.map fun o => if o.core = c then { o with miss := none } else o
      let mine := k.hold = .miss ∧ (e.holds (missAddress s c) = true ∨ missedOp s c e = none)
      (bit b 37 = true → older = false → Answers (.tlbFill n) s fun t => after t
          ∧ let rest := k.tlb.filter fun o => !(o.vif == e.vif && o.space == e.space && o.va == e.va && o.size == e.size)
            (t.core c).tlb = (if rest.length < Config.tlbEntries then rest else rest.tail) ++ [e])
        ∧ (bit b 37 = true → older = true → Answers (.tlbFill n) s fun t => after t ∧ (t.core c).tlb = k.tlb)
        ∧ (∀ m o, bit b 37 = false → ¬ mine → missedOp s c e = some m → s.ops[m]? = some o →
          Answers (.tlbFill n) s fun t => t = engineLease { s with fills := s.fills.eraseIdx n } m o (o.miss.getD 0))
        ∧ (bit b 37 = false → mine → k.ctx.level ≠ .machine → Answers (.tlbFill n) s fun t => t.fills = s.fills.eraseIdx n
          ∧ (t.core c).mcause = 15 ∧ (t.core c).mvalue = BitVec.ofNat 64 (missAddress s c)))
    ∧ ∀ (n : Nat) (s : State) (f : Shootdown), s.shoots[n]? = some f →
      (∀ t, exec (.shootdownReceive n) s = .next t → let k := s.core f.target
          (f.received = false →
            (∀ e ∈ k.tlb, e.vif = f.vif → e.va < f.va + f.len → f.va < e.va + e.size → e ∉ (t.core f.target).tlb)
              ∧ ((∃ g ∈ k.gens, g.1 = f.vif ∧ genOlder f.gen g.2 = true) → (t.core f.target).gens = k.gens)
              ∧ ((∀ g ∈ k.gens, g.1 = f.vif → genOlder f.gen g.2 = false) → (t.core f.target).gens.find? (·.1 == f.vif) = some (f.vif, f.gen)))
            ∧ (f.received = true → (t.core f.target).tlb = k.tlb ∧ (t.core f.target).gens = k.gens))
        ∧ (s.stores.any (·.core == f.target) = true → Answers (.shootdownReceive n) s fun t =>
          t.shoots = s.shoots.set n { f with received := true } ∧ ∀ c, c ≠ f.target → t.core c = s.core c)
        ∧ (s.stores.any (·.core == f.target) = false → Answers (.shootdownReceive n) s fun t => t.shoots = s.shoots.eraseIdx n
          ∧ ((s.core f.origin).hold = .sdown → (s.shoots.eraseIdx n).any (·.origin == f.origin) = false →
            (t.core f.origin).hold = .none ∧ (t.core f.origin).ctx = { (s.core f.origin).ctx with pc := (s.core f.origin).ctx.pc + 4 })
          ∧ ∀ c, c ≠ f.target → c ≠ f.origin → t.core c = s.core c)

/-! ## Messages of the host -/

/-- R58, R59, R61, R247, R293, R314, R315, R369: a message is charged to the FAB weir of its VIF, as is each answer, and is not
taken while an INJECT before it waits for room. LAUNCH starts a launch in ADMITTING; INJECT sends headers off to their units, waits
where they find no room, and is refused by a launch that has ended; DRAIN adds a buffer; CANCEL ends or winds down a launch, past
the INJECT of that launch that waits, and past no other (log 57). Each message that is taken or refused has its ACK, with the status of R314, and a refused one has no
other effect. R314, R317, R319: a QUERY is answered by a REPLY under its TAG and changes nothing, but that an attestation uses the
next one-time index; one without an index left is refused. That attestation speaks through port 256, and the STATUS of that refusal,
are log 29 (DESIGN CHOICE), and that what it attests names a failed self-test is log 56 (DESIGN CHOICE). -/
def Obligations.HostMessageResults : Prop :=
  (∀ (v : Nat) (m : List Byte) (s : State) (f g : Vif), endpoint s v = some f → let w := charge s v 3 m.length; w.vif v = some g →
    let b := msgBody m
    let lid := if msgType m = 1 then fieldOf b 20 2 else fieldOf b 0 2
    let acks := fun (st : Nat) => w.send v (ackMessage (msgType m) st lid (msgTag m))
    let refused := fun (st : Nat) (t : State) => t = acks st
    let but := fun (t : State) => t.sent = (acks 0).sent ∧ { t with sent := s.sent, launches := s.launches, flying := s.flying, vifs := s.vifs, seq := s.seq } = s
    let others := fun (t : State) => ∀ w n, (w, n) ≠ (v, lid) → t.launch w n = s.launch w n
    (f.injects.any (!·.acked) = true → ∀ i ∈ [Instr.launch v m, .inject v m, .drain v m, .leaseGrant v m, .leaseRevoke v m, .leaseShardingEntry v m,
        .leasePeer v m, .queryLaunchState v m, .queryVifWeirs v m], exec i s = .next s)
      ∧ (f.injects.any (!·.acked) = false →
      (msgType m = 1 → (launchMalformed g m = true → Answers (.launch v m) s (refused 1))
        ∧ (launchMalformed g m = false → (∀ l, s.launch v lid = some l → l.state ≠ .ended → Answers (.launch v m) s (refused 3))
          ∧ ((∀ l, s.launch v lid = some l → l.state = .ended) → Answers (.launch v m) s fun t => but t ∧ t.vifs = (acks 0).vifs ∧ t.flying = s.flying
            ∧ t.launch v lid = some (newLaunch w g m) ∧ others t)))
      ∧ (msgType m = 2 → (injectMalformed (s.launch v lid) m = true → Answers (.inject v m) s (refused 1))
        ∧ (injectMalformed (s.launch v lid) m = false → (s.launch v lid = none → Answers (.inject v m) s (refused 2))
          ∧ ∀ l, s.launch v lid = some l → let hs := (injectHeaders b).map (fixHeader v 1)
            let queued := fun (taken : Bool) (t : State) => (t.vif v).map (fun k => { k with rem := [] })
              = some { f with injects := f.injects ++ [⟨msgTag m, lid, bit (fieldOf b 2 1) 0, hs, taken⟩], rem := [] }
            let waits := fun (t : State) => queued false t ∧ { t with vifs := s.vifs } = s
            let counted := some { l with injected := l.injected + hs.length, last := l.last || bit (fieldOf b 2 1) 0 }
            (l.state ≠ .admitting ∧ l.state ≠ .running → Answers (.inject v m) s (refused 4))
              ∧ (l.state = .running → (∀ u, tryPlace w l (hs.map (·, false)) = some u → Answers (.inject v m) s fun t => but t
                    ∧ t.vifs = (acks 0).vifs ∧ t.launch v lid = counted ∧ t.flying = u.flying ∧ t.flying.length = s.flying.length + hs.length ∧ others t)
                  ∧ (tryPlace w l (hs.map (·, false)) = none → Answers (.inject v m) s waits))
              ∧ (l.state = .admitting → (hs.length ≤ bufferFree w v → Answers (.inject v m) s fun t => but t
                    ∧ t.launch v lid = counted ∧ t.flying = s.flying ∧ queued true t ∧ others t)
                  ∧ (bufferFree w v < hs.length → Answers (.inject v m) s waits))))
      ∧ (msgType m = 3 → headerOk m = true → b.length = 20 → zeroAt b 2 6 = true → fieldOf b 8 8 % 64 = 0 → fieldOf b 16 4 ≠ 0 →
        (s.launch v lid = none → Answers (.drain v m) s (refused 2))
          ∧ ∀ l, s.launch v lid = some l → (l.state = .ended → Answers (.drain v m) s (refused 0))
            ∧ (l.state ≠ .ended → Answers (.drain v m) s fun t => but t ∧ t.launches = s.launches ∧ t.flying = s.flying
              ∧ (t.vif v).map (·.buffers) = some (f.buffers ++ [(lid, fieldOf b 8 8, fieldOf b 16 4)])))
      ∧ (msgType m = 6 → headerOk m = true → 4 ≤ b.length → let id := fieldOf b 2 2
        let gives := fun (body : List Byte) (t : State) => t = w.send v (message 0x84 (msgTag m) body)
        (fieldOf b 0 1 = 0 → (∀ l, s.launch v id = some l → Answers (.queryLaunchState v m) s (gives ([0, BitVec.ofNat 8 l.state.num] ++ bytesOfNat 2 id
              ++ bytesOfNat 4 (if l.state = .ended then l.status.num else 0) ++ bytesOfNat 8 l.commits ++ bytesOfNat 8 l.drained ++ bytesOfNat 8 l.injected)))
            ∧ (s.launch v id = none → Answers (.queryLaunchState v m) s (gives ([0, 0] ++ bytesOfNat 2 id ++ List.replicate 28 0))))
          ∧ (fieldOf b 0 1 = 1 → Answers (.queryVifWeirs v m) s (gives ([1] ++ List.replicate 7 0 ++ bytesOfNat 4 f.p.per ++ bytesOfNat 4 f.p.bwCap
            ++ (List.range 5).flatMap fun n => bytesOfNat 8 (f.p.budgets.getD n 0) ++ bytesOfNat 8 (wrap 64 (g.rem.getD n 0)))))))
      ∧ ((∃ i ∈ f.injects, i.acked = false ∧ i.lid ≠ lid) → exec (.cancel v m) s = .next s)
      ∧ (msgType m = 5 → headerOk m = true → b.length = 2 → (∀ i ∈ f.injects, i.acked = false → i.lid = lid) → (s.launch v lid = none → Answers (.cancel v m) s (refused 2))
        ∧ ∀ l, s.launch v lid = some l → let first := fun (t : State) => ∃ more, t.sent = s.sent ++ (v, ackMessage 5 0 lid (msgTag m)) :: more
          (l.state = .ended → Answers (.cancel v m) s (refused 4))
            ∧ (l.state = .winding → Answers (.cancel v m) s (refused 0))
            ∧ (l.state = .running → Answers (.cancel v m) s fun t => first t ∧ others t
              ∧ t.launch v lid = some { l with state := .winding, status := .cancelled, faultAddr := 0 })
            ∧ (l.state = .admitting → Answers (.cancel v m) s fun t => first t ∧ others t
              ∧ t.launch v lid = some { l with state := .ended, status := .cancelled, faultAddr := 0, toDrain := [] })
            ∧ (l.state = .draining → Answers (.cancel v m) s fun t => first t ∧ others t
              ∧ t.launch v lid = some { l with state := .ended, toDrain := [] })))
    ∧ (∀ (v : Nat) (s w : State) (f : Vif) (i : HeldInject), s.vif v = some f → f.injects.find? (!·.acked) = some i →
      w = s.setVif { f with injects := f.injects.erase i } →
      let sends := fun (st : Nat) => w.send v (ackMessage 2 st i.lid i.tag)
      (s.launch v i.lid = none → Answers (.injectRoomAccept v) s fun t => t = sends 2)
        ∧ ∀ l, s.launch v i.lid = some l → let counted := some { l with injected := l.injected + i.hdrs.length, last := l.last || i.last }
          (l.state ≠ .admitting ∧ l.state ≠ .running → Answers (.injectRoomAccept v) s fun t => t = sends 4)
            ∧ (l.state = .running → declared l.image i.hdrs = false → Answers (.injectRoomAccept v) s fun t => t = sends 1)
            ∧ (l.state = .running → declared l.image i.hdrs = true → tryPlace w l (i.hdrs.map (·, false)) = none → exec (.injectRoomAccept v) s = .next s)
            ∧ (∀ u, l.state = .running → declared l.image i.hdrs = true → tryPlace w l (i.hdrs.map (·, false)) = some u →
              Answers (.injectRoomAccept v) s fun t => t.sent = (sends 0).sent ∧ t.flying = u.flying ∧ t.launch v i.lid = counted ∧ t.vifs = (sends 0).vifs
                ∧ { t with sent := s.sent, launches := s.launches, flying := s.flying, vifs := s.vifs, seq := s.seq } = s)
            ∧ (l.state = .admitting → bufferFree w v < i.hdrs.length → exec (.injectRoomAccept v) s = .next s)
            ∧ (l.state = .admitting → i.hdrs.length ≤ bufferFree w v → Answers (.injectRoomAccept v) s fun t => t.sent = (sends 0).sent
              ∧ t.launch v i.lid = counted ∧ (t.vif v).map (·.injects) = some (f.injects.erase i ++ [{ i with acked := true }])
              ∧ { t with sent := s.sent, launches := s.launches, vifs := s.vifs } = s))
    ∧ ∀ (m : List Byte) (s : State), msgType m = 6 → headerOk m = true → fieldOf (msgBody m) 0 1 = 2 → (msgBody m).length = 40 → s.stage ≠ .off →
      s.stage ≠ .cold → (s.primin.hssIndex < 2 ^ 40 → Answers (.queryAttestation m) s fun t => ∃ sig : BitVec 28832,
        t = ({ s with primin := { s.primin with hssIndex := s.primin.hssIndex + 1 } } : State).send portZero
          (message 0x84 (msgTag m) (attested s.primin (msgBody m) ++ bytesOfNat 3604 sig.toNat)))
        ∧ (2 ^ 40 ≤ s.primin.hssIndex → Answers (.queryAttestation m) s fun t => ∃ st, 1 ≤ st ∧ st ≤ 4
          ∧ t = s.send portZero (ackMessage 6 st 0 (msgTag m)))

/-- R302 to R304, R310, R312: a grant adds a lease, whose ACK comes when every page is resident; a revoke takes effect once no
launch names the lease, and is acknowledged then; an update of the sharding table, an entry or a peer, makes a new version, of which
there are at most four, and else waits; the versions that running launches read stay; a peer entry is the endpoint of its device. A page goes with the last lease that it backs
(DESIGN CHOICE, log 83). -/
def Obligations.LeaseMessageResults : Prop :=
  ∀ (v : Nat) (m : List Byte) (s : State) (f : Vif), let id := leaseId m
    let settled := fun (but : Nat) => ∀ k ∈ f.leases, k.id ≠ but → k.resident = true → k.revokes = [] ∨ leaseInUse s v k.id = true
    let quiet := fun (t : State) => t.sent = s.sent ∧ { t with vifs := s.vifs } = s
    let becomes := fun (t : State) (k : Vif) => (t.vif v).map (fun j => { j with rem := [] }) = some { k with rem := [] }
    let acks := fun (tags : List Word) (id : Nat) (t : State) => t.sent = s.sent ++ (tags.map fun w => (v, ackMessage 4 0 id w))
      ∧ { t with sent := s.sent, vifs := s.vifs } = s
    (endpoint s v = some f → f.injects.any (!·.acked) = false → msgType m = 4 →
        (leaseOp m = 0 → grantMalformed f m = false → Answers (.leaseGrant v m) s fun t => quiet t ∧ becomes t { f with
          leases := f.leases ++ [⟨id, leaseSpace m, leaseVa m, leaseLen m, false, msgTag m, []⟩] })
          ∧ (leaseOp m = 0 → grantMalformed f m = true → Answers (.leaseGrant v m) s fun t =>
            t = (charge s v 3 m.length).send v (ackMessage 4 1 id (msgTag m)))
          ∧ (leaseOp m = 1 → leaseMalformed m = false → f.leases.any (·.id == id) = true → settled id →
            (leaseInUse s v id = true → Answers (.leaseRevoke v m) s fun t => quiet t ∧ becomes t { f with
                leases := f.leases.map fun e => if e.id = id then { e with revokes := e.revokes ++ [msgTag m] } else e })
              ∧ ∀ e, leaseInUse s v id = false → f.leases.filter (·.id == id) = [e] → e.resident = true →
                Answers (.leaseRevoke v m) s fun t => acks (e.revokes ++ [msgTag m]) id t ∧ ∃ g, t.vif v = some g
                  ∧ g.leases = f.leases.filter (·.id != id)
                  ∧ let backs := fun (k : Lease) (p : PageMap) => k.space = p.space ∧ k.va < p.va + p.size ∧ p.va < k.va + k.len
                    ∀ p, p ∈ g.pages ↔ p ∈ f.pages ∧ (¬ backs e p ∨ ∃ k ∈ f.leases, k.id ≠ id ∧ k.resident = true ∧ backs k p))
          ∧ (f.updates = [] → let newest := (f.shards.map (·.1)).foldl max 0
            let was := ((f.shards.find? (·.1 == newest)).map (·.2)).getD ⟨[], []⟩
            let updates := fun (i : Instr) (u : TableUpdate) (named : Nat) (changed : ShardTable → Prop) =>
              ((liveShards s f).length < 4 → Answers i s fun t => acks [msgTag m] named t ∧ ∃ g, t.vif v = some g
                  ∧ g.updates = [] ∧ (∀ p ∈ g.shards, p.1 ≤ newest + 1) ∧ (∃ now, (newest + 1, now) ∈ g.shards ∧ changed now)
                  ∧ ∀ l ∈ s.launches, l.vif = f.p.id → l.state ≠ .ended → l.state ≠ .admitting → ∀ p ∈ f.shards, p.1 = l.shards → p ∈ g.shards)
                ∧ (4 ≤ (liveShards s f).length → Answers i s fun t => quiet t
                  ∧ becomes t { f with updates := [(msgTag m, u)], shards := liveShards s f })
            (leaseOp m = 2 → shardMalformed m = false → updates (.leaseShardingEntry v m) (.entry (shardOf m)) id fun now =>
                now.peers = was.peers ∧ now.entries = upsert (·.tensor == id) (shardOf m) was.entries)
              ∧ (leaseOp m = 3 → headerOk m = true → (msgBody m).length = 24 → zeroAt (msgBody m) 4 4 = true → id < 0xFFFE →
                updates (.leasePeer v m) (.peer id (BitVec.ofNat 64 (leaseVa m))) 0 fun now => now.entries = was.entries
                  ∧ now.peers.find? (·.1 == id) = some (id, BitVec.ofNat 64 (leaseVa m))
                  ∧ ∀ d, d ≠ id → now.peers.find? (·.1 == d) = was.peers.find? (·.1 == d))))
      ∧ ∀ (n : Nat) (ps : List PageMap) (e : Lease), s.vif v = some f → f.leases.find? (fun k => k.id == n && !k.resident) = some e →
        ps.all pageOk = true → pagesCover e ps = true → (∀ k ∈ f.leases, k.revokes = [] ∨ leaseInUse s v k.id = true) →
        Answers (.leaseResident v n ps) s fun t => acks [e.tag] n t ∧ ∃ g, t.vif v = some g ∧ (∀ p ∈ ps, p ∈ g.pages)
          ∧ g.leases = f.leases.map fun k => if k.id = n then { k with resident := true } else k

/-! ## Launches and the confluence -/

/-- R59, R288, R305: once every lease that a launch names is granted and its units have room, admission enters RUNNING, with
the parameter snapshot of R305 in the VIF's record area (log 15), fresh counters at each unit, and the headers held for it on
their way; a launch whose image or placement fails ends ABORTED. R62, R248 to R250, R315: two waves that agree that nothing
moves, after LAST, declare slack, and the launch drains or, with nothing to drain, ends COMPLETE; any other wave is
remembered. A launch that has wound down drains too, unless it is bound for ABORTED, which drains nothing (log 50). Each drained tile is written to the first host buffer of its launch,
without its tag, and COMPLETE follows the last. In which order tiles of equal SEQ drain is log 54 (DESIGN CHOICE), and that a
launch which fails admission keeps the image and the hash that admission has read is log 75 (DESIGN CHOICE). -/
def Obligations.LaunchResults : Prop :=
  (∀ (v lid : Nat) (s : State) (f : Vif) (l : Launch), s.vif v = some f → s.launch v lid = some l → l.state = .admitting →
    leasesGranted f l = true → (unitsOf s l).any (unitFull s) = false →
    (admitted s f l = none → Answers (.admission v lid) s fun t => t.launch v lid = some { l with
        image := (imageOf s f l).getD l.image, imageHash := if l.channelled then imageHashOf s f l else []
        state := .ended, status := .aborted, faultAddr := 0, toDrain := [] })
      ∧ ∀ k, admitted s f l = some k → let a := pinnedAddr v (snapshotVa f.p lid); let q := 64 * ((l.plen + 63) / 64)
        let mine := fun (i : HeldInject) => i.lid == lid && i.acked
        Answers (.admission v lid) s fun t => t.launch v lid = some k ∧ k.state = .running ∧ k.leases = l.leases ∧ t.sent = s.sent
          ∧ (∀ g ∈ k.units, unitLaunch (t.unit g) v lid = ⟨v, lid, 0, 0, 0, false⟩)
          ∧ t.flying.length = s.flying.length + ((f.injects.filter mine).flatMap (·.hdrs)).length
          ∧ t.vif v = some { f with injects := f.injects.filter fun i => !mine i }
          ∧ (l.params.length = l.plen → l.plen ≤ 65536 → l.leases.length ≤ 64 → SameOutside s.mem t.mem a (2 ^ 17)
            ∧ t.mem.read a l.plen = l.params
            ∧ ∀ n r, l.leases[n]? = some r → t.mem.read (a + q + 16 * n) 16 = capBytes (leaseCapability f r) ∧ t.mem.tagAt (a + q + 16 * n) = true))
    ∧ (∀ (v lid : Nat) (s : State) (f : Vif) (l : Launch), s.vif v = some f → s.launch v lid = some l →
    let ends := fun (st : Status) (k : Launch) (t : State) => k.state = .ended ∧ k.status = st ∧ ∃ tail, (l.channelled = false → tail = List.replicate 64 0)
      ∧ (v, message 0x81 l.tag (bytesOfNat 2 lid ++ [BitVec.ofNat 8 st.num, 0, 0, 0, 0, 0] ++ bytesOfNat 8 k.commits ++ bytesOfNat 8 k.drained
        ++ bytesOfNat 8 k.faultAddr ++ tail)) ∈ t.sent
    let drains := fun (st : Status) (t : State) => ∃ k, t.launch v lid = some k ∧ k.status = st ∧ k.commits = l.commits
      ∧ (drainOrder s l ≠ [] → k.state = .draining ∧ k.toDrain = drainOrder s l ∧ t.sent = s.sent) ∧ (drainOrder s l = [] → ends st k t)
    (l.state = .running → let act := l.units.any (actAt s l)
        let sent := l.injected + (l.units.map fun g => (unitLaunch (s.unit g) v lid).sent).sum
        let recv := (l.units.map fun g => (unitLaunch (s.unit g) v lid).recv).sum
        let slack := l.last = true ∧ act = false ∧ sent = recv ∧ l.wave = some (false, sent) ∧ ∀ i ∈ f.injects, i.lid ≠ lid
        (slack → Answers (.slackWave v lid) s (drains .complete))
          ∧ (¬ slack → Answers (.slackWave v lid) s fun t => t.launch v lid = some { l with wave := some (act, sent) }
            ∧ (∀ g ∈ l.units, (unitLaunch (t.unit g) v lid).act = false) ∧ (∀ g, (t.unit g).tiles = (s.unit g).tiles)
            ∧ { t with units := s.units, launches := s.launches } = s))
      ∧ (l.state = .winding → l.status ≠ .aborted → reactionsOf s v lid = [] → Answers (.drainWrite v lid) s (drains l.status))
      ∧ ∀ h rest b, l.state = .draining → l.toDrain = h :: rest → f.buffers.find? (·.1 == lid) = some b → weirOpen s v 3 = true →
        linkDown s .fabric = false → let a := foreignAddr 4 v b.2.1
        Answers (.drainWrite v lid) s fun t =>
          (rest ≠ [] → t.launch v lid = some { l with toDrain := rest, drained := l.drained + 1 } ∧ t.sent = s.sent
            ∧ t.mem.read a 64 = bytesOfNat 64 h.toNat ∧ SameOutside s.mem t.mem a 64 ∧ (∀ g ∈ t.mem.tags, g ∈ s.mem.tags)
            ∧ (1 < b.2.2 → (t.vif v).bind (fun g => g.buffers.find? (·.1 == lid)) = some (lid, b.2.1 + 64, b.2.2 - 1)))
            ∧ (rest = [] → ∃ k, t.launch v lid = some k ∧ k.drained = l.drained + 1 ∧ k.commits = l.commits ∧ k.faultAddr = l.faultAddr ∧ ends l.status k t))

/-- R38, R239 to R247, R258, R295: a header that reaches its unit takes the next stamp, and is resident or, in a full store, goes to
the backwater at a charge to the HBM weir; one that finds no room, or that its queue keeps out, is held in the transit buffer while
that has a place, and the held ones enter in the order in which they came. A free slot takes the oldest backwater tile. A unit
decides for its launches in turn, and performs the match that R240 chooses: of the oldest tile that a group consumes, the rule that
comes first from the pointer of its class on, and the group of the oldest tiles. Consumed tiles go to escrow, catalysts are
read-locked, and a reaction is MATCHED, in the lowest record that is free (log 31); the decision waits for escrow slots (R43), and a
launch that is slack has none (R250). Which index a tile takes is log 52 (DESIGN CHOICE), and that an exhausted HBM weir holds the
moves of its own VIF's tiles alone is log 70 (DEDUCED). -/
def Obligations.BasinResults : Prop :=
  (∀ (n : Nat) (s : State) (e : Flying), s.flying[n]? = some e → let u := s.unit e.sgn
      let enters := fun (t : State) => t.flying = s.flying.eraseIdx n ∧ { t with flying := s.flying, units := s.units, vifs := s.vifs } = s
        ∧ (t.unit e.sgn).nextStamp = u.nextStamp + 1 ∧ (unitLaunch (t.unit e.sgn) e.vif e.lid).recv = (unitLaunch u e.vif e.lid).recv + 1
        ∧ (unitLaunch (t.unit e.sgn) e.vif e.lid).act = true ∧ (t.unit e.sgn).reactions = u.reactions
        ∧ ∃ k ∈ (t.unit e.sgn).tiles, k.stamp = u.nextStamp ∧ k.hdr = e.hdr ∧ k.ptag = e.ptag ∧ k.vif = e.vif ∧ k.lid = e.lid
          ∧ ((s.vifs.map (·.p.id)).Nodup → (residents u < 4096 → k.place = .resident ∧ ∀ v, t.vif v = s.vif v)
            ∧ (4096 ≤ residents u → (∀ j ∈ u.tiles, j.stamp < u.nextStamp) → k.place = .backwater ∧ ∀ v, t.vif v = (charge s e.vif 1 64).vif v))
      let room := roomFor s e.vif e.sgn ≠ 0 ∧ queueOpen s e = true ∧ ∀ j ∈ s.flying, j.vif = e.vif → j.sgn = e.sgn → queueOpen s j = true →
        ∀ a, j.held = some a → ∃ b, e.held = some b ∧ b ≤ a
      let first := ∀ j ∈ s.flying.take n, j.held = none → j.vif = e.vif → j.lid = e.lid → j.sgn = e.sgn → bit (hdrField e.hdr 2 1) 1 = true →
        bit (hdrField j.hdr 2 1) 1 = false
      (e.held = none → first → (room → entryOpen s e = true → Answers (.tileArrival n) s enters)
          ∧ (room → entryOpen s e = false → exec (.tileArrival n) s = .next s)
          ∧ (¬ room → 0 < bufferFree s e.vif → Answers (.tileArrival n) s fun t =>
            t = { s with seq := s.seq + 1, flying := s.flying.set n { e with held := some s.seq } })
          ∧ (¬ room → bufferFree s e.vif = 0 → exec (.tileArrival n) s = .next s))
        ∧ (e.held.isSome = true → (room → entryOpen s e = true → Answers (.transitEntry n) s enters)
          ∧ (¬ room ∨ entryOpen s e = false → exec (.transitEntry n) s = .next s)))
    ∧ (∀ (g : Nat) (s : State) (k : Tile), residents (s.unit g) < 4096 → k ∈ (s.unit g).tiles → k.place = .backwater → weirOpen s k.vif 1 = true →
      (∀ j ∈ (s.unit g).tiles, j.place = .backwater → weirOpen s j.vif 1 = true → j = k ∨ k.stamp < j.stamp) →
      Answers (.backwaterReturn g k.vif k.lid) s fun t => { t with units := s.units, vifs := s.vifs } = s ∧ t.vifs = (charge s k.vif 1 64).vifs
        ∧ t.unit g = { s.unit g with tiles := (s.unit g).tiles.map fun j =>
            if j.id = k.id then { j with place := .resident, index := freeSlot (s.unit g) .resident } else j })
    ∧ (∀ (g : Nat) (s : State) (before after : List Launch) (l : Launch), s.launch l.vif l.lid = some l → weirOpen s l.vif 4 = true →
      launchTurn s g = before ++ l :: after → (∀ k ∈ before, (decide' s g k) matches .waits ∨ ((decide' s g k) matches .nothing ∧ isSlack s k = true)) →
      let u := s.unit g; let v := l.vif; let lid := l.lid
      (chooseMatch l u = none → isSlack s l = false → Answers (.matchDecision g v lid) s fun t => { t with units := s.units } = s
          ∧ (t.unit g).tiles = u.tiles ∧ (t.unit g).reactions = u.reactions ∧ (t.unit g).last = some (v, lid))
        ∧ (chooseMatch l u = none → isSlack s l = true → (∀ k ∈ after, (k.vif, k.lid) ≠ (v, lid)) → exec (.matchDecision g v lid) s = .next s)
        ∧ (isSlack s l = true ↔ l.last = true ∧ reactionsOf s v lid = [] ∧ (∀ k ∈ s.flying, ¬ (k.vif = v ∧ k.lid = lid))
          ∧ (∀ f, s.vif v = some f → ∀ i ∈ f.injects, i.lid ≠ lid) ∧ ∀ h ∈ l.units, chooseMatch l (s.unit h) = none)
        ∧ ∀ i ts x, chooseMatch l u = some (i, ts) → freeIndex u = some x → let r := l.image.rules.getD i default
          let room := (u.tiles.filter (·.place == .escrow)).length + (consumedSpecies r).length ≤ 4096
          (¬ room → exec (.matchDecision g v lid) s = .next s)
            ∧ (room → (ts.any (·.place == .backwater) = true → weirOpen s v 1 = true) → movesOpen s (performMatch s g l i ts x) g v = true →
              Answers (.matchDecision g v lid) s fun t =>
              (∃ q, t.reaction g x = some q ∧ q.state = .matched ∧ q.rule = i ∧ q.vif = v ∧ q.lid = lid ∧ q.shape = r.crew ∧ q.offset = r.entry
                ∧ q.gen = ((u.gens.find? (·.1 == x)).map (·.2)).getD 0 ∧ q.started = false ∧ q.live = []
                ∧ q.reactants.map (fun p => (p.tile, p.hdr, p.ptag)) = ts.map (fun k => (k.id, k.hdr, k.ptag))
                ∧ ∀ n p, q.reactants[n]? = some p → p.cat = bit r.cats n)
                ∧ (∀ n k, ts[n]? = some k → ∃ j ∈ (t.unit g).tiles, j.id = k.id ∧ j.hdr = k.hdr
                  ∧ (bit r.cats n = false → j.place = .escrow) ∧ (bit r.cats n = true → j.locks = k.locks + 1))
                ∧ (ts.all (·.place == .resident) = true → (∀ j ∈ (t.unit g).tiles, (∀ k ∈ ts, k.id ≠ j.id) → j ∈ u.tiles)
                  ∧ t.vifs = (charge s v 4 1).vifs)
                ∧ (unitLaunch (t.unit g) v lid).ptr = (i + 1) % max 1 l.image.rules.length ∧ (t.unit g).last = some (v, lid)
                ∧ (∀ y, y ≠ x → t.reaction g y = s.reaction g y) ∧ (l.channelled = false → t.launch v lid = some l)
                ∧ { t with units := s.units, launches := s.launches, vifs := s.vifs, mem := s.mem } = s))
    ∧ (∀ (g : Nat) (s : State) (a b : List Launch) (p : Launch), (s.launches.filter fun l => l.state == .running && l.units.contains g) = a ++ p :: b →
      (∀ k ∈ a, (k.vif, k.lid) ≠ (p.vif, p.lid)) → (s.unit g).last = some (p.vif, p.lid) → launchTurn s g = b ++ (a ++ [p]))
    ∧ ∀ (l : Launch) (u : CUnit), let n := l.image.rules.length; let ptr := (unitLaunch u l.vif l.lid).ptr
      let turn := fun (i : Nat) => (i + n - ptr % n) % n
      let cls := fun (i : Nat) => (l.image.rules.getD i default).cls
      (chooseMatch l u = none → ∀ i ts p t, IsGroup l u i ts → ¬ ConsumedAt l i ts p t)
        ∧ ∀ i ts, chooseMatch l u = some (i, ts) → IsGroup l u i ts ∧ ∃ p t, ConsumedAt l i ts p t
          ∧ (∀ j ks m k, IsGroup l u j ks → ConsumedAt l j ks m k → t.stamp ≤ k.stamp)
          ∧ (∀ j ks m, IsGroup l u j ks → ConsumedAt l j ks m t → cls i < cls j ∨ (cls i = cls j ∧ turn i ≤ turn j))
          ∧ (∀ ks m, IsGroup l u i ks → ConsumedAt l i ks m t → p ≤ m)
          ∧ ∀ ks m j k, IsGroup l u i ks → ConsumedAt l i ks p t → ks.take m = ts.take m → ts[m]? = some j → ks[m]? = some k → j.stamp ≤ k.stamp

/-- R51 to R53, R60, R61, R191, R247, R249, R258, R295: once every live member waits in `commit` and its stores and operations are
done, a reaction commits in one step: its consumed tiles are gone, its products are on their way, the launch counts it, and the
record is free under its next generation; where the products find no room it waits in ENDING. The reaction limit winds the launch
down, as does the cycle limit. An abort returns its tiles with their stamps, once the weirs of the moves that it makes are open. -/
def Obligations.ReactionEndResults : Prop :=
  (∀ (g x : Nat) (s : State) (r : Reaction) (l : Launch), s.reaction g x = some r → s.launch r.vif r.lid = some l → r.aborting = false →
      l.state = .running → (r.state = .ending ∨ (r.state = .running ∧ r.live ≠ [] ∧ ∀ m ∈ r.live, m ∈ r.committed)) → mayEnd s g r = true →
      let open' := (fixedProducts r).all (fun h => queueAdmits l h.1)
      let limit := l.reactLimit ≠ 0 ∧ l.reactLimit ≤ l.commits + 1
      (open' = false ∨ tryPlace s l (fixedProducts r) = none → Answers (.reactionCommit g x) s fun t => t = s.setReaction g { r with state := .ending })
        ∧ ∀ u, open' = true → tryPlace s l (fixedProducts r) = some u → Answers (.reactionCommit g x) s fun t =>
        (limit → t.launch r.vif r.lid = some { l with commits := l.commits + 1, state := .winding, status := .limit, faultAddr := 0 })
        ∧ (¬ limit → t.launch r.vif r.lid = some { l with commits := l.commits + 1 } ∧ t.reaction g x = none
          ∧ (∀ y, y ≠ x → t.reaction g y = s.reaction g y) ∧ t.flying = u.flying
          ∧ t.flying.length = s.flying.length + r.products.length
          ∧ (unitLaunch (t.unit g) r.vif r.lid).sent = (unitLaunch (s.unit g) r.vif r.lid).sent + r.products.length
          ∧ (t.unit g).gens.find? (·.1 == x) = some (x, (r.gen + 1) % 2 ^ 16)
          ∧ (∀ k ∈ (t.unit g).tiles, ∀ q ∈ r.reactants, q.cat = false → k.id ≠ q.tile)
          ∧ (∀ k ∈ (s.unit g).tiles, (∀ q ∈ r.reactants, q.tile ≠ k.id) → k ∈ (t.unit g).tiles)
          ∧ (∀ c, c.sgn = g → (t.core c).rx ≠ some x) ∧ (NoRing s g x → t.sent = s.sent)))
    ∧ (∀ (g x : Nat) (s : State) (r : Reaction) (l : Launch), s.reaction g x = some r → s.launch r.vif r.lid = some l → mayEnd s g r = true →
      l.state ≠ .ended → r.state = .ending → (r.aborting = true ∨ l.state = .winding) →
      (abortOpen s g r = false → exec (.reactionAbort g x) s = .next s)
        ∧ (abortOpen s g r = true → Answers (.reactionAbort g x) s fun t => t.reaction g x = none
        ∧ (∀ c, c.sgn = g → (t.core c).rx ≠ some x)
        ∧ (l.status ≠ .aborted → t.launch r.vif r.lid = some l ∧ t.flying = s.flying ∧ (NoRing s g x → t.sent = s.sent)
          ∧ (t.unit g).gens.find? (·.1 == x) = some (x, (r.gen + 1) % 2 ^ 16)
          ∧ ∀ q ∈ r.reactants, q.cat = false → ∀ k, (s.unit g).tiles.find? (·.id == q.tile) = some k →
            ∃ j ∈ (t.unit g).tiles, j.id = k.id ∧ j.stamp = k.stamp ∧ j.hdr = k.hdr ∧ j.place ≠ .escrow)))
    ∧ ∀ (v lid : Nat) (s : State) (l : Launch), s.launch v lid = some l → l.state = .running → l.cycleLimit ≠ 0 →
      Answers (.cycleLimit v lid) s fun t => t.launch v lid = some { l with state := .winding, status := .limit, faultAddr := 0 }
        ∧ ((∀ k ∈ s.cores, k.2.ring = []) → t.sent = s.sent) ∧ (∀ w n, (w, n) ≠ (v, lid) → t.launch w n = s.launch w n)

/-! ## What a free core takes, interrupts, eviction and restore -/

/-- R45 to R47, R49, R63, R64, R233 to R237, R267, R275, R291: a free core takes the first item of Table 11.1. A reaction
starts on the aligned block of its shape with the registers of R46, one that was suspended goes on at its saved offset, and
all members of a crew wait while its overlay loads into a tile of its block; the last load then lets them run. A tile that passes to
another VIF waits until it has drained; it then loses its overlays, every pin is released, and the CORE weir of that VIF is charged. A
pool that was another VIF's, or since a reset is nobody's, is taken once it is quiet, and reads zero (R46, R291). Where frames and the parameter snapshot stand is log 15
(DESIGN CHOICE), that a load copies its whole overlay when it completes is log 33 (DESIGN CHOICE), and which slot of a tile a load takes
is log 58 (DESIGN CHOICE). -/
def Obligations.PickupResults : Prop :=
  (∀ (c : CoreId) (s : State) (r : Reaction) (f : Vif) (l : Launch) (rule : Rule), coreFree s c = true → chooseWork s c = some (.start r) →
      s.vif r.vif = some f → s.launch r.vif r.lid = some l → ruleOf s r = some rule → s.reaction c.sgn r.x = some r →
      (r.state = .suspended → r.started = true) → let b := blockAt r c.idx
      r.vif < 256 → r.base + max 64 rule.frame ≤ 2 ^ 56 → ((blockTiles b).all fun t => tileOpen s c.sgn t r.vif) = true →
      ((blockCores b).all fun i => poolOpen s ⟨c.sgn, i⟩ r.vif) = true →
      (((blockTiles b).any fun t => tileForeign s c.sgn t r.vif || (slotHolding s c.sgn t r.vif r.lid rule.ovl).isNone) = true →
        weirOpen s r.vif 1 = true) →
      Answers (.reactionPickup c) s fun t => (∀ i ∈ blockCores b, let k := t.core ⟨c.sgn, i⟩
          k.run = .running ∧ k.rx = some r.x ∧ k.owner = some r.vif ∧ k.saved = none
            ∧ k.hold = (if crewLoading t c.sgn b r.vif r.lid rule.ovl then .overlay else .none)
            ∧ k.ctx.pc = r.offset ∧ k.ctx.level = .user ∧ k.ctx.space = .overlay ∧ k.ctx.inev = false ∧ k.ctx.fault = r.fault
            ∧ k.ctx.getK 14 = Cap.range 2 (permLoad + permStore + permLoadK + permStoreK) r.base rule.frame ∧ k.ctx.getK 15 = snapshotCap f.p l
            ∧ (∀ n, n < 14 → k.ctx.getK n = Cap.null) ∧ k.ctx.round = 0 ∧ k.ctx.fflags = 0 ∧ k.ctx.jord = 0 ∧ (∀ n, (k.ctx.streams.getD n StreamReg.closed).isOpen = false)
            ∧ k.ctx.partition = partitionWord rule.vregs rule.acc ∧ k.ctx.crewcoord = coordWord b.1 b.2 i
            ∧ (∀ n, k.ctx.getX n = match (if r.state = .suspended then outcomeOf s r else none) with
              | some (d, v) => if n = d ∧ d ≠ 0 then v else 0
              | none => 0)
            ∧ ((s.core ⟨c.sgn, i⟩).owner ≠ some r.vif → ∀ o, o < 2 ^ 17 → t.mem.byteAt (poolAddr ⟨c.sgn, i⟩ o) = 0)
            ∧ ∀ o, o < k.ctx.scratch → t.mem.byteAt (poolAddr ⟨c.sgn, i⟩ o) = 0)
        ∧ (∃ q, t.reaction c.sgn r.x = some q ∧ q.first = b.1 ∧ q.live = blockCores b ∧ q.committed = [] ∧ q.started = true
          ∧ q.state = if crewLoading t c.sgn b r.vif r.lid rule.ovl then r.state else .running)
        ∧ (r.started = false → ∀ o, o < rule.frame → t.mem.byteAt (pinnedAddr r.vif (r.base + o)) = 0)
        ∧ (∀ e, (e.sgn ≠ c.sgn ∨ e.idx ∉ blockCores b) → { t.core e with ibufPins := (s.core e).ibufPins } = s.core e)
        ∧ (((blockTiles b).any fun t => tileForeign s c.sgn t r.vif) = false →
          ∀ e, (e.sgn ≠ c.sgn ∨ e.idx ∉ blockCores b) → t.core e = s.core e)
        ∧ ∀ tile ∈ blockTiles b, tileForeign s c.sgn tile r.vif = true → (∀ e ∈ tileCores c.sgn tile, (t.core e).ibufPins = [])
          ∧ ∀ k ∈ t.slots, k.sgn = c.sgn → k.tile = tile →
            k.vif = r.vif ∧ k.pins = [] ∧ (k.len = 0 ∨ (k.lid = r.lid ∧ k.ovl = rule.ovl ∧ k.loading = true)))
    ∧ (∀ (c : CoreId) (s : State) (r : Reaction) (f : Vif) (l : Launch) (rule : Rule), coreFree s c = true → chooseWork s c = some (.start r) →
      s.vif r.vif = some f → s.launch r.vif r.lid = some l → ruleOf s r = some rule →
      ((blockTiles (blockAt r c.idx)).all fun t => tileOpen s c.sgn t r.vif) = false
        ∨ ((blockCores (blockAt r c.idx)).all fun i => poolOpen s ⟨c.sgn, i⟩ r.vif) = false → exec (.reactionPickup c) s = .next s)
    ∧ (∀ (c : CoreId) (s : State) (e : Evicted) (r : Reaction) (f : Vif) (l : Launch) (rule : Rule), coreFree s c = true → chooseWork s c = some (.back e) →
      s.vif e.vif = some f → s.reaction c.sgn e.x = some r → s.launch e.vif r.lid = some l → ruleOf s r = some rule → let tile := tileIndex c.idx
      slotHolding s c.sgn tile e.vif r.lid rule.ovl = none → weirOpen s e.vif 1 = true → tileForeign s c.sgn tile e.vif = false →
      ∀ n, slotToLoad s c.sgn tile = some n → Answers (.reactionPickup c) s fun t => { t with slots := s.slots, vifs := s.vifs } = s
        ∧ ∃ k, slotAt t c.sgn tile n = some k ∧ k.vif = e.vif ∧ k.lid = r.lid ∧ k.ovl = rule.ovl ∧ k.loading = true ∧ k.pins = [])
    ∧ (∀ (g n tile : Nat) (s : State) (k : Slot) (f : Vif) (l : Launch) (bs : List Byte), slotAt s g tile n = some k → k.loading = true →
      s.vif k.vif = some f → s.launch k.vif k.lid = some l → l.state ≠ .ended → let o := l.image.overlays.getD k.ovl (0, 0)
      let a := slotAddr g tile n 0
      (withinLeases f l 2 (l.image.va + o.1) o.2 false = false → Answers (.overlayLoadComplete g tile n) s fun t => t.launch k.vif k.lid
          = some { l with state := .ended, status := .leaseFault, faultAddr := l.image.va + o.1, toDrain := [] })
        ∧ (withinLeases f l 2 (l.image.va + o.1) o.2 false = true → vifRead s f 2 (l.image.va + o.1) o.2 = some bs → let code := relocated l.image o bs
          code.length ≤ 2 ^ 16 → Answers (.overlayLoadComplete g tile n) s fun t => t.mem.read a code.length = code
            ∧ SameOutside s.mem t.mem a (2 ^ 16) ∧ slotAt t g tile n = some { k with loading := false }
            ∧ (∀ c r, c.sgn = g → (s.core c).hold = .overlay → (s.core c).rx.bind (s.reaction g) = some r → r.vif = k.vif →
              r.lid = k.lid → (ruleOf s r).map (·.ovl) = some k.ovl → ((s.unit g).reactions.map (·.x)).Nodup →
              let loading := crewLoading t g (blockAt r r.first) k.vif k.lid k.ovl
              (loading = true → t.core c = s.core c ∧ t.reaction g r.x = some r)
                ∧ (loading = false → t.core c = { s.core c with hold := .none }
                  ∧ t.reaction g r.x = some (if r.state = .matched ∨ r.state = .suspended then { r with state := .running } else r)))
            ∧ (∀ c, (s.core c).hold ≠ .overlay → t.core c = s.core c)
            ∧ { t with mem := s.mem, slots := s.slots, cores := s.cores, units := s.units } = s))
    ∧ ∀ (g tile v : Nat) (s : State) (f : Vif), s.vif v = some f → tile < 64 → sgWorks s g = true → bit (f.p.mask.getD g 0) tile = true →
      (tileForeign s g tile v = true → tileDrained s g tile = false → exec (.tileVifSwitch g tile v) s = .next s)
        ∧ (tileForeign s g tile v = false → exec (.tileVifSwitch g tile v) s = .next s)
        ∧ (tileForeign s g tile v = true → tileDrained s g tile = true → Answers (.tileVifSwitch g tile v) s fun t =>
          (∀ c ∈ tileCores g tile, t.core c = { s.core c with ibufPins := [] })
            ∧ (∀ k ∈ t.slots, k.sgn = g → k.tile = tile → k.vif = v ∧ k.len = 0 ∧ k.pins = [])
            ∧ (∀ k, ¬ (k.sgn = g ∧ k.tile = tile) → (k ∈ t.slots ↔ k ∈ s.slots))
            ∧ (∃ n, 1 ≤ n ∧ t.vifs = (charge s v 0 n).vifs)
            ∧ (∀ c, c ∉ tileCores g tile → t.core c = s.core c) ∧ { t with slots := s.slots, cores := s.cores, vifs := s.vifs } = s)

/-- R254, R289, R309, R329, R337, R345 and Table 14.4, with log 12 and log 46 (DEDUCED) for when each comes: an interrupt waits for the next instruction boundary of its core. What
the core waits in ends, to be executed again whole, but for a load of its overlay and a shoot-down; a `pause` or `wfe` is over;
at machine level the interrupt is held, and a `wfe` is over. PREEMPT comes for work that only this core can run, SWITCH where
its CORE weir is exhausted or its tile is wanted for another VIF's work, and WIND where the launch winds down. WAKE lets a parked
core go on with an empty TLB. -/
def Obligations.InterruptResults : Prop :=
  ∀ (c : CoreId) (s : State), let k := s.core c
    let others := fun (t : State) => ∀ e, e ≠ c → t.core e = s.core e
    let ended := fun (u : Core) => { u with hold := .none, ctx := { k.ctx with pc := k.ctx.pc + 4 } }
    let comes := fun (i : Instr) (code : Nat) => k.irqs.contains code = false →
      let u : Core := { k with irqs := k.irqs ++ [code] }
      let gives := fun (u : Core) => Answers i s fun t => t.core c = u ∧ others t ∧ { t with cores := s.cores } = s
      (k.ctx.level = .machine → gives (if k.hold = .wfe then ended u else u))
        ∧ (k.ctx.level ≠ .machine → (k.hold ∈ [Hold.none, .overlay, .sdown] → gives u)
          ∧ (k.hold ∈ [Hold.pause, .wfe] → gives (ended u))
          ∧ (k.hold ∈ [Hold.miss, .matrix, .barrier, .xsel, .wmem] → gives { u with hold := .none })
          ∧ (k.hold = .reply → exec i s = .next (takeBack (s.setCore c { u with hold := .none }) c))
          ∧ ∀ r, k.hold = .ending → k.rx.bind (s.reaction c.sgn) = some r → Answers i s fun t =>
            t.core c = { u with hold := .none } ∧ others t ∧ { t with cores := s.cores, units := s.units } = s
              ∧ t.reaction c.sgn r.x = some (if r.state = .running then { r with committed := r.committed.filter (· != c.idx) } else r))
    (runsReaction s c = true → ownWork s c = true → comes (.interruptPreempt c) 1)
      ∧ (∀ r, runsReaction s c = true → k.rx.bind (s.reaction c.sgn) = some r → (heldForOther s c r = true ∨ tileWanted s c r = true) →
        comes (.interruptSwitch c) 2)
      ∧ (∀ r l, k.rx.bind (s.reaction c.sgn) = some r → s.launch r.vif r.lid = some l →
        (l.state = .winding → r.aborting = false → comes (.interruptWind c) 3)
          ∧ (l.state ≠ .winding ∨ r.aborting = true → exec (.interruptWind c) s = .next s))
      ∧ (k.run = .parked → Answers (.interruptWake c) s fun t => others t ∧ { t with cores := s.cores } = s
        ∧ t.core c = { k with run := .running, tlb := [], gens := s.vifs.map fun f => (f.p.id, f.gen) })

/-- R330 to R335, Table 14.5: an eviction writes the pool behind the register block of a context record, and the core is free
for other work; merges that the tree holds count as completed. A restore brings pool and registers back, the reaction runs again
once none of its members is pre-empted, and what its spill ring holds is delivered. Where the record is lost, so is the reaction,
and the record's STATE is 2. What a record's STATE holds beside its low bits is log 9 (DEDUCED), how SPILL lays out the entries of the
ring log 53 (DESIGN CHOICE), and how the block lays out the streams and the registers that come back with them log 14 (DESIGN CHOICE);
that a stream comes back with what it has read ahead is log 84 (DEDUCED). -/
def Obligations.EvictionResults : Prop :=
  (∀ (c : CoreId) (s : State) (sound : Bool) (t0 : Ctx) (r : Reaction) (f : Vif) (n : Nat), let k := s.core c
      k.saved = some t0 → k.rx.bind (s.reaction c.sgn) = some r → s.vif r.vif = some f → f.p.saveBase < 2 ^ 56 → c.sgn < 20 → c.idx < 256 →
      evictable s c r = true → freeRecordSlot k r.vif = some n → poolQuietBut s c (·.mergeOf c r.x) = true → mergesHeld s c r.x = true →
      let a := pinnedAddr r.vif (f.p.saveBase + saveOffset c n)
      Answers (.eviction c sound) s fun t => (t.core c).rx = none ∧ (t.core c).hold = .none ∧ (t.core c).run = .idle ∧ (t.core c).saved = none
        ∧ (sound = true → (t.core c).evicted = k.evicted ++ [⟨r.vif, n, r.x, k.mcause == BitVec.ofNat 64 (2 ^ 63 + 1),
              (mergeArea t0 k.ctx).streams, (mergeArea t0 k.ctx).below⟩]
          ∧ t.mem.read (a + 8192) 98304 = s.mem.read (poolAddr c 0) 98304
          ∧ (∀ i, 1 ≤ i → i < 32 → t.mem.readNat (a + 64 + 8 * i) 8 = ((mergeArea t0 k.ctx).x.getD i 0).toNat)
          ∧ t.mem.readNat a 8 = recordState c r 1 % 2 ^ 64
          ∧ ((∀ g ∈ k.evicted, g.x ≠ r.x) → let bs := (k.ring.filter (·.x == r.x)).flatMap fun (g : RingEntry) => entryBytes g.item
            bs.length ≤ 24576 → t.mem.read (a + 106496) bs.length = bs ∧ ∀ o, 106496 + bs.length ≤ o → o < 131072 → t.mem.byteAt (a + o) = 0)
          ∧ ((∀ g ∈ k.evicted, g.x ≠ r.x) → ∀ b, b < a ∨ a + 131072 ≤ b → t.mem.byteAt b = s.mem.byteAt b)
          ∧ t.ops = s.ops.map (fun (o : EngineOp) => if o.mergeOf c r.x then { o with setAside := true } else o)
          ∧ t.reaction c.sgn r.x = some r ∧ t.vifs = (charge s r.vif 1 106496).vifs ∧ ∀ e, e ≠ c → t.core e = s.core e)
        ∧ (sound = false → (t.reaction c.sgn r.x = none ∨ ∃ q, t.reaction c.sgn r.x = some q ∧ q.aborting = true)
          ∧ (NoRing s c.sgn r.x → (∀ e ∈ s.cores, e.1.sgn = c.sgn → ∀ g ∈ e.2.evicted, g.x ≠ r.x) → t.mem.readNat a 1 = 2)))
    ∧ ∀ (c : CoreId) (s : State) (e : Evicted) (f : Vif) (l : Launch) (r : Reaction) (rule : Rule), coreFree s c = true →
      chooseWork s c = some (.back e) → s.vif e.vif = some f → s.reaction c.sgn e.x = some r → s.launch r.vif r.lid = some l →
      ruleOf s r = some rule → ((slotHolding s c.sgn (tileIndex c.idx) r.vif r.lid rule.ovl).map (!·.loading)).getD false = true →
      tileForeign s c.sgn (tileIndex c.idx) e.vif = false → poolOpen s c e.vif = true → e.vif < 256 → f.p.saveBase < 2 ^ 56 →
      let a := pinnedAddr e.vif (f.p.saveBase + saveOffset c e.slot)
      let b := s.mem.read a 8192
      let u := blockTraps b (blockCtx s.seq b (s.core c).ctx)
      let held := (((s.core c).evicted.find? (·.x == r.x)).map (·.streams)).getD (Vector.replicate 8 StreamReg.closed)
      let lost := fun (sound : Bool) => Answers (.restore c sound) s fun t => (∀ g ∈ (t.core c).evicted, g.x ≠ r.x)
          ∧ (t.reaction c.sgn r.x = none ∨ ∃ q, t.reaction c.sgn r.x = some q ∧ q.aborting = true)
          ∧ (NoRing s c.sgn r.x → l.state = .running → e.slot < 2 → (∀ d ∈ s.cores, d.1.sgn = c.sgn → d.1 ≠ c → ∀ g ∈ d.2.evicted, g.x ≠ r.x) →
            t.mem.readNat a 1 = 2)
      (s.mem.poisonIn a 131072 = [] → ∃ v, exec (.restore c true) s = .next (deliverRing v c r.x) ∧ let k := v.core c
            k.run = .running ∧ k.hold = .none ∧ k.rx = some r.x ∧ k.owner = some e.vif ∧ (∀ g ∈ k.evicted, g.x ≠ r.x)
              ∧ k.ctx.x = u.x ∧ k.ctx.shadow = u.shadow ∧ k.ctx.k = u.k ∧ k.ctx.pc = u.pc ∧ k.ctx.level = u.level ∧ k.ctx.partition = u.partition
              ∧ k.ctx.round = u.round ∧ k.ctx.fflags = u.fflags ∧ k.ctx.inev = u.inev ∧ k.ctx.streams = reloadStreams held u.streams ∧ k.ctx.tpc = u.tpc
              ∧ k.ctx.phase = u.phase ∧ k.ctx.crewcoord = u.crewcoord ∧ k.ctx.tcause = u.tcause ∧ k.ctx.tstatus = u.tstatus
              ∧ v.mem.read (poolAddr c 0) 98304 = s.mem.read (a + 8192) 98304 ∧ v.mem.readNat a 1 = 0
              ∧ (r.state = .preempted → anyPreempted v c.sgn r.x = false → v.reaction c.sgn r.x = some { r with state := .running })
              ∧ v.vifs = (charge s e.vif 1 106496).vifs ∧ ∀ d, d ≠ c → v.core d = s.core d)
        ∧ lost false ∧ (s.mem.poisonIn a 131072 ≠ [] → lost true)

/-! ## The module: its start, its interfaces, its failures -/

/-- R20, R23, R317, R318, R320, R328, R346, Table 14.13: power leads to COLD and SAFE, firmware that passes to VERIFY, and
eighteen or more SGs that pass BRING-UP to READY, with every core idle but the TSCs, which run the resident handler; with fewer
the module is in SAFE and Primin keeps what passed, until a later success or a reset (log 56, DESIGN CHOICE). A reset ends every
interface, lease and launch, and flash stays; a power loss may waste one signature index. A core that a double trap stopped is
restored as BRING-UP leaves it. That the pinned areas read zero after a reset, like all memory, is the model's choice (log 3,
log 48). -/
def Obligations.StartResults : Prop :=
  ∀ (s : State), let cold := fun (t : State) => t.vifs = [] ∧ t.launches = [] ∧ t.cores = [] ∧ t.units = [] ∧ t.enabled = 0 ∧ t.mem = Memory.empty
        ∧ t.primin.minVersion = s.primin.minVersion ∧ t.primin.measured = [] ∧ t.primin.failed = none ∧ t.primin.reports = [] ∧ t.sent = s.sent
    let booted := fun (c : CoreId) (t : State) => t.core c = bootCore c ∧ t.mem.read (handlerAddr c 0) 4096 = residentBytes c
    (s.stage = .off → Answers .powerOn s fun t => t.stage = .cold ∧ cold t ∧ t.primin.hssIndex = s.primin.hssIndex)
      ∧ (s.stage = .cold → Answers .powerOn s fun t => t = { s with stage := .safe })
      ∧ (∀ images : List FirmwareImage, s.stage = .safe → Answers (.verify images) s fun t => { t with stage := s.stage, primin := s.primin } = s
        ∧ t.primin = { s.primin with measured := (images.filter fun i => i.signed && s.primin.minVersion ≤ i.version).map (·.digest) }
        ∧ ((∀ i ∈ images, i.signed = true ∧ s.primin.minVersion ≤ i.version) → t.stage = .verify)
        ∧ ((∃ i ∈ images, i.signed = false ∨ i.version < s.primin.minVersion) → t.stage = .safe))
      ∧ (∀ passed : BitVec 20, s.stage = .verify → Answers (.bringUp passed) s fun t => t = { s with stage := .bringUp })
      ∧ (∀ passed : BitVec 20, s.stage = .bringUp → Answers (.bringUp passed) s fun t => t.enabled = passed ∧ t.vifs = s.vifs ∧ t.launches = s.launches
        ∧ (countEnabled passed < 18 → t.stage = .safe ∧ t.cores = s.cores ∧ t.primin = { s.primin with failed := some passed })
        ∧ (18 ≤ countEnabled passed → t.stage = .ready ∧ t.primin = { s.primin with failed := none, reports := [] } ∧ ∀ c, c.sgn < 20 → c.idx ≤ 256 → bit passed.toNat c.sgn = true → booted c t))
      ∧ (s.stage ≠ .off → Answers .priminReset s fun t => t.stage = .cold ∧ cold t ∧ t.primin.hssIndex = s.primin.hssIndex)
      ∧ (Answers .powerLoss s fun t => t.stage = .off ∧ cold t ∧ s.primin.hssIndex ≤ t.primin.hssIndex ∧ t.primin.hssIndex ≤ s.primin.hssIndex + 1)
      ∧ ∀ c : CoreId, (s.core c).run = .outOfUse → Answers (.coreRestore c) s fun t =>
        t.core c = { bootCore c with evicted := (s.core c).evicted, ring := (s.core c).ring, ibufPins := (s.core c).ibufPins }
        ∧ (∀ e, e ≠ c → t.core e = s.core e) ∧ t.primin = { s.primin with reports := s.primin.reports.filter (· != c) }
        ∧ { t with cores := s.cores, primin := s.primin } = s

/-- R290, R294, R332, R341: a new interface has every weir at its budget and nothing granted, and its pinned areas read zero
but for the capacity in its dead-letter ring; one whose launches have ended and whose reactions are gone can be destroyed.
R294, R311, R313: a period refills the weirs of its VIF, each to no more than its budget, and an unlimited one stays. A
request of another device is performed under the VIF's own pages and leases, is charged to its weirs for the payload that it and
what it gives back carry, and what it reads goes back; one outside them is charged for what it brought, and changes nothing else. That all of a new interface's pinned areas read zero, and not its dead-letter ring's header alone (R341), is log 3 and log 15
(DESIGN CHOICE). -/
def Obligations.InterfaceResults : Prop :=
  ((∀ (p : VifParams) (s : State), (s.stage = .ready ∨ s.stage = .degraded) → idFree s p.id = true → paramsOk p = true →
      Answers (.vifCreate p) s fun t => (∃ f, t.vif p.id = some f ∧ f.p = p ∧ f.rem = p.budgets.map (fun b : Nat => (b : Int)) ∧ f.leases = [] ∧ f.pages = []
          ∧ f.gen = 0 ∧ f.shards = [(0, ⟨[], []⟩)] ∧ f.injects = [] ∧ f.buffers = [] ∧ f.updates = [])
        ∧ (∀ w, w ≠ p.id → t.vif w = s.vif w) ∧ (∀ n, t.launch p.id n = none)
        ∧ t.mem.readNat (pinnedAddr p.id (p.saveBase + ringOffset + 24)) 4 = p.ringCap
        ∧ (∀ va, va < 2 ^ 56 → (va < p.saveBase + ringOffset + 24 ∨ p.saveBase + ringOffset + 28 ≤ va) → t.mem.byteAt (pinnedAddr p.id va) = 0)
        ∧ (∀ g va, g < 32 → va < 2 ^ 56 → t.mem.byteAt (windowAddr p.id g va) = 0)
        ∧ (∀ c, ∀ e ∈ (t.core c).tlb, e.vif ≠ p.id) ∧ (∀ c, (t.core c).ctx = (s.core c).ctx ∧ (t.core c).run = (s.core c).run)
        ∧ { t with vifs := s.vifs, launches := s.launches, cores := s.cores, mem := s.mem } = s)
    ∧ ∀ (v : Nat) (s : State), (∀ l ∈ s.launches, l.vif = v → l.state = .ended) → (∀ u ∈ s.units, ∀ r ∈ u.reactions, r.vif ≠ v) →
      Answers (.vifDestroy v) s fun t => t.vif v = none ∧ (∀ w, w ≠ v → t.vif w = s.vif w) ∧ (∀ n, t.launch v n = none)
        ∧ (∀ w n, w ≠ v → t.launch w n = s.launch w n) ∧ { t with vifs := s.vifs, launches := s.launches } = s)
    ∧ ((∀ (v : Nat) (s : State) (f : Vif), s.vif v = some f → Answers (.weirRefill v) s fun t => { t with vifs := s.vifs } = s
      ∧ (∀ w, w ≠ v → t.vif w = s.vif w) ∧ ∃ g, t.vif v = some g ∧ { g with rem := f.rem } = f ∧ g.rem.length = f.rem.length
        ∧ ∀ w, w < f.rem.length → let b := f.p.budgets.getD w Config.unlimited
          g.rem.getD w 0 = if b = 2 ^ 40 then f.rem.getD w 0 else min (f.rem.getD w 0 + b) b)
    ∧ ∀ (v space va : Nat) (q : RemoteAccess) (s : State) (f : Vif) (ps : List Mapped), endpoint s v = some f → (space = 2 ∨ space = 3) →
      s.vif (512 + v) = none →
      let n := remoteLength q
      let granted := (f.leases.filter fun e => e.resident && e.space == space).map fun e => (e.va, e.len)
      let at' := fun (p : Mapped) => if space = 2 then hbmAddr p.pa else captAddr p.pa
      let bytes := fun (m : Memory) => ps.flatMap fun p => m.read (at' p) p.len
      covered granted (granted.length + 1) va n = true → (isAtomic q = true → va % 8 = 0 ∧ ps.any (fun p => !(s.mem.poisonIn (at' p) p.len).isEmpty) = false) →
      linkDown s .fabric = false → translate (vifPage f space) (n + 1) va n = some ps → (translatedLocs ⟨0, 0⟩ space ps).any (locDown s) = false →
      (space = 2 → weirOpen s v 1 = true) → ps.Pairwise (fun a b => a.pa + a.len ≤ b.pa ∨ b.pa + b.len ≤ a.pa) →
      Answers (.remoteRequest v space va q) s fun t =>
        { t with mem := s.mem, vifs := s.vifs, sent := s.sent } = s
          ∧ (let carried := match q with
              | .read n => n
              | .write d => d.length
              | .cas _ _ => 24
              | _ => 16
            t.vifs = (if space = 2 then charge (charge s v 3 carried) v 1 n else charge s v 3 carried).vifs)
          ∧ (∀ x, (∀ p ∈ ps, x < at' p ∨ at' p + p.len ≤ x) → t.mem.byteAt x = s.mem.byteAt x)
          ∧ match q with
            | .read _ => t.mem = s.mem ∧ t.sent = s.sent ++ [(512 + v, bytes s.mem)]
            | .write d => t.sent = s.sent ∧ bytes t.mem = d
            | q => t.sent = s.sent ++ [(512 + v, bytes s.mem)]
              ∧ natOfBytes (bytes t.mem) = match remoteResult (natOfBytes (bytes s.mem)) q with
                | some w => w % 2 ^ 64
                | none => natOfBytes (bytes s.mem))
    ∧ ∀ (v space va : Nat) (q : RemoteAccess) (s : State) (f : Vif), endpoint s v = some f → linkDown s .fabric = false →
      let granted := (f.leases.filter fun e => e.resident && e.space == space).map fun e => (e.va, e.len)
      ((space ≠ 2 ∧ space ≠ 3) ∨ covered granted (granted.length + 1) va (remoteLength q) = false ∨ (isAtomic q = true ∧ va % 8 ≠ 0)) →
      Answers (.remoteRequest v space va q) s fun t => t = charge s v 3 (match q with
        | .read _ => 0
        | .write d => d.length
        | .cas _ _ => 16
        | _ => 8)

/-- R19, R23, R181, R343, R344: from SAFE on the clock steps by 47 MHz between 470 and 940, with an EVENT to every interface.
A tile that an uncorrectable error destroys is gone, and its launch is bound for ABORTED; a dead link stays dead; a failed
router ends the launches with cores in its partition with ROUTER_RESET, but not one that drains (log 61), stops their reactions
on other cores through interrupt WIND, which takes effect in this very turn where R344 has each at its next boundary (log 12, DEDUCED),
and resets its own cores, and its self-test brings the partition back or takes it out. No
rule states the value of a clock EVENT, the address that COMPLETE carries and the words of the loss record (log 44). What a reset
of a partition and its return leave is log 48 (DEDUCED). -/
def Obligations.FailureResults : Prop :=
  ∀ (s : State), let told := fun (t : State) => ∃ ms, t.sent = s.sent ++ ms ∧ ms.map (·.1) = s.vifs.map (·.p.id)
    (s.stage ≠ .off → s.stage ≠ .cold → (470 < s.clock → Answers .clockStepDown s fun t => t.clock = max 470 (s.clock - 47) ∧ told t
          ∧ { t with clock := s.clock, sent := s.sent } = s)
        ∧ (s.clock < 940 → Answers .clockStepUp s fun t => t.clock = min 940 (s.clock + 47) ∧ told t ∧ { t with clock := s.clock, sent := s.sent } = s))
      ∧ (∀ (g n : Nat) (k : Tile) (l : Launch), (s.unit g).tiles[n]? = some k → s.launch k.vif k.lid = some l →
        (l.state = .running ∨ l.state = .winding) → ((s.unit g).tiles.map (·.id)).Nodup → Answers (.escrowLost g n) s fun t =>
          (∃ m, t.launch k.vif k.lid = some m ∧ m.status = .aborted ∧ (m.state = .winding ∨ m.state = .ended) ∧ m.commits = l.commits)
            ∧ (∀ j ∈ (t.unit g).tiles, j.id ≠ k.id)
            ∧ (reactionsOf s k.vif k.lid = [] → (∀ u ∈ s.units, ∀ r ∈ u.reactions, r.lid ≠ noLid) → ∃ (a b : Word) (c : CoreId), t.mem = (deadLetter s k.vif a b 16 c).mem
              ∧ ∃ m, t.launch k.vif k.lid = some m ∧ m.state = .ended))
      ∧ (∀ l : Link, Answers (.linkFailure l) s fun t => l ∈ t.dead ∧ (∀ m, m ∈ t.dead ↔ m = l ∨ m ∈ s.dead) ∧ { t with dead := s.dead } = s)
      ∧ ∀ p : Partition, let ends := fun (t : State) =>
          (∀ l, s.launch l.vif l.lid = some l → l.state ≠ .ended → l.state ≠ .draining → launchIn s p l = true →
              ∃ m, t.launch l.vif l.lid = some m ∧ m.state = .ended ∧ m.status = .routerReset)
            ∧ ((s.launches.map fun l => (l.vif, l.lid)).Nodup → ∀ l ∈ s.launches, l.state = .draining → t.launch l.vif l.lid = some l)
        ((s.stage = .ready ∨ s.stage = .degraded) → s.testing.contains p = false → (partitionSgs p).any (sgEnabled s) = true →
        Answers (.routerFailure p) s fun t => t.testing = s.testing ++ [p]
          ∧ ends t
          ∧ (∀ l c r, s.launch l.vif l.lid = some l → l.state ≠ .ended → l.state ≠ .draining → launchIn s p l = true → inPartition p c.sgn = false →
            (s.core c).rx.bind (s.reaction c.sgn) = some r → r.vif = l.vif → r.lid = l.lid → (s.core c).run = .running →
            (s.core c).ctx.level ≠ .machine → (t.core c).rx = none ∧ (t.core c).ctx.level = .machine ∧ (t.core c).ctx.pc = 0
              ∧ (t.core c).mcause = BitVec.ofNat 64 (2 ^ 63 + 3))
          ∧ (∀ c, inPartition p c.sgn = true → (t.core c).run = .idle ∧ (t.core c).rx = none ∧ (t.core c).ctx = Ctx.init)
          ∧ (∀ f ∈ t.stores, inPartition p f.core.sgn = false) ∧ (∀ o ∈ t.ops, inPartition p o.core.sgn = false)
          ∧ (∀ f ∈ t.xfers, inPartition p f.sender.sgn = false)
          ∧ (∀ u ∈ t.units, inPartition p u.sgn = true → u.tiles = [] ∧ u.reactions = [] ∧ u.launches = [])
          ∧ (∀ g x r, inPartition p g = true → s.reaction g x = some r → t.reaction g x = none)
          ∧ t.stage = s.stage ∧ t.enabled = s.enabled)
        ∧ (s.testing.contains p = true →
        (Answers (.partitionSelftestDone p true) s fun t => t.testing = s.testing.filter (· != p) ∧ t.stage = s.stage ∧ t.launches = s.launches
            ∧ ∀ c, c.sgn < 20 → c.idx ≤ 256 → inPartition p c.sgn = true → sgEnabled s c.sgn = true →
              t.core c = bootCore c ∧ t.mem.read (handlerAddr c 0) 4096 = residentBytes c)
          ∧ Answers (.partitionSelftestDone p false) s fun t => t.testing = s.testing.filter (· != p) ∧ t.stage = .degraded
            ∧ (∀ g, g < 20 → (bit t.enabled.toNat g = true ↔ bit s.enabled.toNat g = true ∧ inPartition p g = false)) ∧ partitionLink p ∈ t.dead
            ∧ ends t ∧ ∃ first, ∃ ms, t.sent = s.sent ++ first ++ ms ∧ ms.map (·.1) = s.vifs.map (·.p.id))
end

