-- ==== Sys2Proof/Laws/Bits.lean ====
section
/-! SUPPORT. Bit fields and byte order: what a field reads as after it, or another, is set, and numbers as bytes and back. -/

namespace Sys2Proof.Machine

theorem bitsOf_lt (n lo len : Nat) : bitsOf n lo len < 2 ^ len := Nat.mod_lt _ (Nat.two_pow_pos _)

@[simp] theorem length_bytesOfNat (n v : Nat) : (bytesOfNat n v).length = n := by
  induction n generalizing v with
  | zero => rfl
  | succ n ih => simp [bytesOfNat, ih]

theorem natOfBytes_lt (l : List Byte) : natOfBytes l < 256 ^ l.length := by
  induction l with
  | nil => simp [natOfBytes]
  | cons b t ih =>
    have := b.isLt
    simp only [natOfBytes, List.length_cons, Nat.pow_succ]
    omega

/-- A number of `n` bytes reads back as itself, short of what they do not hold (R2). -/
theorem natOfBytes_bytesOfNat (n v : Nat) : natOfBytes (bytesOfNat n v) = v % 256 ^ n := by
  induction n generalizing v with
  | zero => simp [bytesOfNat, natOfBytes, Nat.mod_one]
  | succ n ih =>
    have h : v % 256 ^ (n + 1) = v % 256 + 256 * (v / 256 % 256 ^ n) := by
      rw [Nat.pow_succ, Nat.mul_comm, Nat.mod_mul]
    rw [bytesOfNat, natOfBytes, ih, BitVec.toNat_ofNat, h]

theorem bytesOfNat_natOfBytes (l : List Byte) : bytesOfNat l.length (natOfBytes l) = l := by
  induction l with
  | nil => rfl
  | cons b t ih =>
    have hb := b.isLt
    have h1 : (b.toNat + 256 * natOfBytes t) / 256 = natOfBytes t := by omega
    have h2 : BitVec.ofNat 8 (b.toNat + 256 * natOfBytes t) = b := by
      apply BitVec.eq_of_toNat_eq
      rw [BitVec.toNat_ofNat]
      omega
    simp only [List.length_cons, natOfBytes, bytesOfNat, h1, h2, ih]

/-- A field reads as it was set. -/
theorem bitsOf_setBits (n lo len v : Nat) : bitsOf (setBits n lo len v) lo len = v % 2 ^ len := by
  unfold bitsOf setBits
  have hl : n % 2 ^ lo < 2 ^ lo := Nat.mod_lt _ (Nat.two_pow_pos _)
  have e : n / 2 ^ (lo + len) * 2 ^ (lo + len) + v % 2 ^ len * 2 ^ lo + n % 2 ^ lo
      = n % 2 ^ lo + 2 ^ lo * (v % 2 ^ len + 2 ^ len * (n / 2 ^ (lo + len))) := by
    generalize n / 2 ^ (lo + len) = q
    rw [Nat.pow_add, Nat.mul_add, Nat.mul_comm q, Nat.mul_assoc, Nat.mul_comm (v % 2 ^ len)]
    omega
  rw [e, Nat.add_mul_div_left _ _ (Nat.two_pow_pos _), Nat.div_eq_of_lt hl, Nat.zero_add, Nat.add_mul_mod_self_left, Nat.mod_mod]

/-- The fields below one that is set stay. -/
theorem bitsOf_setBits_below (n lo len v l k : Nat) (h : l + k ≤ lo) : bitsOf (setBits n lo len v) l k = bitsOf n l k := by
  unfold bitsOf setBits
  have low : ∀ m, m % 2 ^ lo = n % 2 ^ lo → m / 2 ^ l % 2 ^ k = n / 2 ^ l % 2 ^ k := by
    intro m hm
    have cut : ∀ q : Nat, q / 2 ^ l % 2 ^ k = q % 2 ^ lo / 2 ^ l % 2 ^ k := by
      intro q
      rw [← Nat.mod_mul_right_div_self (q) (2 ^ l) (2 ^ k), ← Nat.mod_mul_right_div_self (q % 2 ^ lo) (2 ^ l) (2 ^ k), ← Nat.pow_add,
        Nat.mod_mod_of_dvd _ (Nat.pow_dvd_pow 2 h)]
    rw [cut m, cut n, hm]
  apply low
  have : n / 2 ^ (lo + len) * 2 ^ (lo + len) + v % 2 ^ len * 2 ^ lo + n % 2 ^ lo
      = n % 2 ^ lo + 2 ^ lo * (n / 2 ^ (lo + len) * 2 ^ len + v % 2 ^ len) := by
    rw [Nat.mul_add, Nat.pow_add, Nat.mul_comm (v % 2 ^ len), ← Nat.mul_assoc (2 ^ lo), Nat.mul_comm (2 ^ lo) (n / _), Nat.mul_assoc]
    omega
  rw [this, Nat.add_mul_mod_self_left, Nat.mod_mod]

/-- The fields above one that is set stay. -/
theorem bitsOf_setBits_above (n lo len v l k : Nat) (h : lo + len ≤ l) : bitsOf (setBits n lo len v) l k = bitsOf n l k := by
  unfold bitsOf setBits
  obtain ⟨d, rfl⟩ := Nat.exists_eq_add_of_le h
  have hlow : v % 2 ^ len * 2 ^ lo + n % 2 ^ lo < 2 ^ (lo + len) := by
    have h1 : v % 2 ^ len < 2 ^ len := Nat.mod_lt _ (Nat.two_pow_pos _)
    have h2 : n % 2 ^ lo < 2 ^ lo := Nat.mod_lt _ (Nat.two_pow_pos _)
    have h3 : (v % 2 ^ len + 1) * 2 ^ lo ≤ 2 ^ len * 2 ^ lo := Nat.mul_le_mul_right _ h1
    rw [Nat.add_mul, Nat.one_mul] at h3
    rw [Nat.pow_add, Nat.mul_comm (2 ^ lo)]
    omega
  have e : (n / 2 ^ (lo + len) * 2 ^ (lo + len) + v % 2 ^ len * 2 ^ lo + n % 2 ^ lo) / 2 ^ (lo + len) = n / 2 ^ (lo + len) := by
    rw [Nat.add_assoc, Nat.mul_comm, Nat.mul_add_div (Nat.two_pow_pos _), Nat.div_eq_of_lt hlow, Nat.add_zero]
  rw [Nat.pow_add 2 (lo + len) d, ← Nat.div_div_eq_div_mul, ← Nat.div_div_eq_div_mul, e]

end Sys2Proof.Machine
end

