-- ==== Sys2Proof/Laws/State.lean ====
section
/-! SUPPORT. What each named update of the state leaves of every field, what a core, a context and a register read as
after an update, and the tables as lists. -/

namespace Sys2Proof.Machine

/-! ## Lists used as tables -/

/-- An updated table finds the new entry wherever the search accepts it and rejects whatever the update rejects. -/
theorem find_upsert {α : Type} (p q : α → Bool) (a : α) (l : List α) (hp : q a = true)
    (hq : ∀ b ∈ l, p b = false → q b = false) : (upsert p a l).find? q = some a := by
  induction l with
  | nil => simp [upsert, hp]
  | cons b t ih =>
    unfold upsert
    split
    · simp [hp]
    · rename_i h
      rw [List.find?_cons, hq b (by simp) (by simpa using h)]
      exact ih fun c hc => hq c (by simp [hc])

/-- An updated table finds what it found before, where the search rejects both the new entry and those it replaces. -/
theorem find_upsert_other {α : Type} (p q : α → Bool) (a : α) (l : List α) (ha : q a = false)
    (hp : ∀ b ∈ l, p b = true → q b = false) : (upsert p a l).find? q = l.find? q := by
  induction l with
  | nil => simp [upsert, ha]
  | cons b t ih =>
    unfold upsert
    split
    · rename_i h
      simp [ha, hp b (by simp) h]
    · rw [List.find?_cons, List.find?_cons, ih fun c hc => hp c (by simp [hc])]

namespace State

/-! ## Fields -/

@[simp] theorem setCore_cur (s : State) (c : CoreId) (k : Core) : (s.setCore c k).cur = s.cur := rfl
@[simp] theorem setCore_tick (s : State) (c : CoreId) (k : Core) : (s.setCore c k).tick = s.tick := rfl
@[simp] theorem setCore_seq (s : State) (c : CoreId) (k : Core) : (s.setCore c k).seq = s.seq := rfl
@[simp] theorem setCore_timers (s : State) (c : CoreId) (k : Core) : (s.setCore c k).timers = s.timers := rfl
@[simp] theorem setCore_agenda (s : State) (c : CoreId) (k : Core) : (s.setCore c k).agenda = s.agenda := rfl
@[simp] theorem setCore_stage (s : State) (c : CoreId) (k : Core) : (s.setCore c k).stage = s.stage := rfl
@[simp] theorem setCore_enabled (s : State) (c : CoreId) (k : Core) : (s.setCore c k).enabled = s.enabled := rfl
@[simp] theorem setCore_clock (s : State) (c : CoreId) (k : Core) : (s.setCore c k).clock = s.clock := rfl
@[simp] theorem setCore_mem (s : State) (c : CoreId) (k : Core) : (s.setCore c k).mem = s.mem := rfl
@[simp] theorem setCore_slots (s : State) (c : CoreId) (k : Core) : (s.setCore c k).slots = s.slots := rfl
@[simp] theorem setCore_units (s : State) (c : CoreId) (k : Core) : (s.setCore c k).units = s.units := rfl
@[simp] theorem setCore_launches (s : State) (c : CoreId) (k : Core) : (s.setCore c k).launches = s.launches := rfl
@[simp] theorem setCore_vifs (s : State) (c : CoreId) (k : Core) : (s.setCore c k).vifs = s.vifs := rfl
@[simp] theorem setCore_flying (s : State) (c : CoreId) (k : Core) : (s.setCore c k).flying = s.flying := rfl
@[simp] theorem setCore_stores (s : State) (c : CoreId) (k : Core) : (s.setCore c k).stores = s.stores := rfl
@[simp] theorem setCore_ops (s : State) (c : CoreId) (k : Core) : (s.setCore c k).ops = s.ops := rfl
@[simp] theorem setCore_mails (s : State) (c : CoreId) (k : Core) : (s.setCore c k).mails = s.mails := rfl
@[simp] theorem setCore_xfers (s : State) (c : CoreId) (k : Core) : (s.setCore c k).xfers = s.xfers := rfl
@[simp] theorem setCore_fills (s : State) (c : CoreId) (k : Core) : (s.setCore c k).fills = s.fills := rfl
@[simp] theorem setCore_shoots (s : State) (c : CoreId) (k : Core) : (s.setCore c k).shoots = s.shoots := rfl
@[simp] theorem setCore_bars (s : State) (c : CoreId) (k : Core) : (s.setCore c k).bars = s.bars := rfl
@[simp] theorem setCore_released (s : State) (c : CoreId) (k : Core) : (s.setCore c k).released = s.released := rfl
@[simp] theorem setCore_dead (s : State) (c : CoreId) (k : Core) : (s.setCore c k).dead = s.dead := rfl
@[simp] theorem setCore_testing (s : State) (c : CoreId) (k : Core) : (s.setCore c k).testing = s.testing := rfl
@[simp] theorem setCore_sent (s : State) (c : CoreId) (k : Core) : (s.setCore c k).sent = s.sent := rfl
@[simp] theorem setCore_primin (s : State) (c : CoreId) (k : Core) : (s.setCore c k).primin = s.primin := rfl

@[simp] theorem setMe_cur (s : State) (k : Core) : (s.setMe k).cur = s.cur := rfl
@[simp] theorem setMe_tick (s : State) (k : Core) : (s.setMe k).tick = s.tick := rfl
@[simp] theorem setMe_seq (s : State) (k : Core) : (s.setMe k).seq = s.seq := rfl
@[simp] theorem setMe_timers (s : State) (k : Core) : (s.setMe k).timers = s.timers := rfl
@[simp] theorem setMe_agenda (s : State) (k : Core) : (s.setMe k).agenda = s.agenda := rfl
@[simp] theorem setMe_stage (s : State) (k : Core) : (s.setMe k).stage = s.stage := rfl
@[simp] theorem setMe_enabled (s : State) (k : Core) : (s.setMe k).enabled = s.enabled := rfl
@[simp] theorem setMe_clock (s : State) (k : Core) : (s.setMe k).clock = s.clock := rfl
@[simp] theorem setMe_mem (s : State) (k : Core) : (s.setMe k).mem = s.mem := rfl
@[simp] theorem setMe_slots (s : State) (k : Core) : (s.setMe k).slots = s.slots := rfl
@[simp] theorem setMe_units (s : State) (k : Core) : (s.setMe k).units = s.units := rfl
@[simp] theorem setMe_launches (s : State) (k : Core) : (s.setMe k).launches = s.launches := rfl
@[simp] theorem setMe_vifs (s : State) (k : Core) : (s.setMe k).vifs = s.vifs := rfl
@[simp] theorem setMe_flying (s : State) (k : Core) : (s.setMe k).flying = s.flying := rfl
@[simp] theorem setMe_stores (s : State) (k : Core) : (s.setMe k).stores = s.stores := rfl
@[simp] theorem setMe_ops (s : State) (k : Core) : (s.setMe k).ops = s.ops := rfl
@[simp] theorem setMe_mails (s : State) (k : Core) : (s.setMe k).mails = s.mails := rfl
@[simp] theorem setMe_xfers (s : State) (k : Core) : (s.setMe k).xfers = s.xfers := rfl
@[simp] theorem setMe_fills (s : State) (k : Core) : (s.setMe k).fills = s.fills := rfl
@[simp] theorem setMe_shoots (s : State) (k : Core) : (s.setMe k).shoots = s.shoots := rfl
@[simp] theorem setMe_bars (s : State) (k : Core) : (s.setMe k).bars = s.bars := rfl
@[simp] theorem setMe_released (s : State) (k : Core) : (s.setMe k).released = s.released := rfl
@[simp] theorem setMe_dead (s : State) (k : Core) : (s.setMe k).dead = s.dead := rfl
@[simp] theorem setMe_testing (s : State) (k : Core) : (s.setMe k).testing = s.testing := rfl
@[simp] theorem setMe_sent (s : State) (k : Core) : (s.setMe k).sent = s.sent := rfl
@[simp] theorem setMe_primin (s : State) (k : Core) : (s.setMe k).primin = s.primin := rfl

@[simp] theorem setCtx_cur (s : State) (c : Ctx) : (s.setCtx c).cur = s.cur := rfl
@[simp] theorem setCtx_tick (s : State) (c : Ctx) : (s.setCtx c).tick = s.tick := rfl
@[simp] theorem setCtx_seq (s : State) (c : Ctx) : (s.setCtx c).seq = s.seq := rfl
@[simp] theorem setCtx_timers (s : State) (c : Ctx) : (s.setCtx c).timers = s.timers := rfl
@[simp] theorem setCtx_agenda (s : State) (c : Ctx) : (s.setCtx c).agenda = s.agenda := rfl
@[simp] theorem setCtx_stage (s : State) (c : Ctx) : (s.setCtx c).stage = s.stage := rfl
@[simp] theorem setCtx_enabled (s : State) (c : Ctx) : (s.setCtx c).enabled = s.enabled := rfl
@[simp] theorem setCtx_clock (s : State) (c : Ctx) : (s.setCtx c).clock = s.clock := rfl
@[simp] theorem setCtx_mem (s : State) (c : Ctx) : (s.setCtx c).mem = s.mem := rfl
@[simp] theorem setCtx_slots (s : State) (c : Ctx) : (s.setCtx c).slots = s.slots := rfl
@[simp] theorem setCtx_units (s : State) (c : Ctx) : (s.setCtx c).units = s.units := rfl
@[simp] theorem setCtx_launches (s : State) (c : Ctx) : (s.setCtx c).launches = s.launches := rfl
@[simp] theorem setCtx_vifs (s : State) (c : Ctx) : (s.setCtx c).vifs = s.vifs := rfl
@[simp] theorem setCtx_flying (s : State) (c : Ctx) : (s.setCtx c).flying = s.flying := rfl
@[simp] theorem setCtx_stores (s : State) (c : Ctx) : (s.setCtx c).stores = s.stores := rfl
@[simp] theorem setCtx_ops (s : State) (c : Ctx) : (s.setCtx c).ops = s.ops := rfl
@[simp] theorem setCtx_mails (s : State) (c : Ctx) : (s.setCtx c).mails = s.mails := rfl
@[simp] theorem setCtx_xfers (s : State) (c : Ctx) : (s.setCtx c).xfers = s.xfers := rfl
@[simp] theorem setCtx_fills (s : State) (c : Ctx) : (s.setCtx c).fills = s.fills := rfl
@[simp] theorem setCtx_shoots (s : State) (c : Ctx) : (s.setCtx c).shoots = s.shoots := rfl
@[simp] theorem setCtx_bars (s : State) (c : Ctx) : (s.setCtx c).bars = s.bars := rfl
@[simp] theorem setCtx_released (s : State) (c : Ctx) : (s.setCtx c).released = s.released := rfl
@[simp] theorem setCtx_dead (s : State) (c : Ctx) : (s.setCtx c).dead = s.dead := rfl
@[simp] theorem setCtx_testing (s : State) (c : Ctx) : (s.setCtx c).testing = s.testing := rfl
@[simp] theorem setCtx_sent (s : State) (c : Ctx) : (s.setCtx c).sent = s.sent := rfl
@[simp] theorem setCtx_primin (s : State) (c : Ctx) : (s.setCtx c).primin = s.primin := rfl

@[simp] theorem setUnit_cur (s : State) (u : CUnit) : (s.setUnit u).cur = s.cur := rfl
@[simp] theorem setUnit_tick (s : State) (u : CUnit) : (s.setUnit u).tick = s.tick := rfl
@[simp] theorem setUnit_seq (s : State) (u : CUnit) : (s.setUnit u).seq = s.seq := rfl
@[simp] theorem setUnit_timers (s : State) (u : CUnit) : (s.setUnit u).timers = s.timers := rfl
@[simp] theorem setUnit_agenda (s : State) (u : CUnit) : (s.setUnit u).agenda = s.agenda := rfl
@[simp] theorem setUnit_stage (s : State) (u : CUnit) : (s.setUnit u).stage = s.stage := rfl
@[simp] theorem setUnit_enabled (s : State) (u : CUnit) : (s.setUnit u).enabled = s.enabled := rfl
@[simp] theorem setUnit_clock (s : State) (u : CUnit) : (s.setUnit u).clock = s.clock := rfl
@[simp] theorem setUnit_mem (s : State) (u : CUnit) : (s.setUnit u).mem = s.mem := rfl
@[simp] theorem setUnit_cores (s : State) (u : CUnit) : (s.setUnit u).cores = s.cores := rfl
@[simp] theorem setUnit_slots (s : State) (u : CUnit) : (s.setUnit u).slots = s.slots := rfl
@[simp] theorem setUnit_launches (s : State) (u : CUnit) : (s.setUnit u).launches = s.launches := rfl
@[simp] theorem setUnit_vifs (s : State) (u : CUnit) : (s.setUnit u).vifs = s.vifs := rfl
@[simp] theorem setUnit_flying (s : State) (u : CUnit) : (s.setUnit u).flying = s.flying := rfl
@[simp] theorem setUnit_stores (s : State) (u : CUnit) : (s.setUnit u).stores = s.stores := rfl
@[simp] theorem setUnit_ops (s : State) (u : CUnit) : (s.setUnit u).ops = s.ops := rfl
@[simp] theorem setUnit_mails (s : State) (u : CUnit) : (s.setUnit u).mails = s.mails := rfl
@[simp] theorem setUnit_xfers (s : State) (u : CUnit) : (s.setUnit u).xfers = s.xfers := rfl
@[simp] theorem setUnit_fills (s : State) (u : CUnit) : (s.setUnit u).fills = s.fills := rfl
@[simp] theorem setUnit_shoots (s : State) (u : CUnit) : (s.setUnit u).shoots = s.shoots := rfl
@[simp] theorem setUnit_bars (s : State) (u : CUnit) : (s.setUnit u).bars = s.bars := rfl
@[simp] theorem setUnit_released (s : State) (u : CUnit) : (s.setUnit u).released = s.released := rfl
@[simp] theorem setUnit_dead (s : State) (u : CUnit) : (s.setUnit u).dead = s.dead := rfl
@[simp] theorem setUnit_testing (s : State) (u : CUnit) : (s.setUnit u).testing = s.testing := rfl
@[simp] theorem setUnit_sent (s : State) (u : CUnit) : (s.setUnit u).sent = s.sent := rfl
@[simp] theorem setUnit_primin (s : State) (u : CUnit) : (s.setUnit u).primin = s.primin := rfl

@[simp] theorem setReaction_cur (s : State) (g : Nat) (r : Reaction) : (s.setReaction g r).cur = s.cur := rfl
@[simp] theorem setReaction_tick (s : State) (g : Nat) (r : Reaction) : (s.setReaction g r).tick = s.tick := rfl
@[simp] theorem setReaction_seq (s : State) (g : Nat) (r : Reaction) : (s.setReaction g r).seq = s.seq := rfl
@[simp] theorem setReaction_timers (s : State) (g : Nat) (r : Reaction) : (s.setReaction g r).timers = s.timers := rfl
@[simp] theorem setReaction_agenda (s : State) (g : Nat) (r : Reaction) : (s.setReaction g r).agenda = s.agenda := rfl
@[simp] theorem setReaction_stage (s : State) (g : Nat) (r : Reaction) : (s.setReaction g r).stage = s.stage := rfl
@[simp] theorem setReaction_enabled (s : State) (g : Nat) (r : Reaction) : (s.setReaction g r).enabled = s.enabled := rfl
@[simp] theorem setReaction_clock (s : State) (g : Nat) (r : Reaction) : (s.setReaction g r).clock = s.clock := rfl
@[simp] theorem setReaction_mem (s : State) (g : Nat) (r : Reaction) : (s.setReaction g r).mem = s.mem := rfl
@[simp] theorem setReaction_cores (s : State) (g : Nat) (r : Reaction) : (s.setReaction g r).cores = s.cores := rfl
@[simp] theorem setReaction_slots (s : State) (g : Nat) (r : Reaction) : (s.setReaction g r).slots = s.slots := rfl
@[simp] theorem setReaction_launches (s : State) (g : Nat) (r : Reaction) : (s.setReaction g r).launches = s.launches := rfl
@[simp] theorem setReaction_vifs (s : State) (g : Nat) (r : Reaction) : (s.setReaction g r).vifs = s.vifs := rfl
@[simp] theorem setReaction_flying (s : State) (g : Nat) (r : Reaction) : (s.setReaction g r).flying = s.flying := rfl
@[simp] theorem setReaction_stores (s : State) (g : Nat) (r : Reaction) : (s.setReaction g r).stores = s.stores := rfl
@[simp] theorem setReaction_ops (s : State) (g : Nat) (r : Reaction) : (s.setReaction g r).ops = s.ops := rfl
@[simp] theorem setReaction_mails (s : State) (g : Nat) (r : Reaction) : (s.setReaction g r).mails = s.mails := rfl
@[simp] theorem setReaction_xfers (s : State) (g : Nat) (r : Reaction) : (s.setReaction g r).xfers = s.xfers := rfl
@[simp] theorem setReaction_fills (s : State) (g : Nat) (r : Reaction) : (s.setReaction g r).fills = s.fills := rfl
@[simp] theorem setReaction_shoots (s : State) (g : Nat) (r : Reaction) : (s.setReaction g r).shoots = s.shoots := rfl
@[simp] theorem setReaction_bars (s : State) (g : Nat) (r : Reaction) : (s.setReaction g r).bars = s.bars := rfl
@[simp] theorem setReaction_released (s : State) (g : Nat) (r : Reaction) : (s.setReaction g r).released = s.released := rfl
@[simp] theorem setReaction_dead (s : State) (g : Nat) (r : Reaction) : (s.setReaction g r).dead = s.dead := rfl
@[simp] theorem setReaction_testing (s : State) (g : Nat) (r : Reaction) : (s.setReaction g r).testing = s.testing := rfl
@[simp] theorem setReaction_sent (s : State) (g : Nat) (r : Reaction) : (s.setReaction g r).sent = s.sent := rfl
@[simp] theorem setReaction_primin (s : State) (g : Nat) (r : Reaction) : (s.setReaction g r).primin = s.primin := rfl

@[simp] theorem setLaunch_cur (s : State) (l : Launch) : (s.setLaunch l).cur = s.cur := rfl
@[simp] theorem setLaunch_tick (s : State) (l : Launch) : (s.setLaunch l).tick = s.tick := rfl
@[simp] theorem setLaunch_seq (s : State) (l : Launch) : (s.setLaunch l).seq = s.seq := rfl
@[simp] theorem setLaunch_timers (s : State) (l : Launch) : (s.setLaunch l).timers = s.timers := rfl
@[simp] theorem setLaunch_agenda (s : State) (l : Launch) : (s.setLaunch l).agenda = s.agenda := rfl
@[simp] theorem setLaunch_stage (s : State) (l : Launch) : (s.setLaunch l).stage = s.stage := rfl
@[simp] theorem setLaunch_enabled (s : State) (l : Launch) : (s.setLaunch l).enabled = s.enabled := rfl
@[simp] theorem setLaunch_clock (s : State) (l : Launch) : (s.setLaunch l).clock = s.clock := rfl
@[simp] theorem setLaunch_mem (s : State) (l : Launch) : (s.setLaunch l).mem = s.mem := rfl
@[simp] theorem setLaunch_cores (s : State) (l : Launch) : (s.setLaunch l).cores = s.cores := rfl
@[simp] theorem setLaunch_slots (s : State) (l : Launch) : (s.setLaunch l).slots = s.slots := rfl
@[simp] theorem setLaunch_units (s : State) (l : Launch) : (s.setLaunch l).units = s.units := rfl
@[simp] theorem setLaunch_vifs (s : State) (l : Launch) : (s.setLaunch l).vifs = s.vifs := rfl
@[simp] theorem setLaunch_flying (s : State) (l : Launch) : (s.setLaunch l).flying = s.flying := rfl
@[simp] theorem setLaunch_stores (s : State) (l : Launch) : (s.setLaunch l).stores = s.stores := rfl
@[simp] theorem setLaunch_ops (s : State) (l : Launch) : (s.setLaunch l).ops = s.ops := rfl
@[simp] theorem setLaunch_mails (s : State) (l : Launch) : (s.setLaunch l).mails = s.mails := rfl
@[simp] theorem setLaunch_xfers (s : State) (l : Launch) : (s.setLaunch l).xfers = s.xfers := rfl
@[simp] theorem setLaunch_fills (s : State) (l : Launch) : (s.setLaunch l).fills = s.fills := rfl
@[simp] theorem setLaunch_shoots (s : State) (l : Launch) : (s.setLaunch l).shoots = s.shoots := rfl
@[simp] theorem setLaunch_bars (s : State) (l : Launch) : (s.setLaunch l).bars = s.bars := rfl
@[simp] theorem setLaunch_released (s : State) (l : Launch) : (s.setLaunch l).released = s.released := rfl
@[simp] theorem setLaunch_dead (s : State) (l : Launch) : (s.setLaunch l).dead = s.dead := rfl
@[simp] theorem setLaunch_testing (s : State) (l : Launch) : (s.setLaunch l).testing = s.testing := rfl
@[simp] theorem setLaunch_sent (s : State) (l : Launch) : (s.setLaunch l).sent = s.sent := rfl
@[simp] theorem setLaunch_primin (s : State) (l : Launch) : (s.setLaunch l).primin = s.primin := rfl

@[simp] theorem setVif_cur (s : State) (v : Vif) : (s.setVif v).cur = s.cur := rfl
@[simp] theorem setVif_tick (s : State) (v : Vif) : (s.setVif v).tick = s.tick := rfl
@[simp] theorem setVif_seq (s : State) (v : Vif) : (s.setVif v).seq = s.seq := rfl
@[simp] theorem setVif_timers (s : State) (v : Vif) : (s.setVif v).timers = s.timers := rfl
@[simp] theorem setVif_agenda (s : State) (v : Vif) : (s.setVif v).agenda = s.agenda := rfl
@[simp] theorem setVif_stage (s : State) (v : Vif) : (s.setVif v).stage = s.stage := rfl
@[simp] theorem setVif_enabled (s : State) (v : Vif) : (s.setVif v).enabled = s.enabled := rfl
@[simp] theorem setVif_clock (s : State) (v : Vif) : (s.setVif v).clock = s.clock := rfl
@[simp] theorem setVif_mem (s : State) (v : Vif) : (s.setVif v).mem = s.mem := rfl
@[simp] theorem setVif_cores (s : State) (v : Vif) : (s.setVif v).cores = s.cores := rfl
@[simp] theorem setVif_slots (s : State) (v : Vif) : (s.setVif v).slots = s.slots := rfl
@[simp] theorem setVif_units (s : State) (v : Vif) : (s.setVif v).units = s.units := rfl
@[simp] theorem setVif_launches (s : State) (v : Vif) : (s.setVif v).launches = s.launches := rfl
@[simp] theorem setVif_flying (s : State) (v : Vif) : (s.setVif v).flying = s.flying := rfl
@[simp] theorem setVif_stores (s : State) (v : Vif) : (s.setVif v).stores = s.stores := rfl
@[simp] theorem setVif_ops (s : State) (v : Vif) : (s.setVif v).ops = s.ops := rfl
@[simp] theorem setVif_mails (s : State) (v : Vif) : (s.setVif v).mails = s.mails := rfl
@[simp] theorem setVif_xfers (s : State) (v : Vif) : (s.setVif v).xfers = s.xfers := rfl
@[simp] theorem setVif_fills (s : State) (v : Vif) : (s.setVif v).fills = s.fills := rfl
@[simp] theorem setVif_shoots (s : State) (v : Vif) : (s.setVif v).shoots = s.shoots := rfl
@[simp] theorem setVif_bars (s : State) (v : Vif) : (s.setVif v).bars = s.bars := rfl
@[simp] theorem setVif_released (s : State) (v : Vif) : (s.setVif v).released = s.released := rfl
@[simp] theorem setVif_dead (s : State) (v : Vif) : (s.setVif v).dead = s.dead := rfl
@[simp] theorem setVif_testing (s : State) (v : Vif) : (s.setVif v).testing = s.testing := rfl
@[simp] theorem setVif_sent (s : State) (v : Vif) : (s.setVif v).sent = s.sent := rfl
@[simp] theorem setVif_primin (s : State) (v : Vif) : (s.setVif v).primin = s.primin := rfl

/-! ## Charges, messages, and uses of the TLB -/

/-- A charge touches the interfaces alone. -/
theorem charge_eq (s : State) (v w n : Nat) : charge s v w n = { s with vifs := (charge s v w n).vifs } := by
  unfold charge
  split
  · rfl
  · split <;> rfl

@[simp] theorem charge_cur (s : State) (v w n : Nat) : (charge s v w n).cur = s.cur := by
  rw [charge_eq]
@[simp] theorem charge_tick (s : State) (v w n : Nat) : (charge s v w n).tick = s.tick := by
  rw [charge_eq]
@[simp] theorem charge_seq (s : State) (v w n : Nat) : (charge s v w n).seq = s.seq := by
  rw [charge_eq]
@[simp] theorem charge_timers (s : State) (v w n : Nat) : (charge s v w n).timers = s.timers := by
  rw [charge_eq]
@[simp] theorem charge_agenda (s : State) (v w n : Nat) : (charge s v w n).agenda = s.agenda := by
  rw [charge_eq]
@[simp] theorem charge_stage (s : State) (v w n : Nat) : (charge s v w n).stage = s.stage := by
  rw [charge_eq]
@[simp] theorem charge_enabled (s : State) (v w n : Nat) : (charge s v w n).enabled = s.enabled := by
  rw [charge_eq]
@[simp] theorem charge_clock (s : State) (v w n : Nat) : (charge s v w n).clock = s.clock := by
  rw [charge_eq]
@[simp] theorem charge_mem (s : State) (v w n : Nat) : (charge s v w n).mem = s.mem := by
  rw [charge_eq]
@[simp] theorem charge_cores (s : State) (v w n : Nat) : (charge s v w n).cores = s.cores := by
  rw [charge_eq]
@[simp] theorem charge_slots (s : State) (v w n : Nat) : (charge s v w n).slots = s.slots := by
  rw [charge_eq]
@[simp] theorem charge_units (s : State) (v w n : Nat) : (charge s v w n).units = s.units := by
  rw [charge_eq]
@[simp] theorem charge_launches (s : State) (v w n : Nat) : (charge s v w n).launches = s.launches := by
  rw [charge_eq]
@[simp] theorem charge_flying (s : State) (v w n : Nat) : (charge s v w n).flying = s.flying := by
  rw [charge_eq]
@[simp] theorem charge_stores (s : State) (v w n : Nat) : (charge s v w n).stores = s.stores := by
  rw [charge_eq]
@[simp] theorem charge_ops (s : State) (v w n : Nat) : (charge s v w n).ops = s.ops := by
  rw [charge_eq]
@[simp] theorem charge_mails (s : State) (v w n : Nat) : (charge s v w n).mails = s.mails := by
  rw [charge_eq]
@[simp] theorem charge_xfers (s : State) (v w n : Nat) : (charge s v w n).xfers = s.xfers := by
  rw [charge_eq]
@[simp] theorem charge_fills (s : State) (v w n : Nat) : (charge s v w n).fills = s.fills := by
  rw [charge_eq]
@[simp] theorem charge_shoots (s : State) (v w n : Nat) : (charge s v w n).shoots = s.shoots := by
  rw [charge_eq]
@[simp] theorem charge_bars (s : State) (v w n : Nat) : (charge s v w n).bars = s.bars := by
  rw [charge_eq]
@[simp] theorem charge_released (s : State) (v w n : Nat) : (charge s v w n).released = s.released := by
  rw [charge_eq]
@[simp] theorem charge_dead (s : State) (v w n : Nat) : (charge s v w n).dead = s.dead := by
  rw [charge_eq]
@[simp] theorem charge_testing (s : State) (v w n : Nat) : (charge s v w n).testing = s.testing := by
  rw [charge_eq]
@[simp] theorem charge_sent (s : State) (v w n : Nat) : (charge s v w n).sent = s.sent := by
  rw [charge_eq]
@[simp] theorem charge_primin (s : State) (v w n : Nat) : (charge s v w n).primin = s.primin := by
  rw [charge_eq]

@[simp] theorem send_cur (s : State) (v : Nat) (m : List Byte) : (s.send v m).cur = s.cur := by
  simp [send]
@[simp] theorem send_tick (s : State) (v : Nat) (m : List Byte) : (s.send v m).tick = s.tick := by
  simp [send]
@[simp] theorem send_seq (s : State) (v : Nat) (m : List Byte) : (s.send v m).seq = s.seq := by
  simp [send]
@[simp] theorem send_timers (s : State) (v : Nat) (m : List Byte) : (s.send v m).timers = s.timers := by
  simp [send]
@[simp] theorem send_agenda (s : State) (v : Nat) (m : List Byte) : (s.send v m).agenda = s.agenda := by
  simp [send]
@[simp] theorem send_stage (s : State) (v : Nat) (m : List Byte) : (s.send v m).stage = s.stage := by
  simp [send]
@[simp] theorem send_enabled (s : State) (v : Nat) (m : List Byte) : (s.send v m).enabled = s.enabled := by
  simp [send]
@[simp] theorem send_clock (s : State) (v : Nat) (m : List Byte) : (s.send v m).clock = s.clock := by
  simp [send]
@[simp] theorem send_mem (s : State) (v : Nat) (m : List Byte) : (s.send v m).mem = s.mem := by
  simp [send]
@[simp] theorem send_cores (s : State) (v : Nat) (m : List Byte) : (s.send v m).cores = s.cores := by
  simp [send]
@[simp] theorem send_slots (s : State) (v : Nat) (m : List Byte) : (s.send v m).slots = s.slots := by
  simp [send]
@[simp] theorem send_units (s : State) (v : Nat) (m : List Byte) : (s.send v m).units = s.units := by
  simp [send]
@[simp] theorem send_launches (s : State) (v : Nat) (m : List Byte) : (s.send v m).launches = s.launches := by
  simp [send]
@[simp] theorem send_flying (s : State) (v : Nat) (m : List Byte) : (s.send v m).flying = s.flying := by
  simp [send]
@[simp] theorem send_stores (s : State) (v : Nat) (m : List Byte) : (s.send v m).stores = s.stores := by
  simp [send]
@[simp] theorem send_ops (s : State) (v : Nat) (m : List Byte) : (s.send v m).ops = s.ops := by
  simp [send]
@[simp] theorem send_mails (s : State) (v : Nat) (m : List Byte) : (s.send v m).mails = s.mails := by
  simp [send]
@[simp] theorem send_xfers (s : State) (v : Nat) (m : List Byte) : (s.send v m).xfers = s.xfers := by
  simp [send]
@[simp] theorem send_fills (s : State) (v : Nat) (m : List Byte) : (s.send v m).fills = s.fills := by
  simp [send]
@[simp] theorem send_shoots (s : State) (v : Nat) (m : List Byte) : (s.send v m).shoots = s.shoots := by
  simp [send]
@[simp] theorem send_bars (s : State) (v : Nat) (m : List Byte) : (s.send v m).bars = s.bars := by
  simp [send]
@[simp] theorem send_released (s : State) (v : Nat) (m : List Byte) : (s.send v m).released = s.released := by
  simp [send]
@[simp] theorem send_dead (s : State) (v : Nat) (m : List Byte) : (s.send v m).dead = s.dead := by
  simp [send]
@[simp] theorem send_testing (s : State) (v : Nat) (m : List Byte) : (s.send v m).testing = s.testing := by
  simp [send]
@[simp] theorem send_primin (s : State) (v : Nat) (m : List Byte) : (s.send v m).primin = s.primin := by
  simp [send]

@[simp] theorem send_sent (s : State) (v : Nat) (m : List Byte) : (s.send v m).sent = s.sent ++ [(v, m)] := by
  simp [send]

@[simp] theorem useTlb_cur (s : State) (es : List TlbEntry) : (s.useTlb es).cur = s.cur := by
  unfold useTlb; split <;> rfl
@[simp] theorem useTlb_tick (s : State) (es : List TlbEntry) : (s.useTlb es).tick = s.tick := by
  unfold useTlb; split <;> rfl
@[simp] theorem useTlb_seq (s : State) (es : List TlbEntry) : (s.useTlb es).seq = s.seq := by
  unfold useTlb; split <;> rfl
@[simp] theorem useTlb_timers (s : State) (es : List TlbEntry) : (s.useTlb es).timers = s.timers := by
  unfold useTlb; split <;> rfl
@[simp] theorem useTlb_agenda (s : State) (es : List TlbEntry) : (s.useTlb es).agenda = s.agenda := by
  unfold useTlb; split <;> rfl
@[simp] theorem useTlb_stage (s : State) (es : List TlbEntry) : (s.useTlb es).stage = s.stage := by
  unfold useTlb; split <;> rfl
@[simp] theorem useTlb_enabled (s : State) (es : List TlbEntry) : (s.useTlb es).enabled = s.enabled := by
  unfold useTlb; split <;> rfl
@[simp] theorem useTlb_clock (s : State) (es : List TlbEntry) : (s.useTlb es).clock = s.clock := by
  unfold useTlb; split <;> rfl
@[simp] theorem useTlb_mem (s : State) (es : List TlbEntry) : (s.useTlb es).mem = s.mem := by
  unfold useTlb; split <;> rfl
@[simp] theorem useTlb_slots (s : State) (es : List TlbEntry) : (s.useTlb es).slots = s.slots := by
  unfold useTlb; split <;> rfl
@[simp] theorem useTlb_units (s : State) (es : List TlbEntry) : (s.useTlb es).units = s.units := by
  unfold useTlb; split <;> rfl
@[simp] theorem useTlb_launches (s : State) (es : List TlbEntry) : (s.useTlb es).launches = s.launches := by
  unfold useTlb; split <;> rfl
@[simp] theorem useTlb_vifs (s : State) (es : List TlbEntry) : (s.useTlb es).vifs = s.vifs := by
  unfold useTlb; split <;> rfl
@[simp] theorem useTlb_flying (s : State) (es : List TlbEntry) : (s.useTlb es).flying = s.flying := by
  unfold useTlb; split <;> rfl
@[simp] theorem useTlb_stores (s : State) (es : List TlbEntry) : (s.useTlb es).stores = s.stores := by
  unfold useTlb; split <;> rfl
@[simp] theorem useTlb_ops (s : State) (es : List TlbEntry) : (s.useTlb es).ops = s.ops := by
  unfold useTlb; split <;> rfl
@[simp] theorem useTlb_mails (s : State) (es : List TlbEntry) : (s.useTlb es).mails = s.mails := by
  unfold useTlb; split <;> rfl
@[simp] theorem useTlb_xfers (s : State) (es : List TlbEntry) : (s.useTlb es).xfers = s.xfers := by
  unfold useTlb; split <;> rfl
@[simp] theorem useTlb_fills (s : State) (es : List TlbEntry) : (s.useTlb es).fills = s.fills := by
  unfold useTlb; split <;> rfl
@[simp] theorem useTlb_shoots (s : State) (es : List TlbEntry) : (s.useTlb es).shoots = s.shoots := by
  unfold useTlb; split <;> rfl
@[simp] theorem useTlb_bars (s : State) (es : List TlbEntry) : (s.useTlb es).bars = s.bars := by
  unfold useTlb; split <;> rfl
@[simp] theorem useTlb_released (s : State) (es : List TlbEntry) : (s.useTlb es).released = s.released := by
  unfold useTlb; split <;> rfl
@[simp] theorem useTlb_dead (s : State) (es : List TlbEntry) : (s.useTlb es).dead = s.dead := by
  unfold useTlb; split <;> rfl
@[simp] theorem useTlb_testing (s : State) (es : List TlbEntry) : (s.useTlb es).testing = s.testing := by
  unfold useTlb; split <;> rfl
@[simp] theorem useTlb_sent (s : State) (es : List TlbEntry) : (s.useTlb es).sent = s.sent := by
  unfold useTlb; split <;> rfl
@[simp] theorem useTlb_primin (s : State) (es : List TlbEntry) : (s.useTlb es).primin = s.primin := by
  unfold useTlb; split <;> rfl

/-! ## Cores and contexts -/

@[simp] theorem core_setCore (s : State) (c : CoreId) (k : Core) : (s.setCore c k).core c = k := by
  simp [core, setCore, find_upsert]

theorem core_setCore_other (s : State) (c d : CoreId) (k : Core) (h : d ≠ c) : (s.setCore c k).core d = s.core d := by
  have : (upsert (·.1 == c) (c, k) s.cores).find? (·.1 == d) = s.cores.find? (·.1 == d) := by
    apply find_upsert_other
    · simpa using fun e => h e.symm
    · intro b _ hb
      simp only [beq_iff_eq] at hb
      simp [hb, Ne.symm h]
  simp [core, setCore, this]

@[simp] theorem me_setMe (s : State) (k : Core) : (s.setMe k).me = k := by simp [me, setMe]

theorem core_setMe_other (s : State) (d : CoreId) (k : Core) (h : d ≠ s.cur) : (s.setMe k).core d = s.core d :=
  core_setCore_other s s.cur d k h

@[simp] theorem me_setCtx (s : State) (c : Ctx) : (s.setCtx c).me = { s.me with ctx := c } := by simp [setCtx]

@[simp] theorem ctx_setCtx (s : State) (c : Ctx) : (s.setCtx c).ctx = c := by simp [ctx]

@[simp] theorem ctx_setMe (s : State) (k : Core) : (s.setMe k).ctx = k.ctx := by simp [ctx]

theorem core_setCtx_other (s : State) (d : CoreId) (c : Ctx) (h : d ≠ s.cur) : (s.setCtx c).core d = s.core d :=
  core_setMe_other s d _ h

@[simp] theorem me_ctx (s : State) : s.me.ctx = s.ctx := rfl

end State

/-! ## Registers (R66, R67) -/

theorem vector_get_set {α : Type} {n : Nat} (v : Vector α n) (i : Nat) (a d : α) (h : i < n) :
    (v.setIfInBounds i a).getD i d = a := by simp [Vector.getD, h]

theorem vector_get_set_other {α : Type} {n : Nat} (v : Vector α n) (i j : Nat) (a d : α) (h : j ≠ i) :
    (v.setIfInBounds i a).getD j d = v.getD j d := by
  by_cases hj : j < n
  · simp [Vector.getD, Array.getD, hj, Ne.symm h]
  · simp [Vector.getD, Array.getD, hj]

namespace Ctx

@[simp] theorem getX_zero (c : Ctx) : c.getX 0 = 0 := by simp [getX]

@[simp] theorem setX_zero (c : Ctx) (v : Word) : c.setX 0 v = c := by simp [setX]

/-- A written register reads as its new value. -/
theorem getX_setX (c : Ctx) (i : Nat) (v : Word) (h : i < 32) : (c.setX i v).getX i = if i = 0 then 0 else v := by
  by_cases h0 : i = 0
  · simp [h0]
  · by_cases hs : (c.inev && decide (24 ≤ i)) = true
    · have : i - 24 < 8 := by omega
      simp [setX, getX, h0, hs, vector_get_set _ _ _ _ this]
    · simp [setX, getX, h0, hs, vector_get_set _ _ _ _ h]

/-- A write leaves every other register as it was. -/
theorem getX_setX_other (c : Ctx) (i j : Nat) (v : Word) (h : j ≠ i) : (c.setX i v).getX j = c.getX j := by
  by_cases h0 : i = 0
  · simp [h0]
  · by_cases hs : (c.inev && decide (24 ≤ i)) = true
    · by_cases hj : (c.inev && decide (24 ≤ j)) = true
      · have : j - 24 ≠ i - 24 := by simp at hs hj; omega
        simp [setX, h0, hs, getX, hj, vector_get_set_other _ _ _ _ _ this]
      · simp [setX, h0, hs, getX, hj]
    · simp [setX, h0, hs, getX, vector_get_set_other _ _ _ _ _ h]

theorem setX_inev (c : Ctx) (i : Nat) (v : Word) : (c.setX i v).inev = c.inev := by
  unfold setX
  split
  · rfl
  · split <;> rfl

theorem getK_setK (c : Ctx) (i : Nat) (v : Cap) (h : i < 16) : (c.setK i v).getK i = v := vector_get_set _ _ _ _ h

theorem getK_setK_other (c : Ctx) (i j : Nat) (v : Cap) (h : j ≠ i) : (c.setK i v).getK j = c.getK j := by
  simp [getK, setK, vector_get_set_other _ _ _ _ _ h]

end Ctx

end Sys2Proof.Machine
end

