-- ==== Sys2Proof/Laws/Frames.lean ====
section
/-! SUPPORT. What the operations that retire an instruction leave: one lemma for each. -/

namespace Sys2Proof

open Machine

theorem setCtx_cores (s : State) (c : Ctx) : { s.setCtx c with cores := s.cores } = s := rfl

/-- A new context of the current core leaves all else. -/
theorem onlyCtx_setCtx (s : State) (c : Ctx) : OnlyCtx s (s.setCtx c) := by
  refine ⟨rfl, ⟨fun d h => State.core_setCtx_other s d c h, ?_⟩, fun _ => rfl⟩
  rw [State.me_setCtx]
  rfl

theorem coreFrame_setCtx (s : State) (c : Ctx) : CoreFrame s (s.setCtx c) := (onlyCtx_setCtx s c).2.1

/-- Going on to the next instruction. -/
theorem goesOn_advance (s : State) : GoesOn s s.advance := ⟨onlyCtx_setCtx s _, State.ctx_setCtx s _⟩

/-- A register write and a PC change as a context. -/
theorem scalarCtx_setX (c : Ctx) (d : Nat) (v : Word) (pc : Nat) (h : d < 32) :
    ScalarCtx c { c.setX d v with pc := pc } d v pc := by
  refine ⟨?_, rfl, ?_, ?_⟩
  · exact Ctx.getX_setX c d v h
  · intro bank i hi
    unfold Ctx.setX
    by_cases h0 : d = 0
    · simp only [h0, if_true]; rfl
    · simp only [h0, if_false]
      cases hb : c.inev && decide (24 ≤ d)
      · simp only [Bool.false_eq_true, if_false]
        unfold Ctx.getX
        by_cases hi0 : i = 0
        · simp [hi0]
        · simp only [hi0, if_false]
          cases hs : bank && decide (24 ≤ i)
          · simp only [Bool.false_eq_true, if_false]
            refine vector_get_set_other _ _ _ _ _ ?_
            rintro rfl
            rcases hi with hi | ⟨hi, h24⟩
            · exact hi rfl
            · cases bank <;> cases hc : c.inev <;> simp_all
          · simp
      · simp only [if_true]
        unfold Ctx.getX
        by_cases hi0 : i = 0
        · simp [hi0]
        · simp only [hi0, if_false]
          cases hs : bank && decide (24 ≤ i)
          · simp
          · simp only [if_true]
            refine vector_get_set_other _ _ _ _ _ ?_
            simp only [Bool.and_eq_true, decide_eq_true_eq] at hb hs
            intro he
            have : i = d := by omega
            subst this
            rcases hi with hi | ⟨hi, h24⟩
            · exact hi rfl
            · simp_all
  · unfold Ctx.setX
    split
    · rfl
    · split <;> rfl

/-- A scalar result. -/
theorem scalarTo_retire (s : State) (d : Nat) (v : Word) (h : d < 32) : ScalarTo s (s.retire d v) d v := by
  refine ⟨onlyCtx_setCtx s _, ?_⟩
  rw [State.retire, State.ctx_setCtx]
  exact scalarCtx_setX s.ctx d v _ h

/-- A capability result. -/
theorem capTo_retireK (s : State) (d : Nat) (v : Cap) (h : d < 16) : CapTo s (s.retireK d v) d v := by
  refine ⟨onlyCtx_setCtx s _, ?_, fun i hi => ?_, ?_, ?_⟩ <;> simp only [State.k, State.retireK, State.ctx_setCtx]
  · exact Ctx.getK_setK s.ctx d v h
  · exact Ctx.getK_setK_other s.ctx d i v hi
  · rfl

/-- A jump within the code space, and one outside it. -/
theorem jump_in (s : State) (i : Instr) (a : Int) (h : 0 ≤ a ∧ a < s.codeLength) :
    s.jump i a = .ok (s.setCtx { s.ctx with pc := a.toNat }) := by
  unfold State.jump
  rw [if_pos h]

theorem jump_out (s : State) (i : Instr) (a : Int) (h : a < 0 ∨ (s.codeLength : Int) ≤ a) :
    s.jump i a = trap .illegal (encodingOf i) := by
  unfold State.jump
  rw [if_neg (by omega)]

/-! ## How a meaning ends -/

@[simp] theorem conclude_ok (s t : State) : conclude s (.ok t) = .next t := rfl

@[simp] theorem conclude_trap (s : State) (c : Cause) (v : Word) : conclude s (trap c v) = .next (takeTrap s c v) := rfl

@[simp] theorem guardTrap_true (c : Cause) (v : Word) : guardTrap true c v = .ok () := rfl

@[simp] theorem guardTrap_false (c : Cause) (v : Word) : guardTrap false c v = trap c v := rfl

@[simp] theorem legal_true (i : Instr) : legal i true = .ok () := rfl

@[simp] theorem legal_false (i : Instr) : legal i false = trap .illegal (encodingOf i) := rfl

@[simp] theorem bind_ok {α β : Type} (a : α) (f : α → Res β) : ((.ok a : Res α) >>= f) = f a := rfl

@[simp] theorem bind_trap {α β : Type} (c : Cause) (v : Word) (f : α → Res β) : ((trap c v : Res α) >>= f) = trap c v := rfl

/-! ## Weirs -/

/-- Charges depend on the interfaces alone. -/
theorem charge_vifs (s t : State) (v w n : Nat) (h : t.vifs = s.vifs) : (charge t v w n).vifs = (charge s v w n).vifs := by
  have hv : t.vif v = s.vif v := by simp [State.vif, h]
  unfold charge
  rw [hv]
  split
  · exact h
  · split
    · exact h
    · simp [State.setVif, h]

end Sys2Proof
end

