-- ==== Sys2Proof/Laws/Memory.lean ====
section
/-! SUPPORT. Memory: a byte reads as it was last written, a write leaves every other byte as it was, and every operation
keeps the canonical form. -/

namespace Sys2Proof.Machine

/-! ## Cells -/

/-- Looking for an address among cells that a filter keeps. -/
theorem find_filter (p : Host.Cell → Bool) (x : Nat) (l : List Host.Cell) :
    (∀ c : Host.Cell, c.1 = x → p c = true) → (l.filter p).find? (·.1 == x) = l.find? (·.1 == x) := by
  intro h
  induction l with
  | nil => rfl
  | cons c t ih =>
    by_cases hx : c.1 = x
    · simp [h c hx, hx]
    · by_cases hp : p c = true <;> simp [hp, hx, ih]

/-- Looking for an address that a filter drops. -/
theorem find_filter_none (p : Host.Cell → Bool) (x : Nat) (l : List Host.Cell)
    (h : ∀ c : Host.Cell, c.1 = x → p c = false) : (l.filter p).find? (·.1 == x) = none := by
  rw [List.find?_eq_none]
  intro c hc
  simp only [List.mem_filter] at hc
  intro hx
  rw [h c (by simpa using hx)] at hc
  simp at hc

/-- What a run of bytes lists for an address in it. -/
theorem find_cellsOf (x : Nat) (bs : List Byte) (a : Nat) :
    (((cellsOf a bs).find? (·.1 == x)).map (·.2)).getD 0 = if a ≤ x ∧ x < a + bs.length then bs.getD (x - a) 0 else 0 := by
  induction bs generalizing a with
  | nil => simp [cellsOf]
  | cons b t ih =>
    unfold cellsOf
    by_cases hx : x = a
    · subst hx
      have h0 : ¬ (x + 1 ≤ x) := by omega
      have hc : x < x + (b :: t).length := by simp
      split
      · rename_i hb
        rw [ih, if_neg (by omega)]
        simp [hb]
      · simp
    · have hs : (a ≤ x ∧ x < a + (b :: t).length) ↔ (a + 1 ≤ x ∧ x < a + 1 + t.length) := by
        simp only [List.length_cons]; omega
      have hne : (a == x) = false := by simpa using fun h => hx h.symm
      split
      · rw [ih]
        by_cases h : a + 1 ≤ x ∧ x < a + 1 + t.length
        · rw [if_pos h, if_pos (hs.mpr h), show x - a = (x - (a + 1)) + 1 by omega, List.getD_cons_succ]
        · rw [if_neg h, if_neg (mt hs.mp h)]
      · rw [List.find?_cons, hne, ih]
        by_cases h : a + 1 ≤ x ∧ x < a + 1 + t.length
        · rw [if_pos h, if_pos (hs.mpr h), show x - a = (x - (a + 1)) + 1 by omega, List.getD_cons_succ]
        · rw [if_neg h, if_neg (mt hs.mp h)]

/-- A run of bytes lists nothing outside itself. -/
theorem find_cellsOf_none (x : Nat) (bs : List Byte) (a : Nat) (h : x < a ∨ a + bs.length ≤ x) :
    (cellsOf a bs).find? (·.1 == x) = none := by
  induction bs generalizing a with
  | nil => rfl
  | cons b t ih =>
    unfold cellsOf
    simp only [List.length_cons] at h
    have ht := ih (a + 1) (by omega)
    have hne : a ≠ x := by omega
    split
    · exact ht
    · simp [hne, ht]

theorem mem_cellsOf (bs : List Byte) (a : Nat) : ∀ c ∈ cellsOf a bs, (a ≤ c.1 ∧ c.1 < a + bs.length) ∧ c.2 ≠ 0 := by
  induction bs generalizing a with
  | nil => simp [cellsOf]
  | cons b t ih =>
    unfold cellsOf
    intro c hc
    simp only [List.length_cons]
    split at hc
    · have := ih (a + 1) c hc
      exact ⟨by omega, this.2⟩
    · rename_i hb
      rcases List.mem_cons.mp hc with rfl | hc
      · exact ⟨by simp, hb⟩
      · have := ih (a + 1) c hc
        exact ⟨by omega, this.2⟩

theorem cellsOf_rising (bs : List Byte) (a : Nat) : (cellsOf a bs).Pairwise fun c d => c.1 < d.1 := by
  induction bs generalizing a with
  | nil => simp [cellsOf]
  | cons b t ih =>
    unfold cellsOf
    split
    · exact ih _
    · refine List.pairwise_cons.mpr ⟨fun c hc => ?_, ih _⟩
      have := mem_cellsOf t (a + 1) c hc
      simp only; omega

/-! ## Strictly rising lists -/

theorem mem_insertNat (a x : Nat) (l : List Nat) : x ∈ insertNat a l ↔ x = a ∨ x ∈ l := by
  induction l with
  | nil => simp [insertNat]
  | cons b t ih =>
    unfold insertNat
    split
    · simp
    · split
      · rename_i h; subst h; simp
      · simp only [List.mem_cons, ih]
        constructor <;> (intro h; rcases h with h | h | h <;> simp [h])

theorem insertNat_rising (a : Nat) (l : List Nat) (h : l.Pairwise (· < ·)) : (insertNat a l).Pairwise (· < ·) := by
  induction l with
  | nil => simp [insertNat]
  | cons b t ih =>
    unfold insertNat
    have hb := List.pairwise_cons.mp h
    split
    · rename_i hab
      refine List.pairwise_cons.mpr ⟨fun c hc => ?_, h⟩
      rcases List.mem_cons.mp hc with rfl | hc
      · exact hab
      · exact Nat.lt_trans hab (hb.1 c hc)
    · split
      · exact h
      · refine List.pairwise_cons.mpr ⟨fun c hc => ?_, ih hb.2⟩
        rcases (mem_insertNat a c t).mp hc with rfl | hc
        · omega
        · exact hb.1 c hc

theorem insertNats_rising (as l : List Nat) (h : l.Pairwise (· < ·)) : (insertNats as l).Pairwise (· < ·) := by
  induction as with
  | nil => exact h
  | cons a t ih => exact insertNat_rising a _ ih

theorem mem_insertNats (as l : List Nat) (x : Nat) : x ∈ insertNats as l ↔ x ∈ as ∨ x ∈ l := by
  induction as with
  | nil => simp [insertNats]
  | cons a t ih =>
    have : insertNats (a :: t) l = insertNat a (insertNats t l) := rfl
    rw [this, mem_insertNat, ih, List.mem_cons, or_assoc]

/-! ## Reading -/

namespace Memory

theorem byteAt_window (m : Memory) (a n x : Nat) (h : a ≤ x ∧ x < a + n) : (m.window a n).byteAt x = m.byteAt x := by
  unfold byteAt window
  simp only
  rw [find_filter]
  intro c hc
  simp [hc, h.1, h.2]

/-- The bytes of a range, one by one. -/
theorem read_eq (m : Memory) (a n : Nat) : m.read a n = (List.range n).map fun i => m.byteAt (a + i) := by
  unfold read
  apply List.map_congr_left
  intro i hi
  rw [List.mem_range] at hi
  exact byteAt_window m a n _ ⟨by omega, by omega⟩

theorem read_length (m : Memory) (a n : Nat) : (m.read a n).length = n := by simp [read_eq]

/-! ## Writing -/

/-- A byte after a store: the stored one in its range, the one before it elsewhere. -/
theorem byteAt_write (m : Memory) (a x : Nat) (bs : List Byte) (bad : List Nat) :
    (m.write a bs bad).byteAt x = if a ≤ x ∧ x < a + bs.length then bs.getD (x - a) 0 else m.byteAt x := by
  simp only [byteAt, write, putCells, List.append_assoc, List.find?_append]
  by_cases h : a ≤ x ∧ x < a + bs.length
  · have h1 : (m.cells.filter fun c => decide (c.1 < a)).find? (·.1 == x) = none :=
      find_filter_none _ _ _ fun c hc => by simp [hc]; omega
    have h3 : (m.cells.filter fun c => decide (a + bs.length ≤ c.1)).find? (·.1 == x) = none :=
      find_filter_none _ _ _ fun c hc => by simp [hc]; omega
    rw [h1, h3, if_pos h]
    simpa [h] using find_cellsOf x bs a
  · rw [if_neg h]
    by_cases hx : x < a
    · have h1 : (m.cells.filter fun c => decide (c.1 < a)).find? (·.1 == x) = m.cells.find? (·.1 == x) :=
        find_filter _ _ _ fun c hc => by simp [hc, hx]
      have h3 : (m.cells.filter fun c => decide (a + bs.length ≤ c.1)).find? (·.1 == x) = none :=
        find_filter_none _ _ _ fun c hc => by simp [hc]; omega
      rw [h1, h3, find_cellsOf_none x bs a (.inl hx)]
      simp
    · have h1 : (m.cells.filter fun c => decide (c.1 < a)).find? (·.1 == x) = none :=
        find_filter_none _ _ _ fun c hc => by simp [hc]; omega
      have h3 : (m.cells.filter fun c => decide (a + bs.length ≤ c.1)).find? (·.1 == x) = m.cells.find? (·.1 == x) :=
        find_filter _ _ _ fun c hc => by simp [hc]; omega
      rw [h1, h3, find_cellsOf_none x bs a (.inr (by omega))]
      simp

/-- What was stored is read back. -/
theorem read_write (m : Memory) (a : Nat) (bs : List Byte) (bad : List Nat) : (m.write a bs bad).read a bs.length = bs := by
  rw [read_eq]
  apply List.ext_getElem
  · simp
  · intro i h1 h2
    simp only [List.getElem_map, List.getElem_range, byteAt_write]
    rw [if_pos ⟨by omega, by omega⟩, show a + i - a = i by omega]
    simp [h2]

/-- A range apart from a store reads as before. -/
theorem read_write_apart (m : Memory) (a b n : Nat) (bs : List Byte) (bad : List Nat)
    (h : b + n ≤ a ∨ a + bs.length ≤ b) : (m.write a bs bad).read b n = m.read b n := by
  rw [read_eq, read_eq]
  apply List.map_congr_left
  intro i hi
  rw [List.mem_range] at hi
  rw [byteAt_write, if_neg (by omega)]

@[simp] theorem byteAt_setTag (m : Memory) (a x : Nat) : (m.setTag a).byteAt x = m.byteAt x := rfl

@[simp] theorem byteAt_setTags (m : Memory) (gs : List Nat) (x : Nat) : (m.setTags gs).byteAt x = m.byteAt x := rfl

@[simp] theorem read_setTags (m : Memory) (gs : List Nat) (a n : Nat) : (m.setTags gs).read a n = m.read a n := rfl

@[simp] theorem poison_setTags (m : Memory) (gs : List Nat) : (m.setTags gs).poison = m.poison := rfl

@[simp] theorem setTags_nil (m : Memory) : m.setTags [] = m := rfl

@[simp] theorem byteAt_heal (m : Memory) (gs : List Nat) (x : Nat) : (m.heal gs).byteAt x = m.byteAt x := rfl

@[simp] theorem byteAt_spoil (m : Memory) (gs : List Nat) (x : Nat) : (m.spoil gs).byteAt x = m.byteAt x := rfl

theorem mem_tags_setTags (m : Memory) (gs : List Nat) (g : Nat) : g ∈ (m.setTags gs).tags ↔ g ∈ gs ∨ g ∈ m.tags :=
  mem_insertNats gs m.tags g

/-- A cleared range reads zero, and nothing else changes. -/
theorem byteAt_clear (m : Memory) (a n x : Nat) : (m.clear a n).byteAt x = if a ≤ x ∧ x < a + n then 0 else m.byteAt x := by
  unfold byteAt clear
  simp only
  by_cases h : a ≤ x ∧ x < a + n
  · rw [find_filter_none, if_pos h]
    · rfl
    · intro c hc; simp [hc]; omega
  · rw [find_filter, if_neg h]
    intro c hc; simp [hc]; omega

/-! ## The canonical form -/

theorem wf_empty : Memory.empty.wf := by simp [Memory.empty, wf]

theorem wf_write (m : Memory) (a : Nat) (bs : List Byte) (bad : List Nat) (h : m.wf) : (m.write a bs bad).wf := by
  obtain ⟨h1, h2, h3, h4⟩ := h
  refine ⟨?_, ?_, insertNats_rising _ _ (h3.filter _), ?_⟩
  · simp only [write, putCells]
    refine List.pairwise_append.mpr ⟨List.pairwise_append.mpr ⟨h1.filter _, cellsOf_rising _ _, ?_⟩, h1.filter _, ?_⟩
    · intro c hc d hd
      have := mem_cellsOf bs a d hd
      simp at hc; omega
    · intro c hc d hd
      simp only [List.mem_append, List.mem_filter, decide_eq_true_eq] at hc hd
      rcases hc with hc | hc
      · omega
      · have := mem_cellsOf bs a c hc
        omega
  · simp only [write, putCells]
    intro c hc
    simp only [List.mem_append, List.mem_filter] at hc
    rcases hc with (hc | hc) | hc
    · exact h2 c hc.1
    · exact (mem_cellsOf bs a c hc).2
    · exact h2 c hc.1
  · simp only [write]
    split
    · exact h4
    · exact h4.filter _

theorem wf_writeNat (m : Memory) (a n v : Nat) (h : m.wf) : (m.writeNat a n v).wf := wf_write _ _ _ _ h

theorem wf_setTag (m : Memory) (a : Nat) (h : m.wf) : (m.setTag a).wf :=
  ⟨h.1, h.2.1, h.2.2.1, insertNat_rising _ _ h.2.2.2⟩

theorem wf_setTags (m : Memory) (gs : List Nat) (h : m.wf) : (m.setTags gs).wf :=
  ⟨h.1, h.2.1, h.2.2.1, insertNats_rising _ _ h.2.2.2⟩

theorem wf_heal (m : Memory) (gs : List Nat) (h : m.wf) : (m.heal gs).wf := ⟨h.1, h.2.1, h.2.2.1.filter _, h.2.2.2⟩

theorem wf_spoil (m : Memory) (gs : List Nat) (h : m.wf) : (m.spoil gs).wf :=
  ⟨h.1, h.2.1, insertNats_rising _ _ h.2.2.1, h.2.2.2⟩

theorem wf_clear (m : Memory) (a n : Nat) (h : m.wf) : (m.clear a n).wf :=
  ⟨h.1.filter _, fun c hc => h.2.1 c (List.mem_filter.mp hc).1, h.2.2.1.filter _, h.2.2.2.filter _⟩

theorem wf_copy (m : Memory) (a b n : Nat) (h : m.wf) : (m.copy a b n).wf := by
  have hc := wf_clear m b n h
  refine ⟨?_, ?_, insertNats_rising _ _ hc.2.2.1, insertNats_rising _ _ hc.2.2.2⟩
  · simp only [copy]
    refine List.pairwise_append.mpr ⟨List.pairwise_append.mpr ⟨hc.1.filter _, ?_, ?_⟩, hc.1.filter _, ?_⟩
    · rw [List.pairwise_map]
      refine (h.1.filter _).imp_of_mem ?_
      intro c d hc hd hlt
      simp at hc hd; simp only; omega
    · intro c hc d hd
      simp only [List.mem_filter, List.mem_map, decide_eq_true_eq] at hc hd
      obtain ⟨e, _, rfl⟩ := hd
      simp only; omega
    · intro c hc d hd
      simp only [List.mem_append, List.mem_filter, List.mem_map, decide_eq_true_eq, Bool.and_eq_true] at hc hd
      rcases hc with hc | ⟨e, he, rfl⟩
      · omega
      · simp only; omega
  · simp only [copy]
    intro c hx
    simp only [List.mem_append, List.mem_filter, List.mem_map] at hx
    rcases hx with (hx | ⟨e, he, rfl⟩) | hx
    · exact hc.2.1 c hx.1
    · exact h.2.1 e he.1
    · exact hc.2.1 c hx.1

end Memory

end Sys2Proof.Machine
end

