-- ==== Sys2Proof/Laws/Ops.lean ====
section
/-! SUPPORT. What the shared operations can do, one lemma for each: checks, the charge of weirs, stores to runs, pool
writes, the taking of a trap. -/

namespace Sys2Proof

open Machine

/-! ## Results -/

/-- A computation of two parts ends well only if both do. -/
theorem res_bind_ok {α β : Type} (x : Res α) (f : α → Res β) (b : β) : (x >>= f) = .ok b ↔ ∃ a, x = .ok a ∧ f a = .ok b := by
  cases x with
  | ok a => simp
  | error e =>
    constructor
    · intro h; cases h
    · rintro ⟨_, h, _⟩; cases h

@[simp] theorem guardTrap_ok (p : Bool) (c : Cause) (v : Word) (u : Unit) : guardTrap p c v = .ok u ↔ p = true := by
  cases p <;> simp [guardTrap]

@[simp] theorem legal_ok (i : Instr) (p : Bool) (u : Unit) : legal i p = .ok u ↔ p = true := guardTrap_ok p _ _ u

/-- `CapCheck` passes exactly where every check of Table 4.22 does, and the bounds decode at the address as they do at the
capability's own VA (R90, R297). -/
theorem capCheck_ok (lv : Level) (c : Cap) (a : Word) (n need : Nat) (u : Unit) : capCheck lv c a n need = .ok u ↔
    c.tag = true ∧ c.isSealed = false ∧ c.perms &&& need = need ∧ c.space < 8 ∧ (c.space = 7 → lv = .machine)
      ∧ c.baseAt (bitsOf a.toNat 0 56) = c.base ∧ c.base ≤ (bitsOf a.toNat 0 56 : Nat)
      ∧ ((bitsOf a.toNat 0 56 : Nat) : Int) + n ≤ c.top := by
  unfold capCheck capRights Cap.top
  simp only [res_bind_ok, guardTrap_ok, Bool.and_eq_true, Bool.not_eq_true', beq_iff_eq, decide_eq_true_eq, exists_and_left, exists_const,
    Bool.or_eq_true, bne_iff_ne]
  constructor
  · rintro ⟨⟨h1, ⟨h2, h3⟩, h4, h5⟩, ⟨h8, h6⟩, h7⟩
    exact ⟨h1, h2, h3, h4, fun h => h5.resolve_left fun k => k h, h8, h8 ▸ h6, h8 ▸ h7⟩
  · rintro ⟨h1, h2, h3, h4, h5, h8, h6, h7⟩
    exact ⟨⟨h1, ⟨h2, h3⟩, h4, Decidable.not_or_of_imp h5⟩, ⟨h8, h8 ▸ h6⟩, h8 ▸ h7⟩

/-- An operand of a scalar access is there exactly where its checks pass and its place is found (R201). -/
theorem operand_ok (s : State) (c : Cap) (a : Word) (n need align : Nat) (kind : Access) (ls : List Loc) :
    operand s c a n need align kind = .ok ls ↔ capCheck s.ctx.level c a n need = .ok () ∧ c.space ≠ 6 ∧ c.format ≠ 7 ∧ c.format < 12
      ∧ blogOk c.format c.blog = true ∧ a.toNat % align = 0 ∧ locate s c.space a n kind = .ok ls := by
  unfold operand formatCheck
  simp only [res_bind_ok, guardTrap_ok, Bool.and_eq_true, beq_iff_eq, decide_eq_true_eq, exists_const, bne_iff_ne]
  constructor
  · rintro ⟨_, h1, h2, ⟨h3, h4, h5⟩, h6, h7⟩
    exact ⟨h1, h2, h3, h4, h5, h6, h7⟩
  · rintro ⟨h1, h2, h3, h4, h5, h6, h7⟩
    exact ⟨(), h1, h2, ⟨h3, h4, h5⟩, h6, h7⟩

/-! ## Loads and what holds them -/

/-- A load of runs waits for nothing exactly where no older store of its agent and no load of a stream that comes before it is of its
bytes (R188, R192). -/
theorem loadHeld_false (s : State) (before : Nat) (ls : List Loc) :
    loadHeld s before ls = false ↔ ownOut s before ls = false ∧ streamsMeet s before ls = [] := by
  simp [loadHeld]

/-- A load may be made exactly where it waits for nothing and its target can be reached (R181). -/
theorem loadable_ok (s : State) (before : Nat) (ls : List Loc) (a : Word) (u : Unit) :
    loadable s before ls a = .ok u ↔ loadHeld s before ls = false ∧ ls.any (locDown s) = false := by
  unfold loadable afterMeeting reachable
  rw [loadHeld_false]
  cases ownOut s before ls with
  | true => simp [res_bind_ok]
  | false => cases streamsMeet s before ls <;> simp [res_bind_ok]

/-- A load behind an older store of its agent holds as it stands. -/
theorem loadable_own (s : State) (before : Nat) (ls : List Loc) (a : Word) (h : ownOut s before ls = true) :
    loadable s before ls a = .error (.hold s) := by
  unfold loadable
  rw [h]
  rfl

/-- A load behind a load of a stream to its bytes waits for that one (R192, R213). -/
theorem loadable_meets (s : State) (before : Nat) (ls : List Loc) (a : Word) (w : Need) (ws : List Need)
    (h : ownOut s before ls = false) (hw : streamsMeet s before ls = w :: ws) : loadable s before ls a = .error (awaitNeed s w) := by
  unfold loadable afterMeeting
  rw [h, hw]
  rfl

/-- What every earlier load comes before goes on exactly where no open stream of the agent has one to make (R188, R189). -/
theorem afterStreams_ok (s : State) (u : Unit) : afterStreams s = .ok u ↔ streamsOut s = [] := by
  unfold afterStreams
  cases streamsOut s <;> simp

/-- To wait for a load of a stream is to hold. -/
theorem awaitNeed_holds (s : State) (w : Need) : ∃ t, awaitNeed s w = .hold t := by
  unfold awaitNeed
  split <;> exact ⟨_, rfl⟩

/-- An agent with no open stream waits for none. -/
theorem streams_none (s : State) (before : Nat) (ls : List Loc) (h : ∀ n, n < 8 → (s.q n).isOpen = false) :
    streamsOut s = [] ∧ streamsMeet s before ls = [] := by
  have none : ownStreams s = [] := by
    unfold ownStreams
    rw [List.filter_eq_nil_iff]
    intro q hq
    obtain ⟨n, hn, rfl⟩ := List.mem_map.mp hq
    simp [h n (List.mem_range.mp hn)]
  exact ⟨by simp [streamsOut, none], by simp [streamsMeet, none]⟩

/-! ## Weirs -/

/-- Charges touch the interfaces alone, and depend on them alone. -/
theorem chargeAll_eq (moved : List Moved) (s t : State) (v : Nat) (h : t.vifs = s.vifs) :
    chargeAll t v moved = { t with vifs := (chargeAll s v moved).vifs } := by
  induction moved generalizing s t with
  | nil => simp [chargeAll, ← h]
  | cons m l ih =>
    have step : ∀ u : State, chargeAll u v (m :: l)
        = chargeAll ((weirOf m.space).elim u fun w => charge u v w m.bytes) v l := fun u => by
      cases hw : weirOf m.space <;> simp [chargeAll, hw]
    rw [step, step]
    cases weirOf m.space with
    | none => exact ih s t h
    | some w =>
      simp only [Option.elim]
      rw [ih (charge s v w m.bytes) (charge t v w m.bytes) (charge_vifs s t v w m.bytes h), State.charge_eq t]

/-- An instruction whose weirs are open is charged and its translations used, and it goes on with nothing else changed (R293,
R307). -/
theorem issueAll_open (s t : State) (moved : List Moved) (h : t.vifs = s.vifs) (hw : weirsOpen s moved = true) :
    issueAll s t moved = .ok { t.useTlb (moved.flatMap (·.used)) with vifs := chargedVifs s moved } := by
  unfold issueAll chargedVifs
  unfold weirsOpen at hw
  cases hv : s.myVif with
  | none => simp only [← h]; rw [← State.useTlb_vifs t (moved.flatMap (·.used))]
  | some v =>
    rw [hv] at hw
    simp only at hw
    simp only [hw, if_true]
    rw [chargeAll_eq moved s (t.useTlb (moved.flatMap (·.used))) v (by simp [h])]

/-- One that needs an exhausted weir holds, and changes nothing (R295). -/
theorem issueAll_closed (s t : State) (moved : List Moved) (hw : weirsOpen s moved = false) : issueAll s t moved = .error (.hold s) := by
  unfold issueAll
  unfold weirsOpen at hw
  cases hv : s.myVif with
  | none => simp [hv] at hw
  | some v => rw [hv] at hw; simp only at hw; simp [hw]

/-- Accesses touch the budgets, and of the current core the order of its TLB, alone (R293, R307). -/
theorem accessed_frame (s : State) (moved : List Moved) :
    { accessed s moved with vifs := s.vifs, cores := s.cores } = s ∧ OtherCores s (accessed s moved)
      ∧ { (accessed s moved).me with tlb := s.me.tlb } = s.me ∧ (accessed s moved).ctx = s.ctx := by
  unfold accessed State.useTlb
  split
  · exact ⟨rfl, fun _ _ => rfl, rfl, rfl⟩
  · have hm : ({ s.setMe (s.me.useEntries (moved.flatMap (·.used))) with vifs := chargedVifs s moved } : State).me
        = s.me.useEntries (moved.flatMap (·.used)) := State.me_setMe s _
    refine ⟨rfl, fun d h => State.core_setMe_other s d _ h, ?_, ?_⟩
    · rw [hm]; rfl
    · unfold State.ctx; rw [hm]; rfl

/-! ## Stores -/

/-- Every piece of a cut lies within what was cut. -/
theorem mem_cutAt (g f a : Nat) (bs : List Byte) (bad : List Bool) :
    ∀ p ∈ cutAt g f a bs bad, a ≤ p.1 ∧ p.1 + p.2.1.length ≤ a + bs.length := by
  induction f generalizing a bs bad with
  | zero => intro p hp; simp [cutAt] at hp
  | succ f ih =>
    intro p hp
    unfold cutAt at hp
    split at hp
    · simp at hp
    · rcases List.mem_cons.mp hp with rfl | hp
      · exact ⟨Nat.le_refl _, by rw [List.length_take]; omega⟩
      · have := ih _ _ _ p hp
        rw [List.length_drop] at this
        by_cases hl : bs.length ≤ g - a % g
        · have hz : bs.length - (g - a % g) = 0 := by omega
          have hd : bs.drop (g - a % g) = [] := List.drop_eq_nil_of_le hl
          rw [hd] at hp
          cases f with
          | zero => simp [cutAt] at hp
          | succ f => simp [cutAt] at hp
        · omega

/-- A store to one run changes memory and the stores in flight alone. -/
theorem storeLoc_eq (s : State) (l : Loc) (bs : List Byte) (bad : List Bool) (tags : List Nat) :
    { storeLoc s l bs bad tags with mem := s.mem, stores := s.stores, seq := s.seq } = s := by
  unfold storeLoc
  split
  · rfl
  · split <;> rfl

theorem storeLocs_eq (ls : List Loc) (s : State) (bs : List Byte) (bad : List Bool) (tags : List Nat) :
    { storeLocs s ls bs bad tags with mem := s.mem, stores := s.stores, seq := s.seq } = s := by
  induction ls generalizing s bs bad tags with
  | nil => rfl
  | cons l t ih =>
    have h := ih (storeLoc s l (bs.take l.len) (bad.take l.len) (tags.filter (· < l.len))) (bs.drop l.len) (bad.drop l.len)
      ((tags.filter (l.len ≤ ·)).map (· - l.len))
    have h1 := storeLoc_eq s l (bs.take l.len) (bad.take l.len) (tags.filter (· < l.len))
    unfold storeLocs
    generalize storeLoc s l (bs.take l.len) (bad.take l.len) (tags.filter (· < l.len)) = u at h h1 ⊢
    generalize storeLocs u t (bs.drop l.len) (bad.drop l.len) ((tags.filter (l.len ≤ ·)).map (· - l.len)) = w at h ⊢
    calc _ = { ({ w with mem := u.mem, stores := u.stores, seq := u.seq } : State) with mem := s.mem, stores := s.stores, seq := s.seq } := rfl
      _ = _ := by rw [h]; exact h1

/-- A piece performed leaves every byte outside it. -/
theorem byteAt_perform_other (f : InFlight) (m : Memory) (b : Nat) (h : b < f.addr ∨ f.addr + f.bytes.length ≤ b) :
    (f.perform m).byteAt b = m.byteAt b := by
  simp only [InFlight.perform, Memory.byteAt_setTags, Memory.byteAt_write]
  rw [if_neg (by omega)]

/-- A piece performed reads as its bytes (R181). -/
theorem read_perform (f : InFlight) (m : Memory) : (f.perform m).read f.addr f.bytes.length = f.bytes :=
  Memory.read_write m f.addr f.bytes f.poison

theorem wf_perform (f : InFlight) (m : Memory) (h : m.wf) : (f.perform m).wf := Memory.wf_setTags _ _ (Memory.wf_write _ _ _ _ h)

theorem not_inLocs (l : Loc) (b : Nat) (h : inLocs [l] b = false) : b < l.addr ∨ l.addr + l.len ≤ b := by
  simp only [inLocs, List.any_cons, List.any_nil, Bool.or_false, Bool.and_eq_false_iff, decide_eq_false_iff_not] at h
  omega

/-- A store to one run leaves every byte outside it, and what it sends on its way lies within it. -/
theorem storeFrame_storeLoc (s : State) (l : Loc) (bs : List Byte) (bad : List Bool) (tags : List Nat) (h : bs.length ≤ l.len) :
    StoreFrame s (storeLoc s l bs bad tags) [l] := by
  unfold storeLoc
  split
  · exact ⟨fun b _ => rfl, [], by simp, by simp⟩
  · split
    · refine ⟨fun b hb => ?_, [], by simp, by simp⟩
      have ho := not_inLocs l b hb
      simp only [Memory.byteAt_setTags, Memory.byteAt_write]
      rw [if_neg (by omega)]
    · refine ⟨fun b _ => rfl, _, rfl, ?_⟩
      intro f hf i hi
      obtain ⟨p, hp, rfl⟩ := List.mem_map.mp hf
      have := mem_cutAt l.granule _ l.addr bs bad p hp
      simp only [inFlight] at hi ⊢
      simp only [inLocs, List.any_cons, List.any_nil, Bool.or_false, Bool.and_eq_true, decide_eq_true_eq]
      omega

theorem inLocs_append (ls ms : List Loc) (b : Nat) : inLocs (ls ++ ms) b = (inLocs ls b || inLocs ms b) := by
  simp [inLocs, List.any_append]

/-- One store after another. -/
theorem StoreFrame.trans {s t u : State} {ls ms : List Loc} (h : StoreFrame s t ls) (k : StoreFrame t u ms) : StoreFrame s u (ls ++ ms) := by
  obtain ⟨h1, a, h2, h3⟩ := h
  obtain ⟨k1, b, k2, k3⟩ := k
  refine ⟨fun x hx => ?_, a ++ b, by rw [k2, h2, List.append_assoc], fun f hf i hi => ?_⟩
  · rw [inLocs_append, Bool.or_eq_false_iff] at hx
    exact (k1 x hx.2).trans (h1 x hx.1)
  · rw [inLocs_append, Bool.or_eq_true]
    rcases List.mem_append.mp hf with hf | hf
    · exact .inl (h3 f hf i hi)
    · exact .inr (k3 f hf i hi)

/-- A store to runs leaves every byte outside them, and what it sends on its way lies within them. -/
theorem storeFrame_storeLocs (ls : List Loc) (s : State) (bs : List Byte) (bad : List Bool) (tags : List Nat) :
    StoreFrame s (storeLocs s ls bs bad tags) ls := by
  induction ls generalizing s bs bad tags with
  | nil => exact ⟨fun b _ => rfl, [], by simp [storeLocs], by simp⟩
  | cons l t ih =>
    have h1 := storeFrame_storeLoc s l (bs.take l.len) (bad.take l.len) (tags.filter (· < l.len)) (List.length_take_le _ _)
    exact StoreFrame.trans h1 (ih _ _ _ _)

/-- A store to runs keeps memory canonical. -/
theorem wf_storeLoc (s : State) (l : Loc) (bs : List Byte) (bad : List Bool) (tags : List Nat) (h : s.mem.wf) :
    (storeLoc s l bs bad tags).mem.wf := by
  unfold storeLoc
  split
  · exact h
  · split
    · exact Memory.wf_setTags _ _ (Memory.wf_write s.mem l.addr bs (badGranules l.addr bad) h)
    · exact h

theorem wf_storeLocs (ls : List Loc) (s : State) (bs : List Byte) (bad : List Bool) (tags : List Nat) (h : s.mem.wf) :
    (storeLocs s ls bs bad tags).mem.wf := by
  induction ls generalizing s bs bad tags with
  | nil => exact h
  | cons l t ih => exact ih _ _ _ _ (wf_storeLoc s l _ _ _ h)

/-- What a core stores to one run of its own pool is there at once (R185). -/
theorem storeLoc_own (s : State) (l : Loc) (bs : List Byte) (bad : List Bool) (tags : List Nat) (hs : l.sink = false) (ho : l.own = true) :
    (storeLoc s l bs bad tags).mem.read l.addr bs.length = bs := by
  unfold storeLoc
  rw [if_neg (by simp [hs]), if_pos ho]
  exact Memory.read_write s.mem l.addr bs (badGranules l.addr bad)

/-! ## The pool -/

/-- A run of bytes written leaves all memory outside it, if the granules that it poisons meet it. -/
theorem sameOutside_write (m : Memory) (a : Nat) (bs : List Byte) (bad : List Nat)
    (h : ∀ g ∈ bad, a < 32 * g + 32 ∧ 32 * g < a + bs.length) : SameOutside m (m.write a bs bad) a bs.length := by
  refine ⟨fun b hb => ?_, fun g hg => ?_, fun g hg => ?_⟩
  · rw [Memory.byteAt_write, if_neg (by omega)]
  · simp only [Memory.write, mem_insertNats, List.mem_filter, decide_eq_true_eq]
    constructor
    · rintro (hx | hx)
      · have := h g hx; omega
      · exact hx.1
    · intro hx
      exact .inr ⟨hx, by omega⟩
  · simp only [Memory.write]
    split
    · exact Iff.rfl
    · rename_i he
      have hl : 0 < bs.length := List.length_pos_iff.mpr (by simpa using he)
      simp only [List.mem_filter, decide_eq_true_eq]
      constructor
      · exact fun hx => hx.1
      · intro hx
        refine ⟨hx, ?_⟩
        omega

/-- A vector register reads as it was written. -/
theorem vset_read (s : State) (n v : Nat) (bad : List Nat) : (vset s n v bad).mem.read (poolAddr s.cur (128 * n)) 128 = bytesOfNat 128 v := by
  have := Memory.read_write s.mem (poolAddr s.cur (128 * n)) (bytesOfNat 128 v) (bad.map fun o => (poolAddr s.cur 0 + o) / 32)
  rw [length_bytesOfNat] at this
  exact this

theorem vset_eq (s : State) (n v : Nat) (bad : List Nat) : { vset s n v bad with mem := s.mem } = s := rfl

/-! ## Taking a trap (R321 to R324) -/

theorem takeTrap_user (s : State) (c : Cause) (v : Word) (h : s.ctx.level = .user) : takeTrap s c v = stewardEntry s c v := by
  unfold takeTrap; rw [h]

theorem takeTrap_supervisor (s : State) (c : Cause) (v : Word) (h : s.ctx.level = .supervisor) : takeTrap s c v = machineEntry s c.code v := by
  unfold takeTrap; rw [h]

theorem takeTrap_machine (s : State) (c : Cause) (v : Word) (h : s.ctx.level = .machine) : takeTrap s c v = doubleTrap s := by
  unfold takeTrap; rw [h]

/-- The steward starts at offset 0 with the trap's registers; the other cores, and all but memory, stay. -/
theorem stewardEntry_ctx (s : State) (c : Cause) (v : Word) : let t := stewardEntry s c v
    t.ctx.pc = 0 ∧ t.ctx.level = .supervisor ∧ t.ctx.space = .handler ∧ t.ctx.tcause = BitVec.ofNat 64 c.code ∧ t.ctx.tvalue = v
      ∧ t.ctx.tpc = BitVec.ofNat 64 s.ctx.pc ∧ t.ctx.tstatus = statusWord s.ctx ∧ t.me.hold = .none ∧ OtherCores s t
      ∧ { t with cores := s.cores, mem := s.mem } = s := by
  unfold stewardEntry
  simp only [State.ctx, State.me_setMe]
  exact ⟨trivial, trivial, trivial, trivial, trivial, trivial, trivial, trivial, fun d h => State.core_setCore_other _ _ _ _ h, rfl⟩

theorem wf_putBlock (m : Memory) (a : Nat) (b : List Byte) (t : Ctx) (h : m.wf) : (putBlock m a b t).wf := by
  unfold putBlock
  have : ∀ (l : List (Nat × Bool)) (m : Memory), m.wf → (l.foldl (fun m p => if p.2 then m.setTag (a + p.1) else m) m).wf := by
    intro l
    induction l with
    | nil => intro m h; exact h
    | cons p l ih =>
      intro m h
      simp only [List.foldl_cons]
      split
      · exact ih _ (Memory.wf_setTag _ _ h)
      · exact ih _ h
  exact this _ _ (Memory.wf_write _ _ _ _ h)

theorem wf_stewardEntry (s : State) (c : Cause) (v : Word) (h : s.mem.wf) : (stewardEntry s c v).mem.wf := wf_putBlock _ _ _ _ h

/-- The resident handler starts at offset 0, with the context set aside; only the current core changes. -/
theorem machineEntry_ctx (s : State) (c : Nat) (v : Word) : let t := machineEntry s c v
    t.ctx = { s.ctx with pc := 0, level := .machine, space := .handler, inev := false } ∧ t.me.saved = some s.ctx ∧ t.me.hold = .none
      ∧ t.me.mcause = BitVec.ofNat 64 c ∧ t.me.mvalue = v ∧ t.me.mpc = BitVec.ofNat 64 s.ctx.pc ∧ t.me.mstatus = statusWord s.ctx
      ∧ OtherCores s t ∧ { t with cores := s.cores } = s := by
  unfold machineEntry
  simp only [State.ctx, State.me_setMe]
  exact ⟨rfl, rfl, rfl, rfl, rfl, rfl, rfl, fun d h => State.core_setCore_other _ _ _ _ h, rfl⟩

/-! ## Spill rings (R335) -/

/-- SPILL of a record is memory's alone. -/
theorem writeSpill_eq (s : State) (c : CoreId) (x : Nat) : { writeSpill s c x with mem := s.mem } = s := by
  unfold writeSpill; split <;> rfl

/-- Where the reaction is not evicted there is no record to write. -/
theorem writeSpill_none (s : State) (c : CoreId) (x : Nat) (h : evictedAt s c x = none) : writeSpill s c x = s := by
  unfold writeSpill; rw [h]

/-- No byte outside SPILL of the record changes, and SPILL begins with the ring's entries. -/
theorem writeSpill_mem (s : State) (c : CoreId) (x a : Nat) (h : evictedAt s c x = some a) :
    let bs := (((s.core c).ring.filter (·.x == x)).flatMap fun e => entryBytes e.item).take ringBytes
    (∀ b, b < a + spillOffset ∨ a + spillOffset + ringBytes ≤ b → (writeSpill s c x).mem.byteAt b = s.mem.byteAt b)
      ∧ (writeSpill s c x).mem.read (a + spillOffset) bs.length = bs := by
  intro bs
  have hl : bs.length ≤ ringBytes := by simp only [bs, List.length_take]; omega
  unfold writeSpill
  rw [h]
  refine ⟨fun b hb => ?_, Memory.read_write _ _ _ _⟩
  show ((s.mem.clear (a + spillOffset) ringBytes).write (a + spillOffset) bs []).byteAt b = _
  rw [Memory.byteAt_write, if_neg (by omega), Memory.byteAt_clear, if_neg (by omega)]

theorem wf_writeSpill (s : State) (c : CoreId) (x : Nat) (h : s.mem.wf) : (writeSpill s c x).mem.wf := by
  unfold writeSpill
  split
  · exact h
  · exact Memory.wf_write _ _ _ _ (Memory.wf_clear _ _ _ h)

/-- A ring takes an item exactly where it has room for it, and then nothing but the ring and SPILL of its record changes. -/
theorem ringPut_eq (s : State) (c : CoreId) (x : Nat) (i : RingItem) : ringPut s c x i =
    if ringUse (s.core c) x + itemBytes i ≤ ringBytes then
      some (writeSpill (s.setCore c { s.core c with ring := (s.core c).ring ++ [⟨x, i⟩] }) c x) else none := rfl

end Sys2Proof
end

