-- ==== Sys2Proof/Laws/PerInstr.lean ====
section
/-! SUPPORT. One lemma per instruction: its fields fill no more than the 32 bits of a word (R71, R72). -/

namespace Sys2Proof.Laws.Encoding

/-- The fields of the word of an instruction end at bit 31; an event has no word, and 0 stands for it. -/
def Statement (i : Instr) : Prop := i.encodeNat < 2 ^ 32

theorem add (a1 : BitVec 5) (b1 : BitVec 5) (c1 : BitVec 5) : Statement (.add a1 b1 c1) := by
  have := a1.isLt; have := b1.isLt; have := c1.isLt
  show 0x04000000 + a1.toNat * 2097152 + b1.toNat * 65536 + c1.toNat * 2048 < 4294967296
  omega
theorem sub (a1 : BitVec 5) (b1 : BitVec 5) (c1 : BitVec 5) : Statement (.sub a1 b1 c1) := by
  have := a1.isLt; have := b1.isLt; have := c1.isLt
  show 0x04000040 + a1.toNat * 2097152 + b1.toNat * 65536 + c1.toNat * 2048 < 4294967296
  omega
theorem and (a1 : BitVec 5) (b1 : BitVec 5) (c1 : BitVec 5) : Statement (.and a1 b1 c1) := by
  have := a1.isLt; have := b1.isLt; have := c1.isLt
  show 0x04000080 + a1.toNat * 2097152 + b1.toNat * 65536 + c1.toNat * 2048 < 4294967296
  omega
theorem or (a1 : BitVec 5) (b1 : BitVec 5) (c1 : BitVec 5) : Statement (.or a1 b1 c1) := by
  have := a1.isLt; have := b1.isLt; have := c1.isLt
  show 0x040000C0 + a1.toNat * 2097152 + b1.toNat * 65536 + c1.toNat * 2048 < 4294967296
  omega
theorem xor (a1 : BitVec 5) (b1 : BitVec 5) (c1 : BitVec 5) : Statement (.xor a1 b1 c1) := by
  have := a1.isLt; have := b1.isLt; have := c1.isLt
  show 0x04000100 + a1.toNat * 2097152 + b1.toNat * 65536 + c1.toNat * 2048 < 4294967296
  omega
theorem sll (a1 : BitVec 5) (b1 : BitVec 5) (c1 : BitVec 5) : Statement (.sll a1 b1 c1) := by
  have := a1.isLt; have := b1.isLt; have := c1.isLt
  show 0x04000140 + a1.toNat * 2097152 + b1.toNat * 65536 + c1.toNat * 2048 < 4294967296
  omega
theorem srl (a1 : BitVec 5) (b1 : BitVec 5) (c1 : BitVec 5) : Statement (.srl a1 b1 c1) := by
  have := a1.isLt; have := b1.isLt; have := c1.isLt
  show 0x04000180 + a1.toNat * 2097152 + b1.toNat * 65536 + c1.toNat * 2048 < 4294967296
  omega
theorem sra (a1 : BitVec 5) (b1 : BitVec 5) (c1 : BitVec 5) : Statement (.sra a1 b1 c1) := by
  have := a1.isLt; have := b1.isLt; have := c1.isLt
  show 0x040001C0 + a1.toNat * 2097152 + b1.toNat * 65536 + c1.toNat * 2048 < 4294967296
  omega
theorem sllImm (a1 : BitVec 5) (b1 : BitVec 5) (c1 : BitVec 6) : Statement (.sllImm a1 b1 c1) := by
  have := a1.isLt; have := b1.isLt; have := c1.isLt
  show 0x04000200 + a1.toNat * 2097152 + b1.toNat * 65536 + c1.toNat * 1 < 4294967296
  omega
theorem srlImm (a1 : BitVec 5) (b1 : BitVec 5) (c1 : BitVec 6) : Statement (.srlImm a1 b1 c1) := by
  have := a1.isLt; have := b1.isLt; have := c1.isLt
  show 0x04000240 + a1.toNat * 2097152 + b1.toNat * 65536 + c1.toNat * 1 < 4294967296
  omega
theorem sraImm (a1 : BitVec 5) (b1 : BitVec 5) (c1 : BitVec 6) : Statement (.sraImm a1 b1 c1) := by
  have := a1.isLt; have := b1.isLt; have := c1.isLt
  show 0x04000280 + a1.toNat * 2097152 + b1.toNat * 65536 + c1.toNat * 1 < 4294967296
  omega
theorem mul (a1 : BitVec 5) (b1 : BitVec 5) (c1 : BitVec 5) : Statement (.mul a1 b1 c1) := by
  have := a1.isLt; have := b1.isLt; have := c1.isLt
  show 0x040002C0 + a1.toNat * 2097152 + b1.toNat * 65536 + c1.toNat * 2048 < 4294967296
  omega
theorem mulh (a1 : BitVec 5) (b1 : BitVec 5) (c1 : BitVec 5) : Statement (.mulh a1 b1 c1) := by
  have := a1.isLt; have := b1.isLt; have := c1.isLt
  show 0x04000300 + a1.toNat * 2097152 + b1.toNat * 65536 + c1.toNat * 2048 < 4294967296
  omega
theorem mulhn (a1 : BitVec 5) (b1 : BitVec 5) (c1 : BitVec 5) : Statement (.mulhn a1 b1 c1) := by
  have := a1.isLt; have := b1.isLt; have := c1.isLt
  show 0x04000340 + a1.toNat * 2097152 + b1.toNat * 65536 + c1.toNat * 2048 < 4294967296
  omega
theorem div (a1 : BitVec 5) (b1 : BitVec 5) (c1 : BitVec 5) : Statement (.div a1 b1 c1) := by
  have := a1.isLt; have := b1.isLt; have := c1.isLt
  show 0x04000380 + a1.toNat * 2097152 + b1.toNat * 65536 + c1.toNat * 2048 < 4294967296
  omega
theorem divn (a1 : BitVec 5) (b1 : BitVec 5) (c1 : BitVec 5) : Statement (.divn a1 b1 c1) := by
  have := a1.isLt; have := b1.isLt; have := c1.isLt
  show 0x040003C0 + a1.toNat * 2097152 + b1.toNat * 65536 + c1.toNat * 2048 < 4294967296
  omega
theorem rem (a1 : BitVec 5) (b1 : BitVec 5) (c1 : BitVec 5) : Statement (.rem a1 b1 c1) := by
  have := a1.isLt; have := b1.isLt; have := c1.isLt
  show 0x04000400 + a1.toNat * 2097152 + b1.toNat * 65536 + c1.toNat * 2048 < 4294967296
  omega
theorem remn (a1 : BitVec 5) (b1 : BitVec 5) (c1 : BitVec 5) : Statement (.remn a1 b1 c1) := by
  have := a1.isLt; have := b1.isLt; have := c1.isLt
  show 0x04000440 + a1.toNat * 2097152 + b1.toNat * 65536 + c1.toNat * 2048 < 4294967296
  omega
theorem slt (a1 : BitVec 5) (b1 : BitVec 5) (c1 : BitVec 5) : Statement (.slt a1 b1 c1) := by
  have := a1.isLt; have := b1.isLt; have := c1.isLt
  show 0x04000480 + a1.toNat * 2097152 + b1.toNat * 65536 + c1.toNat * 2048 < 4294967296
  omega
theorem sltn (a1 : BitVec 5) (b1 : BitVec 5) (c1 : BitVec 5) : Statement (.sltn a1 b1 c1) := by
  have := a1.isLt; have := b1.isLt; have := c1.isLt
  show 0x040004C0 + a1.toNat * 2097152 + b1.toNat * 65536 + c1.toNat * 2048 < 4294967296
  omega
theorem min (a1 : BitVec 5) (b1 : BitVec 5) (c1 : BitVec 5) : Statement (.min a1 b1 c1) := by
  have := a1.isLt; have := b1.isLt; have := c1.isLt
  show 0x04000500 + a1.toNat * 2097152 + b1.toNat * 65536 + c1.toNat * 2048 < 4294967296
  omega
theorem max (a1 : BitVec 5) (b1 : BitVec 5) (c1 : BitVec 5) : Statement (.max a1 b1 c1) := by
  have := a1.isLt; have := b1.isLt; have := c1.isLt
  show 0x04000540 + a1.toNat * 2097152 + b1.toNat * 65536 + c1.toNat * 2048 < 4294967296
  omega
theorem minn (a1 : BitVec 5) (b1 : BitVec 5) (c1 : BitVec 5) : Statement (.minn a1 b1 c1) := by
  have := a1.isLt; have := b1.isLt; have := c1.isLt
  show 0x04000580 + a1.toNat * 2097152 + b1.toNat * 65536 + c1.toNat * 2048 < 4294967296
  omega
theorem maxn (a1 : BitVec 5) (b1 : BitVec 5) (c1 : BitVec 5) : Statement (.maxn a1 b1 c1) := by
  have := a1.isLt; have := b1.isLt; have := c1.isLt
  show 0x040005C0 + a1.toNat * 2097152 + b1.toNat * 65536 + c1.toNat * 2048 < 4294967296
  omega
theorem addi (a1 : BitVec 5) (b1 : BitVec 5) (c1 : BitVec 16) : Statement (.addi a1 b1 c1) := by
  have := a1.isLt; have := b1.isLt; have := c1.isLt
  show 0x08000000 + a1.toNat * 2097152 + b1.toNat * 65536 + c1.toNat * 1 < 4294967296
  omega
theorem lih (a1 : BitVec 5) (b1 : BitVec 5) (c1 : BitVec 16) : Statement (.lih a1 b1 c1) := by
  have := a1.isLt; have := b1.isLt; have := c1.isLt
  show 0x0C000000 + a1.toNat * 2097152 + b1.toNat * 65536 + c1.toNat * 1 < 4294967296
  omega
theorem andi (a1 : BitVec 5) (b1 : BitVec 5) (c1 : BitVec 16) : Statement (.andi a1 b1 c1) := by
  have := a1.isLt; have := b1.isLt; have := c1.isLt
  show 0x10000000 + a1.toNat * 2097152 + b1.toNat * 65536 + c1.toNat * 1 < 4294967296
  omega
theorem ori (a1 : BitVec 5) (b1 : BitVec 5) (c1 : BitVec 16) : Statement (.ori a1 b1 c1) := by
  have := a1.isLt; have := b1.isLt; have := c1.isLt
  show 0x14000000 + a1.toNat * 2097152 + b1.toNat * 65536 + c1.toNat * 1 < 4294967296
  omega
theorem xori (a1 : BitVec 5) (b1 : BitVec 5) (c1 : BitVec 16) : Statement (.xori a1 b1 c1) := by
  have := a1.isLt; have := b1.isLt; have := c1.isLt
  show 0x18000000 + a1.toNat * 2097152 + b1.toNat * 65536 + c1.toNat * 1 < 4294967296
  omega
theorem beq (a1 : BitVec 5) (b1 : BitVec 5) (c1 : BitVec 16) : Statement (.beq a1 b1 c1) := by
  have := a1.isLt; have := b1.isLt; have := c1.isLt
  show 0x20000000 + a1.toNat * 2097152 + b1.toNat * 65536 + c1.toNat * 1 < 4294967296
  omega
theorem bne (a1 : BitVec 5) (b1 : BitVec 5) (c1 : BitVec 16) : Statement (.bne a1 b1 c1) := by
  have := a1.isLt; have := b1.isLt; have := c1.isLt
  show 0x24000000 + a1.toNat * 2097152 + b1.toNat * 65536 + c1.toNat * 1 < 4294967296
  omega
theorem blt (a1 : BitVec 5) (b1 : BitVec 5) (c1 : BitVec 16) : Statement (.blt a1 b1 c1) := by
  have := a1.isLt; have := b1.isLt; have := c1.isLt
  show 0x28000000 + a1.toNat * 2097152 + b1.toNat * 65536 + c1.toNat * 1 < 4294967296
  omega
theorem bge (a1 : BitVec 5) (b1 : BitVec 5) (c1 : BitVec 16) : Statement (.bge a1 b1 c1) := by
  have := a1.isLt; have := b1.isLt; have := c1.isLt
  show 0x2C000000 + a1.toNat * 2097152 + b1.toNat * 65536 + c1.toNat * 1 < 4294967296
  omega
theorem bltn (a1 : BitVec 5) (b1 : BitVec 5) (c1 : BitVec 16) : Statement (.bltn a1 b1 c1) := by
  have := a1.isLt; have := b1.isLt; have := c1.isLt
  show 0x30000000 + a1.toNat * 2097152 + b1.toNat * 65536 + c1.toNat * 1 < 4294967296
  omega
theorem bgen (a1 : BitVec 5) (b1 : BitVec 5) (c1 : BitVec 16) : Statement (.bgen a1 b1 c1) := by
  have := a1.isLt; have := b1.isLt; have := c1.isLt
  show 0x34000000 + a1.toNat * 2097152 + b1.toNat * 65536 + c1.toNat * 1 < 4294967296
  omega
theorem jal (a1 : BitVec 5) (b1 : BitVec 21) : Statement (.jal a1 b1) := by
  have := a1.isLt; have := b1.isLt
  show 0x38000000 + a1.toNat * 2097152 + b1.toNat * 1 < 4294967296
  omega
theorem jalr (a1 : BitVec 5) (b1 : BitVec 5) (c1 : BitVec 16) : Statement (.jalr a1 b1 c1) := by
  have := a1.isLt; have := b1.isLt; have := c1.isLt
  show 0x3C000000 + a1.toNat * 2097152 + b1.toNat * 65536 + c1.toNat * 1 < 4294967296
  omega
theorem ldb (a1 : BitVec 5) (b1 : BitVec 4) (c1 : BitVec 5) (d1 : BitVec 2) (e1 : BitVec 9) : Statement (.ldb a1 b1 c1 d1 e1) := by
  have := a1.isLt; have := b1.isLt; have := c1.isLt; have := d1.isLt; have := e1.isLt
  show 0x40000000 + a1.toNat * 1048576 + b1.toNat * 65536 + c1.toNat * 2048 + d1.toNat * 512 + e1.toNat * 1 < 4294967296
  omega
theorem ldbn (a1 : BitVec 5) (b1 : BitVec 4) (c1 : BitVec 5) (d1 : BitVec 2) (e1 : BitVec 9) : Statement (.ldbn a1 b1 c1 d1 e1) := by
  have := a1.isLt; have := b1.isLt; have := c1.isLt; have := d1.isLt; have := e1.isLt
  show 0x44000000 + a1.toNat * 1048576 + b1.toNat * 65536 + c1.toNat * 2048 + d1.toNat * 512 + e1.toNat * 1 < 4294967296
  omega
theorem ldh (a1 : BitVec 5) (b1 : BitVec 4) (c1 : BitVec 5) (d1 : BitVec 2) (e1 : BitVec 9) : Statement (.ldh a1 b1 c1 d1 e1) := by
  have := a1.isLt; have := b1.isLt; have := c1.isLt; have := d1.isLt; have := e1.isLt
  show 0x48000000 + a1.toNat * 1048576 + b1.toNat * 65536 + c1.toNat * 2048 + d1.toNat * 512 + e1.toNat * 1 < 4294967296
  omega
theorem ldhn (a1 : BitVec 5) (b1 : BitVec 4) (c1 : BitVec 5) (d1 : BitVec 2) (e1 : BitVec 9) : Statement (.ldhn a1 b1 c1 d1 e1) := by
  have := a1.isLt; have := b1.isLt; have := c1.isLt; have := d1.isLt; have := e1.isLt
  show 0x4C000000 + a1.toNat * 1048576 + b1.toNat * 65536 + c1.toNat * 2048 + d1.toNat * 512 + e1.toNat * 1 < 4294967296
  omega
theorem ldw (a1 : BitVec 5) (b1 : BitVec 4) (c1 : BitVec 5) (d1 : BitVec 2) (e1 : BitVec 9) : Statement (.ldw a1 b1 c1 d1 e1) := by
  have := a1.isLt; have := b1.isLt; have := c1.isLt; have := d1.isLt; have := e1.isLt
  show 0x50000000 + a1.toNat * 1048576 + b1.toNat * 65536 + c1.toNat * 2048 + d1.toNat * 512 + e1.toNat * 1 < 4294967296
  omega
theorem ldwn (a1 : BitVec 5) (b1 : BitVec 4) (c1 : BitVec 5) (d1 : BitVec 2) (e1 : BitVec 9) : Statement (.ldwn a1 b1 c1 d1 e1) := by
  have := a1.isLt; have := b1.isLt; have := c1.isLt; have := d1.isLt; have := e1.isLt
  show 0x54000000 + a1.toNat * 1048576 + b1.toNat * 65536 + c1.toNat * 2048 + d1.toNat * 512 + e1.toNat * 1 < 4294967296
  omega
theorem ldd (a1 : BitVec 5) (b1 : BitVec 4) (c1 : BitVec 5) (d1 : BitVec 2) (e1 : BitVec 9) : Statement (.ldd a1 b1 c1 d1 e1) := by
  have := a1.isLt; have := b1.isLt; have := c1.isLt; have := d1.isLt; have := e1.isLt
  show 0x58000000 + a1.toNat * 1048576 + b1.toNat * 65536 + c1.toNat * 2048 + d1.toNat * 512 + e1.toNat * 1 < 4294967296
  omega
theorem ldk (a1 : BitVec 4) (b1 : BitVec 4) (c1 : BitVec 5) (d1 : BitVec 2) (e1 : BitVec 9) : Statement (.ldk a1 b1 c1 d1 e1) := by
  have := a1.isLt; have := b1.isLt; have := c1.isLt; have := d1.isLt; have := e1.isLt
  show 0x5C000000 + a1.toNat * 1048576 + b1.toNat * 65536 + c1.toNat * 2048 + d1.toNat * 512 + e1.toNat * 1 < 4294967296
  omega
theorem stb (a1 : BitVec 5) (b1 : BitVec 4) (c1 : BitVec 5) (d1 : BitVec 2) (e1 : BitVec 9) : Statement (.stb a1 b1 c1 d1 e1) := by
  have := a1.isLt; have := b1.isLt; have := c1.isLt; have := d1.isLt; have := e1.isLt
  show 0x60000000 + a1.toNat * 1048576 + b1.toNat * 65536 + c1.toNat * 2048 + d1.toNat * 512 + e1.toNat * 1 < 4294967296
  omega
theorem sth (a1 : BitVec 5) (b1 : BitVec 4) (c1 : BitVec 5) (d1 : BitVec 2) (e1 : BitVec 9) : Statement (.sth a1 b1 c1 d1 e1) := by
  have := a1.isLt; have := b1.isLt; have := c1.isLt; have := d1.isLt; have := e1.isLt
  show 0x64000000 + a1.toNat * 1048576 + b1.toNat * 65536 + c1.toNat * 2048 + d1.toNat * 512 + e1.toNat * 1 < 4294967296
  omega
theorem stw (a1 : BitVec 5) (b1 : BitVec 4) (c1 : BitVec 5) (d1 : BitVec 2) (e1 : BitVec 9) : Statement (.stw a1 b1 c1 d1 e1) := by
  have := a1.isLt; have := b1.isLt; have := c1.isLt; have := d1.isLt; have := e1.isLt
  show 0x68000000 + a1.toNat * 1048576 + b1.toNat * 65536 + c1.toNat * 2048 + d1.toNat * 512 + e1.toNat * 1 < 4294967296
  omega
theorem std (a1 : BitVec 5) (b1 : BitVec 4) (c1 : BitVec 5) (d1 : BitVec 2) (e1 : BitVec 9) : Statement (.std a1 b1 c1 d1 e1) := by
  have := a1.isLt; have := b1.isLt; have := c1.isLt; have := d1.isLt; have := e1.isLt
  show 0x6C000000 + a1.toNat * 1048576 + b1.toNat * 65536 + c1.toNat * 2048 + d1.toNat * 512 + e1.toNat * 1 < 4294967296
  omega
theorem stk (a1 : BitVec 4) (b1 : BitVec 4) (c1 : BitVec 5) (d1 : BitVec 2) (e1 : BitVec 9) : Statement (.stk a1 b1 c1 d1 e1) := by
  have := a1.isLt; have := b1.isLt; have := c1.isLt; have := d1.isLt; have := e1.isLt
  show 0x70000000 + a1.toNat * 1048576 + b1.toNat * 65536 + c1.toNat * 2048 + d1.toNat * 512 + e1.toNat * 1 < 4294967296
  omega
theorem amoAdd (a1 : BitVec 5) (b1 : BitVec 4) (c1 : BitVec 5) (d1 : BitVec 2) (e1 : BitVec 3) (f1 : BitVec 1) : Statement (.amoAdd a1 b1 c1 d1 e1 f1) := by
  have := a1.isLt; have := b1.isLt; have := c1.isLt; have := d1.isLt; have := e1.isLt; have := f1.isLt
  show 0x74000000 + a1.toNat * 1048576 + b1.toNat * 65536 + c1.toNat * 2048 + d1.toNat * 512 + e1.toNat * 8 + f1.toNat * 4 < 4294967296
  omega
theorem amoSwap (a1 : BitVec 5) (b1 : BitVec 4) (c1 : BitVec 5) (d1 : BitVec 2) (e1 : BitVec 3) (f1 : BitVec 1) : Statement (.amoSwap a1 b1 c1 d1 e1 f1) := by
  have := a1.isLt; have := b1.isLt; have := c1.isLt; have := d1.isLt; have := e1.isLt; have := f1.isLt
  show 0x74000040 + a1.toNat * 1048576 + b1.toNat * 65536 + c1.toNat * 2048 + d1.toNat * 512 + e1.toNat * 8 + f1.toNat * 4 < 4294967296
  omega
theorem amoCas (a1 : BitVec 5) (b1 : BitVec 4) (c1 : BitVec 5) (d1 : BitVec 2) (e1 : BitVec 3) (f1 : BitVec 1) : Statement (.amoCas a1 b1 c1 d1 e1 f1) := by
  have := a1.isLt; have := b1.isLt; have := c1.isLt; have := d1.isLt; have := e1.isLt; have := f1.isLt
  show 0x74000080 + a1.toNat * 1048576 + b1.toNat * 65536 + c1.toNat * 2048 + d1.toNat * 512 + e1.toNat * 8 + f1.toNat * 4 < 4294967296
  omega
theorem amoMax (a1 : BitVec 5) (b1 : BitVec 4) (c1 : BitVec 5) (d1 : BitVec 2) (e1 : BitVec 3) (f1 : BitVec 1) (g1 : BitVec 1) : Statement (.amoMax a1 b1 c1 d1 e1 f1 g1) := by
  have := a1.isLt; have := b1.isLt; have := c1.isLt; have := d1.isLt; have := e1.isLt; have := f1.isLt; have := g1.isLt
  show 0x740000C0 + a1.toNat * 1048576 + b1.toNat * 65536 + c1.toNat * 2048 + d1.toNat * 512 + e1.toNat * 8 + f1.toNat * 4 + g1.toNat * 2 < 4294967296
  omega
theorem amoMin (a1 : BitVec 5) (b1 : BitVec 4) (c1 : BitVec 5) (d1 : BitVec 2) (e1 : BitVec 3) (f1 : BitVec 1) (g1 : BitVec 1) : Statement (.amoMin a1 b1 c1 d1 e1 f1 g1) := by
  have := a1.isLt; have := b1.isLt; have := c1.isLt; have := d1.isLt; have := e1.isLt; have := f1.isLt; have := g1.isLt
  show 0x74000100 + a1.toNat * 1048576 + b1.toNat * 65536 + c1.toNat * 2048 + d1.toNat * 512 + e1.toNat * 8 + f1.toNat * 4 + g1.toNat * 2 < 4294967296
  omega
theorem amoAnd (a1 : BitVec 5) (b1 : BitVec 4) (c1 : BitVec 5) (d1 : BitVec 2) (e1 : BitVec 3) (f1 : BitVec 1) : Statement (.amoAnd a1 b1 c1 d1 e1 f1) := by
  have := a1.isLt; have := b1.isLt; have := c1.isLt; have := d1.isLt; have := e1.isLt; have := f1.isLt
  show 0x74000140 + a1.toNat * 1048576 + b1.toNat * 65536 + c1.toNat * 2048 + d1.toNat * 512 + e1.toNat * 8 + f1.toNat * 4 < 4294967296
  omega
theorem amoOr (a1 : BitVec 5) (b1 : BitVec 4) (c1 : BitVec 5) (d1 : BitVec 2) (e1 : BitVec 3) (f1 : BitVec 1) : Statement (.amoOr a1 b1 c1 d1 e1 f1) := by
  have := a1.isLt; have := b1.isLt; have := c1.isLt; have := d1.isLt; have := e1.isLt; have := f1.isLt
  show 0x74000180 + a1.toNat * 1048576 + b1.toNat * 65536 + c1.toNat * 2048 + d1.toNat * 512 + e1.toNat * 8 + f1.toNat * 4 < 4294967296
  omega
theorem vld (a1 : BitVec 6) (b1 : BitVec 4) (c1 : BitVec 5) (d1 : BitVec 2) (e1 : BitVec 4) (f1 : BitVec 5) : Statement (.vld a1 b1 c1 d1 e1 f1) := by
  have := a1.isLt; have := b1.isLt; have := c1.isLt; have := d1.isLt; have := e1.isLt; have := f1.isLt
  show 0x78000000 + a1.toNat * 1048576 + b1.toNat * 65536 + c1.toNat * 2048 + d1.toNat * 512 + e1.toNat * 32 + f1.toNat * 1 < 4294967296
  omega
theorem vst (a1 : BitVec 6) (b1 : BitVec 4) (c1 : BitVec 5) (d1 : BitVec 2) (e1 : BitVec 4) (f1 : BitVec 5) : Statement (.vst a1 b1 c1 d1 e1 f1) := by
  have := a1.isLt; have := b1.isLt; have := c1.isLt; have := d1.isLt; have := e1.isLt; have := f1.isLt
  show 0x7C000000 + a1.toNat * 1048576 + b1.toNat * 65536 + c1.toNat * 2048 + d1.toNat * 512 + e1.toNat * 32 + f1.toNat * 1 < 4294967296
  omega
theorem vadd (a1 : BitVec 6) (b1 : BitVec 6) (c1 : BitVec 6) (d1 : BitVec 4) (e1 : BitVec 3) (f1 : BitVec 1) : Statement (.vadd a1 b1 c1 d1 e1 f1) := by
  have := a1.isLt; have := b1.isLt; have := c1.isLt; have := d1.isLt; have := e1.isLt; have := f1.isLt
  show 0x80000000 + a1.toNat * 1048576 + b1.toNat * 16384 + c1.toNat * 256 + d1.toNat * 16 + e1.toNat * 2 + f1.toNat * 1 < 4294967296
  omega
theorem vsub (a1 : BitVec 6) (b1 : BitVec 6) (c1 : BitVec 6) (d1 : BitVec 4) (e1 : BitVec 3) (f1 : BitVec 1) : Statement (.vsub a1 b1 c1 d1 e1 f1) := by
  have := a1.isLt; have := b1.isLt; have := c1.isLt; have := d1.isLt; have := e1.isLt; have := f1.isLt
  show 0x84000000 + a1.toNat * 1048576 + b1.toNat * 16384 + c1.toNat * 256 + d1.toNat * 16 + e1.toNat * 2 + f1.toNat * 1 < 4294967296
  omega
theorem vmul (a1 : BitVec 6) (b1 : BitVec 6) (c1 : BitVec 6) (d1 : BitVec 4) (e1 : BitVec 3) (f1 : BitVec 1) : Statement (.vmul a1 b1 c1 d1 e1 f1) := by
  have := a1.isLt; have := b1.isLt; have := c1.isLt; have := d1.isLt; have := e1.isLt; have := f1.isLt
  show 0x88000000 + a1.toNat * 1048576 + b1.toNat * 16384 + c1.toNat * 256 + d1.toNat * 16 + e1.toNat * 2 + f1.toNat * 1 < 4294967296
  omega
theorem vdiv (a1 : BitVec 6) (b1 : BitVec 6) (c1 : BitVec 6) (d1 : BitVec 4) (e1 : BitVec 3) (f1 : BitVec 1) : Statement (.vdiv a1 b1 c1 d1 e1 f1) := by
  have := a1.isLt; have := b1.isLt; have := c1.isLt; have := d1.isLt; have := e1.isLt; have := f1.isLt
  show 0x8C000000 + a1.toNat * 1048576 + b1.toNat * 16384 + c1.toNat * 256 + d1.toNat * 16 + e1.toNat * 2 + f1.toNat * 1 < 4294967296
  omega
theorem vmin (a1 : BitVec 6) (b1 : BitVec 6) (c1 : BitVec 6) (d1 : BitVec 4) (e1 : BitVec 1) : Statement (.vmin a1 b1 c1 d1 e1) := by
  have := a1.isLt; have := b1.isLt; have := c1.isLt; have := d1.isLt; have := e1.isLt
  show 0x90000000 + a1.toNat * 1048576 + b1.toNat * 16384 + c1.toNat * 256 + d1.toNat * 16 + e1.toNat * 1 < 4294967296
  omega
theorem vmax (a1 : BitVec 6) (b1 : BitVec 6) (c1 : BitVec 6) (d1 : BitVec 4) (e1 : BitVec 1) : Statement (.vmax a1 b1 c1 d1 e1) := by
  have := a1.isLt; have := b1.isLt; have := c1.isLt; have := d1.isLt; have := e1.isLt
  show 0x94000000 + a1.toNat * 1048576 + b1.toNat * 16384 + c1.toNat * 256 + d1.toNat * 16 + e1.toNat * 1 < 4294967296
  omega
theorem vfma (a1 : BitVec 6) (b1 : BitVec 6) (c1 : BitVec 6) (d1 : BitVec 4) (e1 : BitVec 3) (f1 : BitVec 1) : Statement (.vfma a1 b1 c1 d1 e1 f1) := by
  have := a1.isLt; have := b1.isLt; have := c1.isLt; have := d1.isLt; have := e1.isLt; have := f1.isLt
  show 0x98000000 + a1.toNat * 1048576 + b1.toNat * 16384 + c1.toNat * 256 + d1.toNat * 16 + e1.toNat * 2 + f1.toNat * 1 < 4294967296
  omega
theorem vfms (a1 : BitVec 6) (b1 : BitVec 6) (c1 : BitVec 6) (d1 : BitVec 4) (e1 : BitVec 3) (f1 : BitVec 1) : Statement (.vfms a1 b1 c1 d1 e1 f1) := by
  have := a1.isLt; have := b1.isLt; have := c1.isLt; have := d1.isLt; have := e1.isLt; have := f1.isLt
  show 0x9C000000 + a1.toNat * 1048576 + b1.toNat * 16384 + c1.toNat * 256 + d1.toNat * 16 + e1.toNat * 2 + f1.toNat * 1 < 4294967296
  omega
theorem vsqrt (a1 : BitVec 6) (b1 : BitVec 6) (c1 : BitVec 4) (d1 : BitVec 3) (e1 : BitVec 1) : Statement (.vsqrt a1 b1 c1 d1 e1) := by
  have := a1.isLt; have := b1.isLt; have := c1.isLt; have := d1.isLt; have := e1.isLt
  show 0xA0000000 + a1.toNat * 1048576 + b1.toNat * 16384 + c1.toNat * 16 + d1.toNat * 2 + e1.toNat * 1 < 4294967296
  omega
theorem vrcp (a1 : BitVec 6) (b1 : BitVec 6) (c1 : BitVec 4) (d1 : BitVec 3) (e1 : BitVec 1) : Statement (.vrcp a1 b1 c1 d1 e1) := by
  have := a1.isLt; have := b1.isLt; have := c1.isLt; have := d1.isLt; have := e1.isLt
  show 0xA0000100 + a1.toNat * 1048576 + b1.toNat * 16384 + c1.toNat * 16 + d1.toNat * 2 + e1.toNat * 1 < 4294967296
  omega
theorem vrsqrt (a1 : BitVec 6) (b1 : BitVec 6) (c1 : BitVec 4) (d1 : BitVec 3) (e1 : BitVec 1) : Statement (.vrsqrt a1 b1 c1 d1 e1) := by
  have := a1.isLt; have := b1.isLt; have := c1.isLt; have := d1.isLt; have := e1.isLt
  show 0xA0000200 + a1.toNat * 1048576 + b1.toNat * 16384 + c1.toNat * 16 + d1.toNat * 2 + e1.toNat * 1 < 4294967296
  omega
theorem vexp (a1 : BitVec 6) (b1 : BitVec 6) (c1 : BitVec 4) (d1 : BitVec 3) (e1 : BitVec 1) : Statement (.vexp a1 b1 c1 d1 e1) := by
  have := a1.isLt; have := b1.isLt; have := c1.isLt; have := d1.isLt; have := e1.isLt
  show 0xA0000300 + a1.toNat * 1048576 + b1.toNat * 16384 + c1.toNat * 16 + d1.toNat * 2 + e1.toNat * 1 < 4294967296
  omega
theorem vlog (a1 : BitVec 6) (b1 : BitVec 6) (c1 : BitVec 4) (d1 : BitVec 3) (e1 : BitVec 1) : Statement (.vlog a1 b1 c1 d1 e1) := by
  have := a1.isLt; have := b1.isLt; have := c1.isLt; have := d1.isLt; have := e1.isLt
  show 0xA0000400 + a1.toNat * 1048576 + b1.toNat * 16384 + c1.toNat * 16 + d1.toNat * 2 + e1.toNat * 1 < 4294967296
  omega
theorem vsin (a1 : BitVec 6) (b1 : BitVec 6) (c1 : BitVec 4) (d1 : BitVec 3) (e1 : BitVec 1) : Statement (.vsin a1 b1 c1 d1 e1) := by
  have := a1.isLt; have := b1.isLt; have := c1.isLt; have := d1.isLt; have := e1.isLt
  show 0xA0000500 + a1.toNat * 1048576 + b1.toNat * 16384 + c1.toNat * 16 + d1.toNat * 2 + e1.toNat * 1 < 4294967296
  omega
theorem vcos (a1 : BitVec 6) (b1 : BitVec 6) (c1 : BitVec 4) (d1 : BitVec 3) (e1 : BitVec 1) : Statement (.vcos a1 b1 c1 d1 e1) := by
  have := a1.isLt; have := b1.isLt; have := c1.isLt; have := d1.isLt; have := e1.isLt
  show 0xA0000600 + a1.toNat * 1048576 + b1.toNat * 16384 + c1.toNat * 16 + d1.toNat * 2 + e1.toNat * 1 < 4294967296
  omega
theorem vtanh (a1 : BitVec 6) (b1 : BitVec 6) (c1 : BitVec 4) (d1 : BitVec 3) (e1 : BitVec 1) : Statement (.vtanh a1 b1 c1 d1 e1) := by
  have := a1.isLt; have := b1.isLt; have := c1.isLt; have := d1.isLt; have := e1.isLt
  show 0xA0000700 + a1.toNat * 1048576 + b1.toNat * 16384 + c1.toNat * 16 + d1.toNat * 2 + e1.toNat * 1 < 4294967296
  omega
theorem vneg (a1 : BitVec 6) (b1 : BitVec 6) (c1 : BitVec 4) (d1 : BitVec 1) : Statement (.vneg a1 b1 c1 d1) := by
  have := a1.isLt; have := b1.isLt; have := c1.isLt; have := d1.isLt
  show 0xA0000800 + a1.toNat * 1048576 + b1.toNat * 16384 + c1.toNat * 16 + d1.toNat * 1 < 4294967296
  omega
theorem vabs (a1 : BitVec 6) (b1 : BitVec 6) (c1 : BitVec 4) (d1 : BitVec 1) : Statement (.vabs a1 b1 c1 d1) := by
  have := a1.isLt; have := b1.isLt; have := c1.isLt; have := d1.isLt
  show 0xA0000900 + a1.toNat * 1048576 + b1.toNat * 16384 + c1.toNat * 16 + d1.toNat * 1 < 4294967296
  omega
theorem vmov (a1 : BitVec 6) (b1 : BitVec 6) (c1 : BitVec 4) (d1 : BitVec 1) : Statement (.vmov a1 b1 c1 d1) := by
  have := a1.isLt; have := b1.isLt; have := c1.isLt; have := d1.isLt
  show 0xA0000A00 + a1.toNat * 1048576 + b1.toNat * 16384 + c1.toNat * 16 + d1.toNat * 1 < 4294967296
  omega
theorem vcmp (a1 : BitVec 6) (b1 : BitVec 6) (c1 : BitVec 6) (d1 : BitVec 4) (e1 : BitVec 3) (f1 : BitVec 1) : Statement (.vcmp a1 b1 c1 d1 e1 f1) := by
  have := a1.isLt; have := b1.isLt; have := c1.isLt; have := d1.isLt; have := e1.isLt; have := f1.isLt
  show 0xA4000000 + a1.toNat * 1048576 + b1.toNat * 16384 + c1.toNat * 256 + d1.toNat * 16 + e1.toNat * 2 + f1.toNat * 1 < 4294967296
  omega
theorem vsel (a1 : BitVec 6) (b1 : BitVec 6) (c1 : BitVec 6) (d1 : BitVec 4) (e1 : BitVec 1) : Statement (.vsel a1 b1 c1 d1 e1) := by
  have := a1.isLt; have := b1.isLt; have := c1.isLt; have := d1.isLt; have := e1.isLt
  show 0xA8000000 + a1.toNat * 1048576 + b1.toNat * 16384 + c1.toNat * 256 + d1.toNat * 16 + e1.toNat * 1 < 4294967296
  omega
theorem vperm (a1 : BitVec 6) (b1 : BitVec 6) (c1 : BitVec 6) (d1 : BitVec 4) (e1 : BitVec 1) : Statement (.vperm a1 b1 c1 d1 e1) := by
  have := a1.isLt; have := b1.isLt; have := c1.isLt; have := d1.isLt; have := e1.isLt
  show 0xAC000000 + a1.toNat * 1048576 + b1.toNat * 16384 + c1.toNat * 256 + d1.toNat * 16 + e1.toNat * 1 < 4294967296
  omega
theorem vredAdd (a1 : BitVec 6) (b1 : BitVec 6) (c1 : BitVec 4) (d1 : BitVec 3) (e1 : BitVec 1) : Statement (.vredAdd a1 b1 c1 d1 e1) := by
  have := a1.isLt; have := b1.isLt; have := c1.isLt; have := d1.isLt; have := e1.isLt
  show 0xB0000000 + a1.toNat * 1048576 + b1.toNat * 16384 + c1.toNat * 16 + d1.toNat * 2 + e1.toNat * 1 < 4294967296
  omega
theorem vredMin (a1 : BitVec 6) (b1 : BitVec 6) (c1 : BitVec 4) (d1 : BitVec 1) : Statement (.vredMin a1 b1 c1 d1) := by
  have := a1.isLt; have := b1.isLt; have := c1.isLt; have := d1.isLt
  show 0xB0000100 + a1.toNat * 1048576 + b1.toNat * 16384 + c1.toNat * 16 + d1.toNat * 1 < 4294967296
  omega
theorem vredMax (a1 : BitVec 6) (b1 : BitVec 6) (c1 : BitVec 4) (d1 : BitVec 1) : Statement (.vredMax a1 b1 c1 d1) := by
  have := a1.isLt; have := b1.isLt; have := c1.isLt; have := d1.isLt
  show 0xB0000200 + a1.toNat * 1048576 + b1.toNat * 16384 + c1.toNat * 16 + d1.toNat * 1 < 4294967296
  omega
theorem vcvt (a1 : BitVec 6) (b1 : BitVec 6) (c1 : BitVec 1) (d1 : BitVec 4) (e1 : BitVec 4) (f1 : BitVec 3) (g1 : BitVec 1) : Statement (.vcvt a1 b1 c1 d1 e1 f1 g1) := by
  have := a1.isLt; have := b1.isLt; have := c1.isLt; have := d1.isLt; have := e1.isLt; have := f1.isLt; have := g1.isLt
  show 0xB4000000 + a1.toNat * 1048576 + b1.toNat * 16384 + c1.toNat * 4096 + d1.toNat * 256 + e1.toNat * 16 + f1.toNat * 2 + g1.toNat * 1 < 4294967296
  omega
theorem vcvtAmax (a1 : BitVec 6) (b1 : BitVec 6) (c1 : BitVec 2) (d1 : BitVec 4) (e1 : BitVec 4) (f1 : BitVec 3) (g1 : BitVec 1) : Statement (.vcvtAmax a1 b1 c1 d1 e1 f1 g1) := by
  have := a1.isLt; have := b1.isLt; have := c1.isLt; have := d1.isLt; have := e1.isLt; have := f1.isLt; have := g1.isLt
  show 0xB8000000 + a1.toNat * 1048576 + b1.toNat * 16384 + c1.toNat * 4096 + d1.toNat * 256 + e1.toNat * 16 + f1.toNat * 2 + g1.toNat * 1 < 4294967296
  omega
theorem vand (a1 : BitVec 6) (b1 : BitVec 6) (c1 : BitVec 6) (d1 : BitVec 4) (e1 : BitVec 1) : Statement (.vand a1 b1 c1 d1 e1) := by
  have := a1.isLt; have := b1.isLt; have := c1.isLt; have := d1.isLt; have := e1.isLt
  show 0xBC000000 + a1.toNat * 1048576 + b1.toNat * 16384 + c1.toNat * 256 + d1.toNat * 16 + e1.toNat * 1 < 4294967296
  omega
theorem vor (a1 : BitVec 6) (b1 : BitVec 6) (c1 : BitVec 6) (d1 : BitVec 4) (e1 : BitVec 1) : Statement (.vor a1 b1 c1 d1 e1) := by
  have := a1.isLt; have := b1.isLt; have := c1.isLt; have := d1.isLt; have := e1.isLt
  show 0xBC000002 + a1.toNat * 1048576 + b1.toNat * 16384 + c1.toNat * 256 + d1.toNat * 16 + e1.toNat * 1 < 4294967296
  omega
theorem vxor (a1 : BitVec 6) (b1 : BitVec 6) (c1 : BitVec 6) (d1 : BitVec 4) (e1 : BitVec 1) : Statement (.vxor a1 b1 c1 d1 e1) := by
  have := a1.isLt; have := b1.isLt; have := c1.isLt; have := d1.isLt; have := e1.isLt
  show 0xBC000004 + a1.toNat * 1048576 + b1.toNat * 16384 + c1.toNat * 256 + d1.toNat * 16 + e1.toNat * 1 < 4294967296
  omega
theorem vsll (a1 : BitVec 6) (b1 : BitVec 6) (c1 : BitVec 6) (d1 : BitVec 4) (e1 : BitVec 1) : Statement (.vsll a1 b1 c1 d1 e1) := by
  have := a1.isLt; have := b1.isLt; have := c1.isLt; have := d1.isLt; have := e1.isLt
  show 0xBC000006 + a1.toNat * 1048576 + b1.toNat * 16384 + c1.toNat * 256 + d1.toNat * 16 + e1.toNat * 1 < 4294967296
  omega
theorem vsrl (a1 : BitVec 6) (b1 : BitVec 6) (c1 : BitVec 6) (d1 : BitVec 4) (e1 : BitVec 1) : Statement (.vsrl a1 b1 c1 d1 e1) := by
  have := a1.isLt; have := b1.isLt; have := c1.isLt; have := d1.isLt; have := e1.isLt
  show 0xBC000008 + a1.toNat * 1048576 + b1.toNat * 16384 + c1.toNat * 256 + d1.toNat * 16 + e1.toNat * 1 < 4294967296
  omega
theorem vsra (a1 : BitVec 6) (b1 : BitVec 6) (c1 : BitVec 6) (d1 : BitVec 4) (e1 : BitVec 1) : Statement (.vsra a1 b1 c1 d1 e1) := by
  have := a1.isLt; have := b1.isLt; have := c1.isLt; have := d1.isLt; have := e1.isLt
  show 0xBC00000A + a1.toNat * 1048576 + b1.toNat * 16384 + c1.toNat * 256 + d1.toNat * 16 + e1.toNat * 1 < 4294967296
  omega
theorem vcopysign (a1 : BitVec 6) (b1 : BitVec 6) (c1 : BitVec 6) (d1 : BitVec 4) (e1 : BitVec 1) : Statement (.vcopysign a1 b1 c1 d1 e1) := by
  have := a1.isLt; have := b1.isLt; have := c1.isLt; have := d1.isLt; have := e1.isLt
  show 0xBC00000C + a1.toNat * 1048576 + b1.toNat * 16384 + c1.toNat * 256 + d1.toNat * 16 + e1.toNat * 1 < 4294967296
  omega
theorem jseed (a1 : BitVec 6) (b1 : BitVec 6) (c1 : BitVec 4) : Statement (.jseed a1 b1 c1) := by
  have := a1.isLt; have := b1.isLt; have := c1.isLt
  show 0xC0000000 + a1.toNat * 1048576 + b1.toNat * 16384 + c1.toNat * 16 < 4294967296
  omega
theorem jext (a1 : BitVec 6) (b1 : BitVec 6) (c1 : BitVec 3) (d1 : BitVec 4) (e1 : BitVec 3) : Statement (.jext a1 b1 c1 d1 e1) := by
  have := a1.isLt; have := b1.isLt; have := c1.isLt; have := d1.isLt; have := e1.isLt
  show 0xC0000100 + a1.toNat * 1048576 + b1.toNat * 16384 + c1.toNat * 2048 + d1.toNat * 16 + e1.toNat * 2 < 4294967296
  omega
theorem jcoef (a1 : BitVec 6) (b1 : BitVec 6) (c1 : BitVec 3) (d1 : BitVec 4) : Statement (.jcoef a1 b1 c1 d1) := by
  have := a1.isLt; have := b1.isLt; have := c1.isLt; have := d1.isLt
  show 0xC0000200 + a1.toNat * 1048576 + b1.toNat * 16384 + c1.toNat * 2048 + d1.toNat * 16 < 4294967296
  omega
theorem jset (a1 : BitVec 6) (b1 : BitVec 6) (c1 : BitVec 3) (d1 : BitVec 4) : Statement (.jset a1 b1 c1 d1) := by
  have := a1.isLt; have := b1.isLt; have := c1.isLt; have := d1.isLt
  show 0xC0000300 + a1.toNat * 1048576 + b1.toNat * 16384 + c1.toNat * 2048 + d1.toNat * 16 < 4294967296
  omega
theorem jshift (a1 : BitVec 6) (b1 : BitVec 6) (c1 : BitVec 4) (d1 : BitVec 3) : Statement (.jshift a1 b1 c1 d1) := by
  have := a1.isLt; have := b1.isLt; have := c1.isLt; have := d1.isLt
  show 0xC0000400 + a1.toNat * 1048576 + b1.toNat * 16384 + c1.toNat * 16 + d1.toNat * 2 < 4294967296
  omega
theorem jint (a1 : BitVec 6) (b1 : BitVec 6) (c1 : BitVec 4) (d1 : BitVec 3) : Statement (.jint a1 b1 c1 d1) := by
  have := a1.isLt; have := b1.isLt; have := c1.isLt; have := d1.isLt
  show 0xC0000500 + a1.toNat * 1048576 + b1.toNat * 16384 + c1.toNat * 16 + d1.toNat * 2 < 4294967296
  omega
theorem mma (a1 : BitVec 5) (b1 : BitVec 5) (c1 : BitVec 4) (d1 : BitVec 1) (e1 : BitVec 2) (f1 : BitVec 1) (g1 : BitVec 3) : Statement (.mma a1 b1 c1 d1 e1 f1 g1) := by
  have := a1.isLt; have := b1.isLt; have := c1.isLt; have := d1.isLt; have := e1.isLt; have := f1.isLt; have := g1.isLt
  show 0xC4000000 + a1.toNat * 2097152 + b1.toNat * 65536 + c1.toNat * 4096 + d1.toNat * 64 + e1.toNat * 16 + f1.toNat * 8 + g1.toNat * 1 < 4294967296
  omega
theorem mzero (a1 : BitVec 4) (b1 : BitVec 2) : Statement (.mzero a1 b1) := by
  have := a1.isLt; have := b1.isLt
  show 0xC4000100 + a1.toNat * 4096 + b1.toNat * 64 < 4294967296
  omega
theorem mrd (a1 : BitVec 5) (b1 : BitVec 4) (c1 : BitVec 2) (d1 : BitVec 6) : Statement (.mrd a1 b1 c1 d1) := by
  have := a1.isLt; have := b1.isLt; have := c1.isLt; have := d1.isLt
  show 0xC4000200 + a1.toNat * 2097152 + b1.toNat * 4096 + c1.toNat * 64 + d1.toNat * 1 < 4294967296
  omega
theorem mwr (a1 : BitVec 5) (b1 : BitVec 4) (c1 : BitVec 2) (d1 : BitVec 6) : Statement (.mwr a1 b1 c1 d1) := by
  have := a1.isLt; have := b1.isLt; have := c1.isLt; have := d1.isLt
  show 0xC4000300 + a1.toNat * 2097152 + b1.toNat * 4096 + c1.toNat * 64 + d1.toNat * 1 < 4294967296
  omega
theorem mld (a1 : BitVec 5) (b1 : BitVec 5) (c1 : BitVec 4) (d1 : BitVec 2) (e1 : BitVec 2) (f1 : BitVec 4) : Statement (.mld a1 b1 c1 d1 e1 f1) := by
  have := a1.isLt; have := b1.isLt; have := c1.isLt; have := d1.isLt; have := e1.isLt; have := f1.isLt
  show 0xC4000400 + a1.toNat * 2097152 + b1.toNat * 65536 + c1.toNat * 4096 + d1.toNat * 64 + e1.toNat * 16 + f1.toNat * 1 < 4294967296
  omega
theorem mst (a1 : BitVec 5) (b1 : BitVec 5) (c1 : BitVec 4) (d1 : BitVec 2) (e1 : BitVec 2) (f1 : BitVec 4) : Statement (.mst a1 b1 c1 d1 e1 f1) := by
  have := a1.isLt; have := b1.isLt; have := c1.isLt; have := d1.isLt; have := e1.isLt; have := f1.isLt
  show 0xC4000500 + a1.toNat * 2097152 + b1.toNat * 65536 + c1.toNat * 4096 + d1.toNat * 64 + e1.toNat * 16 + f1.toNat * 1 < 4294967296
  omega
theorem mxsend (a1 : BitVec 5) (b1 : BitVec 5) (c1 : BitVec 4) : Statement (.mxsend a1 b1 c1) := by
  have := a1.isLt; have := b1.isLt; have := c1.isLt
  show 0xC4000600 + a1.toNat * 2097152 + b1.toNat * 65536 + c1.toNat * 1 < 4294967296
  omega
theorem mstat (a1 : BitVec 5) (b1 : BitVec 1) : Statement (.mstat a1 b1) := by
  have := a1.isLt; have := b1.isLt
  show 0xC4000700 + a1.toNat * 2097152 + b1.toNat * 1 < 4294967296
  omega
theorem ecopy (a1 : BitVec 5) (b1 : BitVec 5) : Statement (.ecopy a1 b1) := by
  have := a1.isLt; have := b1.isLt
  show 0xC8000000 + a1.toNat * 2097152 + b1.toNat * 65536 < 4294967296
  omega
theorem eget (a1 : BitVec 5) (b1 : BitVec 5) : Statement (.eget a1 b1) := by
  have := a1.isLt; have := b1.isLt
  show 0xC8000100 + a1.toNat * 2097152 + b1.toNat * 65536 < 4294967296
  omega
theorem eput (a1 : BitVec 5) (b1 : BitVec 5) : Statement (.eput a1 b1) := by
  have := a1.isLt; have := b1.isLt
  show 0xC8000200 + a1.toNat * 2097152 + b1.toNat * 65536 < 4294967296
  omega
theorem egather (a1 : BitVec 5) (b1 : BitVec 5) : Statement (.egather a1 b1) := by
  have := a1.isLt; have := b1.isLt
  show 0xC8000300 + a1.toNat * 2097152 + b1.toNat * 65536 < 4294967296
  omega
theorem escatter (a1 : BitVec 5) (b1 : BitVec 5) : Statement (.escatter a1 b1) := by
  have := a1.isLt; have := b1.isLt
  show 0xC8000400 + a1.toNat * 2097152 + b1.toNat * 65536 < 4294967296
  omega
theorem eremap (a1 : BitVec 5) (b1 : BitVec 5) : Statement (.eremap a1 b1) := by
  have := a1.isLt; have := b1.isLt
  show 0xC8000500 + a1.toNat * 2097152 + b1.toNat * 65536 < 4294967296
  omega
theorem epool (a1 : BitVec 5) (b1 : BitVec 5) : Statement (.epool a1 b1) := by
  have := a1.isLt; have := b1.isLt
  show 0xC8000600 + a1.toNat * 2097152 + b1.toNat * 65536 < 4294967296
  omega
theorem emerge (a1 : BitVec 5) (b1 : BitVec 5) : Statement (.emerge a1 b1) := by
  have := a1.isLt; have := b1.isLt
  show 0xC8000700 + a1.toNat * 2097152 + b1.toNat * 65536 < 4294967296
  omega
theorem esend (a1 : BitVec 5) (b1 : BitVec 5) : Statement (.esend a1 b1) := by
  have := a1.isLt; have := b1.isLt
  show 0xC8000800 + a1.toNat * 2097152 + b1.toNat * 65536 < 4294967296
  omega
theorem tread (a1 : BitVec 5) (b1 : BitVec 3) : Statement (.tread a1 b1) := by
  have := a1.isLt; have := b1.isLt
  show 0xCC000000 + a1.toNat * 2097152 + b1.toNat * 65536 < 4294967296
  omega
theorem twait (a1 : BitVec 3) (b1 : BitVec 5) : Statement (.twait a1 b1) := by
  have := a1.isLt; have := b1.isLt
  show 0xCC000400 + a1.toNat * 2097152 + b1.toNat * 65536 < 4294967296
  omega
theorem evret : Statement .evret := (by decide : 0xCC000800 < 2 ^ 32)
theorem tissue (a1 : BitVec 5) (b1 : BitVec 3) : Statement (.tissue a1 b1) := by
  have := a1.isLt; have := b1.isLt
  show 0xCC000C00 + a1.toNat * 2097152 + b1.toNat * 65536 < 4294967296
  omega
theorem qopen (a1 : BitVec 3) (b1 : BitVec 4) (c1 : BitVec 4) : Statement (.qopen a1 b1 c1) := by
  have := a1.isLt; have := b1.isLt; have := c1.isLt
  show 0xD0000000 + a1.toNat * 2097152 + b1.toNat * 64 + c1.toNat * 4 < 4294967296
  omega
theorem qadv (a1 : BitVec 3) : Statement (.qadv a1) := by
  have := a1.isLt
  show 0xD0000400 + a1.toNat * 2097152 < 4294967296
  omega
theorem qend (a1 : BitVec 5) (b1 : BitVec 3) : Statement (.qend a1 b1) := by
  have := a1.isLt; have := b1.isLt
  show 0xD0000800 + a1.toNat * 2097152 + b1.toNat * 65536 < 4294967296
  omega
theorem qclose (a1 : BitVec 3) : Statement (.qclose a1) := by
  have := a1.isLt
  show 0xD0000C00 + a1.toNat * 2097152 < 4294967296
  omega
theorem ldt (a1 : BitVec 5) (b1 : BitVec 4) (c1 : BitVec 5) (d1 : BitVec 4) : Statement (.ldt a1 b1 c1 d1) := by
  have := a1.isLt; have := b1.isLt; have := c1.isLt; have := d1.isLt
  show 0xD4000000 + a1.toNat * 1048576 + b1.toNat * 65536 + c1.toNat * 2048 + d1.toNat * 32 < 4294967296
  omega
theorem vldt (a1 : BitVec 6) (b1 : BitVec 4) (c1 : BitVec 5) (d1 : BitVec 4) : Statement (.vldt a1 b1 c1 d1) := by
  have := a1.isLt; have := b1.isLt; have := c1.isLt; have := d1.isLt
  show 0xD4000200 + a1.toNat * 1048576 + b1.toNat * 65536 + c1.toNat * 2048 + d1.toNat * 32 < 4294967296
  omega
theorem rget (a1 : BitVec 4) (b1 : BitVec 2) : Statement (.rget a1 b1) := by
  have := a1.isLt; have := b1.isLt
  show 0xD8000000 + a1.toNat * 2097152 + b1.toNat * 1 < 4294967296
  omega
theorem rkey (a1 : BitVec 5) (b1 : BitVec 3) (c1 : BitVec 2) : Statement (.rkey a1 b1 c1) := by
  have := a1.isLt; have := b1.isLt; have := c1.isLt
  show 0xD8000400 + a1.toNat * 2097152 + b1.toNat * 4 + c1.toNat * 1 < 4294967296
  omega
theorem talloc (a1 : BitVec 4) (b1 : BitVec 10) : Statement (.talloc a1 b1) := by
  have := a1.isLt; have := b1.isLt
  show 0xD8000800 + a1.toNat * 2097152 + b1.toNat * 1 < 4294967296
  omega
theorem emit (a1 : BitVec 4) : Statement (.emit a1) := by
  have := a1.isLt
  show 0xD8000C00 + a1.toNat * 65536 < 4294967296
  omega
theorem commit : Statement .commit := (by decide : 0xD8001000 < 2 ^ 32)
theorem abort : Statement .abort := (by decide : 0xD8001400 < 2 ^ 32)
theorem susp (a1 : BitVec 3) (b1 : BitVec 5) : Statement (.susp a1 b1) := by
  have := a1.isLt; have := b1.isLt
  show 0xD8001800 + a1.toNat * 2097152 + b1.toNat * 65536 < 4294967296
  omega
theorem yield : Statement .yield := (by decide : 0xD8001C00 < 2 ^ 32)
theorem part (a1 : BitVec 5) (b1 : BitVec 5) (c1 : BitVec 2) : Statement (.part a1 b1 c1) := by
  have := a1.isLt; have := b1.isLt; have := c1.isLt
  show 0xD8002000 + a1.toNat * 2097152 + b1.toNat * 65536 + c1.toNat * 1 < 4294967296
  omega
theorem crewid (a1 : BitVec 5) : Statement (.crewid a1) := by
  have := a1.isLt
  show 0xD8002400 + a1.toNat * 2097152 < 4294967296
  omega
theorem crewrel : Statement .crewrel := (by decide : 0xD8002800 < 2 ^ 32)
theorem wmem (a1 : BitVec 5) (b1 : BitVec 5) (c1 : BitVec 4) (d1 : BitVec 2) : Statement (.wmem a1 b1 c1 d1) := by
  have := a1.isLt; have := b1.isLt; have := c1.isLt; have := d1.isLt
  show 0xD8002C00 + a1.toNat * 2097152 + b1.toNat * 65536 + c1.toNat * 64 + d1.toNat * 1 < 4294967296
  omega
theorem pause : Statement .pause := (by decide : 0xD8003000 < 2 ^ 32)
theorem barRow : Statement .barRow := (by decide : 0xDC000000 < 2 ^ 32)
theorem barCol : Statement .barCol := (by decide : 0xDC000400 < 2 ^ 32)
theorem barSg : Statement .barSg := (by decide : 0xDC000800 < 2 ^ 32)
theorem xmit (a1 : BitVec 5) (b1 : BitVec 4) : Statement (.xmit a1 b1) := by
  have := a1.isLt; have := b1.isLt
  show 0xDC000C00 + a1.toNat * 65536 + b1.toNat * 64 < 4294967296
  omega
theorem xsel (a1 : BitVec 5) (b1 : BitVec 5) : Statement (.xsel a1 b1) := by
  have := a1.isLt; have := b1.isLt
  show 0xDC001000 + a1.toNat * 2097152 + b1.toNat * 65536 < 4294967296
  omega
theorem ipf (a1 : BitVec 5) (b1 : BitVec 2) : Statement (.ipf a1 b1) := by
  have := a1.isLt; have := b1.isLt
  show 0xDC001400 + a1.toNat * 65536 + b1.toNat * 1 < 4294967296
  omega
theorem ipin (a1 : BitVec 5) (b1 : BitVec 2) : Statement (.ipin a1 b1) := by
  have := a1.isLt; have := b1.isLt
  show 0xDC001800 + a1.toNat * 65536 + b1.toNat * 1 < 4294967296
  omega
theorem iunpin (a1 : BitVec 5) (b1 : BitVec 2) : Statement (.iunpin a1 b1) := by
  have := a1.isLt; have := b1.isLt
  show 0xDC001C00 + a1.toNat * 65536 + b1.toNat * 1 < 4294967296
  omega
theorem psplit (a1 : BitVec 5) : Statement (.psplit a1) := by
  have := a1.isLt
  show 0xDC002000 + a1.toNat * 65536 < 4294967296
  omega
theorem kbound (a1 : BitVec 4) (b1 : BitVec 5) (c1 : BitVec 4) : Statement (.kbound a1 b1 c1) := by
  have := a1.isLt; have := b1.isLt; have := c1.isLt
  show 0xE0000000 + a1.toNat * 2097152 + b1.toNat * 65536 + c1.toNat * 64 < 4294967296
  omega
theorem kperm (a1 : BitVec 4) (b1 : BitVec 5) (c1 : BitVec 4) : Statement (.kperm a1 b1 c1) := by
  have := a1.isLt; have := b1.isLt; have := c1.isLt
  show 0xE0000400 + a1.toNat * 2097152 + b1.toNat * 65536 + c1.toNat * 64 < 4294967296
  omega
theorem kaddr (a1 : BitVec 4) (b1 : BitVec 5) (c1 : BitVec 4) : Statement (.kaddr a1 b1 c1) := by
  have := a1.isLt; have := b1.isLt; have := c1.isLt
  show 0xE0000800 + a1.toNat * 2097152 + b1.toNat * 65536 + c1.toNat * 64 < 4294967296
  omega
theorem kformat (a1 : BitVec 4) (b1 : BitVec 5) (c1 : BitVec 4) : Statement (.kformat a1 b1 c1) := by
  have := a1.isLt; have := b1.isLt; have := c1.isLt
  show 0xE0000C00 + a1.toNat * 2097152 + b1.toNat * 65536 + c1.toNat * 64 < 4294967296
  omega
theorem kbase (a1 : BitVec 4) (b1 : BitVec 4) : Statement (.kbase a1 b1) := by
  have := a1.isLt; have := b1.isLt
  show 0xE0001000 + a1.toNat * 2097152 + b1.toNat * 64 < 4294967296
  omega
theorem kseal (a1 : BitVec 4) (b1 : BitVec 4) (c1 : BitVec 4) : Statement (.kseal a1 b1 c1) := by
  have := a1.isLt; have := b1.isLt; have := c1.isLt
  show 0xE0001400 + a1.toNat * 2097152 + b1.toNat * 64 + c1.toNat * 4 < 4294967296
  omega
theorem kunseal (a1 : BitVec 4) (b1 : BitVec 4) (c1 : BitVec 4) : Statement (.kunseal a1 b1 c1) := by
  have := a1.isLt; have := b1.isLt; have := c1.isLt
  show 0xE0001800 + a1.toNat * 2097152 + b1.toNat * 64 + c1.toNat * 4 < 4294967296
  omega
theorem klease (a1 : BitVec 4) (b1 : BitVec 5) (c1 : BitVec 4) : Statement (.klease a1 b1 c1) := by
  have := a1.isLt; have := b1.isLt; have := c1.isLt
  show 0xE0001C00 + a1.toNat * 2097152 + b1.toNat * 65536 + c1.toNat * 64 < 4294967296
  omega
theorem kgaddr (a1 : BitVec 5) (b1 : BitVec 4) : Statement (.kgaddr a1 b1) := by
  have := a1.isLt; have := b1.isLt
  show 0xE0002000 + a1.toNat * 2097152 + b1.toNat * 64 < 4294967296
  omega
theorem kglen (a1 : BitVec 5) (b1 : BitVec 4) : Statement (.kglen a1 b1) := by
  have := a1.isLt; have := b1.isLt
  show 0xE0002400 + a1.toNat * 2097152 + b1.toNat * 64 < 4294967296
  omega
theorem kgbase (a1 : BitVec 5) (b1 : BitVec 4) : Statement (.kgbase a1 b1) := by
  have := a1.isLt; have := b1.isLt
  show 0xE0002800 + a1.toNat * 2097152 + b1.toNat * 64 < 4294967296
  omega
theorem kgperm (a1 : BitVec 5) (b1 : BitVec 4) : Statement (.kgperm a1 b1) := by
  have := a1.isLt; have := b1.isLt
  show 0xE0002C00 + a1.toNat * 2097152 + b1.toNat * 64 < 4294967296
  omega
theorem kgspace (a1 : BitVec 5) (b1 : BitVec 4) : Statement (.kgspace a1 b1) := by
  have := a1.isLt; have := b1.isLt
  show 0xE0003000 + a1.toNat * 2097152 + b1.toNat * 64 < 4294967296
  omega
theorem kgtag (a1 : BitVec 5) (b1 : BitVec 4) : Statement (.kgtag a1 b1) := by
  have := a1.isLt; have := b1.isLt
  show 0xE0003400 + a1.toNat * 2097152 + b1.toNat * 64 < 4294967296
  omega
theorem ecall (a1 : BitVec 10) : Statement (.ecall a1) := by
  have := a1.isLt
  show 0xE4000000 + a1.toNat * 1 < 4294967296
  omega
theorem tret : Statement .tret := (by decide : 0xE4000400 < 2 ^ 32)
theorem srr (a1 : BitVec 5) (b1 : BitVec 10) : Statement (.srr a1 b1) := by
  have := a1.isLt; have := b1.isLt
  show 0xE4000800 + a1.toNat * 2097152 + b1.toNat * 1 < 4294967296
  omega
theorem srw (a1 : BitVec 5) (b1 : BitVec 10) : Statement (.srw a1 b1) := by
  have := a1.isLt; have := b1.isLt
  show 0xE4000C00 + a1.toNat * 65536 + b1.toNat * 1 < 4294967296
  omega
theorem fence (a1 : BitVec 5) (b1 : BitVec 3) (c1 : BitVec 3) (d1 : BitVec 3) : Statement (.fence a1 b1 c1 d1) := by
  have := a1.isLt; have := b1.isLt; have := c1.isLt; have := d1.isLt
  show 0xE4001000 + a1.toNat * 2097152 + b1.toNat * 128 + c1.toNat * 16 + d1.toNat * 2 < 4294967296
  omega
theorem tlbw (a1 : BitVec 5) (b1 : BitVec 5) : Statement (.tlbw a1 b1) := by
  have := a1.isLt; have := b1.isLt
  show 0xE4001400 + a1.toNat * 2097152 + b1.toNat * 65536 < 4294967296
  omega
theorem tlbflush (a1 : BitVec 5) : Statement (.tlbflush a1) := by
  have := a1.isLt
  show 0xE4001800 + a1.toNat * 65536 < 4294967296
  omega
theorem mboxSend (a1 : BitVec 5) (b1 : BitVec 5) : Statement (.mboxSend a1 b1) := by
  have := a1.isLt; have := b1.isLt
  show 0xE4001C00 + a1.toNat * 2097152 + b1.toNat * 65536 < 4294967296
  omega
theorem mboxBind (a1 : BitVec 5) (b1 : BitVec 5) : Statement (.mboxBind a1 b1) := by
  have := a1.isLt; have := b1.isLt
  show 0xE4001C00 + a1.toNat * 2097152 + b1.toNat * 65536 < 4294967296
  omega
theorem mboxUnbind (a1 : BitVec 5) (b1 : BitVec 5) : Statement (.mboxUnbind a1 b1) := by
  have := a1.isLt; have := b1.isLt
  show 0xE4001C00 + a1.toNat * 2097152 + b1.toNat * 65536 < 4294967296
  omega
theorem sdown (a1 : BitVec 5) : Statement (.sdown a1) := by
  have := a1.isLt
  show 0xE4002000 + a1.toNat * 65536 < 4294967296
  omega
theorem wfe : Statement .wfe := (by decide : 0xE4002400 < 2 ^ 32)
theorem halt : Statement .halt := (by decide : 0xE4002800 < 2 ^ 32)
theorem jfl (a1 : BitVec 5) (b1 : BitVec 1) (c1 : BitVec 3) : Statement (.jfl a1 b1 c1) := by
  have := a1.isLt; have := b1.isLt; have := c1.isLt
  show 0xE4002C00 + a1.toNat * 2097152 + b1.toNat * 8 + c1.toNat * 1 < 4294967296
  omega
theorem vldx (a1 : BitVec 6) (b1 : BitVec 6) (c1 : BitVec 4) (d1 : BitVec 2) (e1 : BitVec 4) : Statement (.vldx a1 b1 c1 d1 e1) := by
  have := a1.isLt; have := b1.isLt; have := c1.isLt; have := d1.isLt; have := e1.isLt
  show 0xE8000000 + a1.toNat * 1048576 + b1.toNat * 16384 + c1.toNat * 1024 + d1.toNat * 256 + e1.toNat * 16 < 4294967296
  omega
theorem vstx (a1 : BitVec 6) (b1 : BitVec 6) (c1 : BitVec 4) (d1 : BitVec 2) (e1 : BitVec 4) : Statement (.vstx a1 b1 c1 d1 e1) := by
  have := a1.isLt; have := b1.isLt; have := c1.isLt; have := d1.isLt; have := e1.isLt
  show 0xEC000000 + a1.toNat * 1048576 + b1.toNat * 16384 + c1.toNat * 1024 + d1.toNat * 256 + e1.toNat * 16 < 4294967296
  omega
theorem hint (a1 : BitVec 26) : Statement (.hint a1) := by
  have := a1.isLt
  show 0xF8000000 + a1.toNat * 1 < 4294967296
  omega
theorem launch (a1 : Nat) (b1 : List Byte) : Statement (.launch a1 b1) := Nat.two_pow_pos 32
theorem inject (a1 : Nat) (b1 : List Byte) : Statement (.inject a1 b1) := Nat.two_pow_pos 32
theorem drain (a1 : Nat) (b1 : List Byte) : Statement (.drain a1 b1) := Nat.two_pow_pos 32
theorem leaseGrant (a1 : Nat) (b1 : List Byte) : Statement (.leaseGrant a1 b1) := Nat.two_pow_pos 32
theorem leaseRevoke (a1 : Nat) (b1 : List Byte) : Statement (.leaseRevoke a1 b1) := Nat.two_pow_pos 32
theorem leaseShardingEntry (a1 : Nat) (b1 : List Byte) : Statement (.leaseShardingEntry a1 b1) := Nat.two_pow_pos 32
theorem leasePeer (a1 : Nat) (b1 : List Byte) : Statement (.leasePeer a1 b1) := Nat.two_pow_pos 32
theorem cancel (a1 : Nat) (b1 : List Byte) : Statement (.cancel a1 b1) := Nat.two_pow_pos 32
theorem queryLaunchState (a1 : Nat) (b1 : List Byte) : Statement (.queryLaunchState a1 b1) := Nat.two_pow_pos 32
theorem queryVifWeirs (a1 : Nat) (b1 : List Byte) : Statement (.queryVifWeirs a1 b1) := Nat.two_pow_pos 32
theorem queryAttestation (a1 : List Byte) : Statement (.queryAttestation a1) := Nat.two_pow_pos 32
theorem leaseResident (a1 : Nat) (b1 : Nat) (c1 : List PageMap) : Statement (.leaseResident a1 b1 c1) := Nat.two_pow_pos 32
theorem injectRoomAccept (a1 : Nat) : Statement (.injectRoomAccept a1) := Nat.two_pow_pos 32
theorem admission (a1 : Nat) (b1 : Nat) : Statement (.admission a1 b1) := Nat.two_pow_pos 32
theorem matchDecision (a1 : Nat) (b1 : Nat) (c1 : Nat) : Statement (.matchDecision a1 b1 c1) := Nat.two_pow_pos 32
theorem tileArrival (a1 : Nat) : Statement (.tileArrival a1) := Nat.two_pow_pos 32
theorem backwaterReturn (a1 : Nat) (b1 : Nat) (c1 : Nat) : Statement (.backwaterReturn a1 b1 c1) := Nat.two_pow_pos 32
theorem transitEntry (a1 : Nat) : Statement (.transitEntry a1) := Nat.two_pow_pos 32
theorem reactionPickup (a1 : CoreId) : Statement (.reactionPickup a1) := Nat.two_pow_pos 32
theorem overlayLoadComplete (a1 : Nat) (b1 : Nat) (c1 : Nat) : Statement (.overlayLoadComplete a1 b1 c1) := Nat.two_pow_pos 32
theorem reactionCommit (a1 : Nat) (b1 : Nat) : Statement (.reactionCommit a1 b1) := Nat.two_pow_pos 32
theorem reactionAbort (a1 : Nat) (b1 : Nat) : Statement (.reactionAbort a1 b1) := Nat.two_pow_pos 32
theorem cycleLimit (a1 : Nat) (b1 : Nat) : Statement (.cycleLimit a1 b1) := Nat.two_pow_pos 32
theorem slackWave (a1 : Nat) (b1 : Nat) : Statement (.slackWave a1 b1) := Nat.two_pow_pos 32
theorem drainWrite (a1 : Nat) (b1 : Nat) : Statement (.drainWrite a1 b1) := Nat.two_pow_pos 32
theorem operationComplete (a1 : Nat) : Statement (.operationComplete a1) := Nat.two_pow_pos 32
theorem remoteStepApply (a1 : CoreId) : Statement (.remoteStepApply a1) := Nat.two_pow_pos 32
theorem mmaStepComplete (a1 : CoreId) : Statement (.mmaStepComplete a1) := Nat.two_pow_pos 32
theorem eventTaken (a1 : CoreId) : Statement (.eventTaken a1) := Nat.two_pow_pos 32
theorem storeCompletion (a1 : Nat) : Statement (.storeCompletion a1) := Nat.two_pow_pos 32
theorem wmemTimeout (a1 : CoreId) (b1 : Nat) : Statement (.wmemTimeout a1 b1) := Nat.two_pow_pos 32
theorem pauseExpiry (a1 : CoreId) : Statement (.pauseExpiry a1) := Nat.two_pow_pos 32
theorem wfeTimeout (a1 : CoreId) : Statement (.wfeTimeout a1) := Nat.two_pow_pos 32
theorem barrierRelease (a1 : Nat) : Statement (.barrierRelease a1) := Nat.two_pow_pos 32
theorem barTimeout (a1 : Nat) : Statement (.barTimeout a1) := Nat.two_pow_pos 32
theorem xselTimeout (a1 : CoreId) : Statement (.xselTimeout a1) := Nat.two_pow_pos 32
theorem xmitArrival (a1 : Nat) : Statement (.xmitArrival a1) := Nat.two_pow_pos 32
theorem mailboxDelivery (a1 : Nat) : Statement (.mailboxDelivery a1) := Nat.two_pow_pos 32
theorem tlbFill (a1 : Nat) : Statement (.tlbFill a1) := Nat.two_pow_pos 32
theorem shootdownReceive (a1 : Nat) : Statement (.shootdownReceive a1) := Nat.two_pow_pos 32
theorem remoteRequest (a1 : Nat) (b1 : Nat) (c1 : Nat) (d1 : RemoteAccess) : Statement (.remoteRequest a1 b1 c1 d1) := Nat.two_pow_pos 32
theorem interruptPreempt (a1 : CoreId) : Statement (.interruptPreempt a1) := Nat.two_pow_pos 32
theorem interruptSwitch (a1 : CoreId) : Statement (.interruptSwitch a1) := Nat.two_pow_pos 32
theorem interruptWind (a1 : CoreId) : Statement (.interruptWind a1) := Nat.two_pow_pos 32
theorem interruptWake (a1 : CoreId) : Statement (.interruptWake a1) := Nat.two_pow_pos 32
theorem eviction (a1 : CoreId) (b1 : Bool) : Statement (.eviction a1 b1) := Nat.two_pow_pos 32
theorem restore (a1 : CoreId) (b1 : Bool) : Statement (.restore a1 b1) := Nat.two_pow_pos 32
theorem weirRefill (a1 : Nat) : Statement (.weirRefill a1) := Nat.two_pow_pos 32
theorem clockStepDown : Statement .clockStepDown := Nat.two_pow_pos 32
theorem clockStepUp : Statement .clockStepUp := Nat.two_pow_pos 32
theorem escrowLost (a1 : Nat) (b1 : Nat) : Statement (.escrowLost a1 b1) := Nat.two_pow_pos 32
theorem linkFailure (a1 : Link) : Statement (.linkFailure a1) := Nat.two_pow_pos 32
theorem routerFailure (a1 : Partition) : Statement (.routerFailure a1) := Nat.two_pow_pos 32
theorem partitionSelftestDone (a1 : Partition) (b1 : Bool) : Statement (.partitionSelftestDone a1 b1) := Nat.two_pow_pos 32
theorem tileVifSwitch (a1 : Nat) (b1 : Nat) (c1 : Nat) : Statement (.tileVifSwitch a1 b1 c1) := Nat.two_pow_pos 32
theorem vifCreate (a1 : VifParams) : Statement (.vifCreate a1) := Nat.two_pow_pos 32
theorem vifDestroy (a1 : Nat) : Statement (.vifDestroy a1) := Nat.two_pow_pos 32
theorem powerOn : Statement .powerOn := Nat.two_pow_pos 32
theorem verify (a1 : List FirmwareImage) : Statement (.verify a1) := Nat.two_pow_pos 32
theorem bringUp (a1 : BitVec 20) : Statement (.bringUp a1) := Nat.two_pow_pos 32
theorem priminReset : Statement .priminReset := Nat.two_pow_pos 32
theorem unassignedWord (a1 : BitVec 32) : Statement (.unassignedWord a1) := by
  have := a1.isLt
  show a1.toNat < 4294967296
  omega
theorem powerLoss : Statement .powerLoss := Nat.two_pow_pos 32
theorem coreRestore (a1 : CoreId) : Statement (.coreRestore a1) := Nat.two_pow_pos 32

end Sys2Proof.Laws.Encoding
end

