-- ==== Sys2Proof/Tests/Slice0.lean ====
section
/-! SUPPORT. Tests: one word per constructor from the encoding tables, the ill-formed terms that each check refuses, single
steps with results that the manual states, and for each statement with hypotheses a witness that meets them. -/

namespace Sys2Proof.Tests

open Sys2Proof Sys2Proof.Machine

set_option Elab.async false

/-- Words of the forms of Scalar.lean, written from the field places of the spec's encoding tables. -/
theorem test_decode_scalar1 :
    decode 0x06ABE800 = .add 21 11 29
    ∧ decode 0x06ABE840 = .sub 21 11 29
    ∧ decode 0x06ABE880 = .and 21 11 29
    ∧ decode 0x06ABE8C0 = .or 21 11 29
    ∧ decode 0x06ABE900 = .xor 21 11 29
    ∧ decode 0x06ABE940 = .sll 21 11 29
    ∧ decode 0x06ABE980 = .srl 21 11 29
    ∧ decode 0x06ABE9C0 = .sra 21 11 29
    ∧ decode 0x06AB0236 = .sllImm 21 11 54
    ∧ decode 0x06AB0276 = .srlImm 21 11 54
    ∧ decode 0x06AB02B6 = .sraImm 21 11 54
    ∧ decode 0x06ABEAC0 = .mul 21 11 29
    ∧ decode 0x06ABEB00 = .mulh 21 11 29
    ∧ decode 0x06ABEB40 = .mulhn 21 11 29 := by decide

/-- Words of the forms of Scalar.lean, written from the field places of the spec's encoding tables. -/
theorem test_decode_scalar2 :
    decode 0x06ABEB80 = .div 21 11 29
    ∧ decode 0x06ABEBC0 = .divn 21 11 29
    ∧ decode 0x06ABEC00 = .rem 21 11 29
    ∧ decode 0x06ABEC40 = .remn 21 11 29
    ∧ decode 0x06ABEC80 = .slt 21 11 29
    ∧ decode 0x06ABECC0 = .sltn 21 11 29
    ∧ decode 0x06ABED00 = .min 21 11 29
    ∧ decode 0x06ABED40 = .max 21 11 29
    ∧ decode 0x06ABED80 = .minn 21 11 29
    ∧ decode 0x06ABEDC0 = .maxn 21 11 29
    ∧ decode 0x0AABF37B = .addi 21 11 62331
    ∧ decode 0x0EABF37B = .lih 21 11 62331
    ∧ decode 0x12ABF37B = .andi 21 11 62331
    ∧ decode 0x16ABF37B = .ori 21 11 62331 := by decide

/-- Words of the forms of Scalar.lean, written from the field places of the spec's encoding tables. -/
theorem test_decode_scalar3 :
    decode 0x1AABF37B = .xori 21 11 62331 := by decide

/-- Words of the forms of Branch.lean, written from the field places of the spec's encoding tables. -/
theorem test_decode_branch :
    decode 0x22ABF37B = .beq 21 11 62331
    ∧ decode 0x26ABF37B = .bne 21 11 62331
    ∧ decode 0x2AABF37B = .blt 21 11 62331
    ∧ decode 0x2EABF37B = .bge 21 11 62331
    ∧ decode 0x32ABF37B = .bltn 21 11 62331
    ∧ decode 0x36ABF37B = .bgen 21 11 62331
    ∧ decode 0x3AB79BDE = .jal 21 1547230
    ∧ decode 0x3EABF37B = .jalr 21 11 62331 := by decide

/-- Words of the forms of LoadStore.lean, written from the field places of the spec's encoding tables. -/
theorem test_decode_loadStore :
    decode 0x4151EBCD = .ldb 21 1 29 1 461
    ∧ decode 0x4551EBCD = .ldbn 21 1 29 1 461
    ∧ decode 0x4951EBCD = .ldh 21 1 29 1 461
    ∧ decode 0x4D51EBCD = .ldhn 21 1 29 1 461
    ∧ decode 0x5151EBCD = .ldw 21 1 29 1 461
    ∧ decode 0x5551EBCD = .ldwn 21 1 29 1 461
    ∧ decode 0x5951EBCD = .ldd 21 1 29 1 461
    ∧ decode 0x5C11EBCD = .ldk 1 1 29 1 461
    ∧ decode 0x6151EBCD = .stb 21 1 29 1 461
    ∧ decode 0x6551EBCD = .sth 21 1 29 1 461
    ∧ decode 0x6951EBCD = .stw 21 1 29 1 461
    ∧ decode 0x6D51EBCD = .std 21 1 29 1 461
    ∧ decode 0x7011EBCD = .stk 1 1 29 1 461 := by decide

/-- Words of the forms of Atomic.lean, written from the field places of the spec's encoding tables. -/
theorem test_decode_atomic :
    decode 0x7551EA0C = .amoAdd 21 1 29 1 1 1
    ∧ decode 0x7551EA4C = .amoSwap 21 1 29 1 1 1
    ∧ decode 0x7551EA8C = .amoCas 21 1 29 1 1 1
    ∧ decode 0x7551EACE = .amoMax 21 1 29 1 1 1 1
    ∧ decode 0x7551EB0E = .amoMin 21 1 29 1 1 1 1
    ∧ decode 0x7551EB4C = .amoAnd 21 1 29 1 1 1
    ∧ decode 0x7551EB8C = .amoOr 21 1 29 1 1 1 := by decide

/-- Words of the forms of Vector.lean, written from the field places of the spec's encoding tables. -/
theorem test_decode_vector1 :
    decode 0x7AB1EA2B = .vld 43 1 29 1 1 11
    ∧ decode 0x7EB1EA2B = .vst 43 1 29 1 1 11
    ∧ decode 0x82B57613 = .vadd 43 21 54 1 1 1
    ∧ decode 0x86B57613 = .vsub 43 21 54 1 1 1
    ∧ decode 0x8AB57613 = .vmul 43 21 54 1 1 1
    ∧ decode 0x8EB57613 = .vdiv 43 21 54 1 1 1
    ∧ decode 0x92B57611 = .vmin 43 21 54 1 1
    ∧ decode 0x96B57611 = .vmax 43 21 54 1 1
    ∧ decode 0x9AB57613 = .vfma 43 21 54 1 1 1
    ∧ decode 0x9EB57613 = .vfms 43 21 54 1 1 1
    ∧ decode 0xA2B54013 = .vsqrt 43 21 1 1 1
    ∧ decode 0xA2B54113 = .vrcp 43 21 1 1 1
    ∧ decode 0xA2B54213 = .vrsqrt 43 21 1 1 1
    ∧ decode 0xA2B54313 = .vexp 43 21 1 1 1 := by decide

/-- Words of the forms of Vector.lean, written from the field places of the spec's encoding tables. -/
theorem test_decode_vector2 :
    decode 0xA2B54413 = .vlog 43 21 1 1 1
    ∧ decode 0xA2B54513 = .vsin 43 21 1 1 1
    ∧ decode 0xA2B54613 = .vcos 43 21 1 1 1
    ∧ decode 0xA2B54713 = .vtanh 43 21 1 1 1
    ∧ decode 0xA2B54811 = .vneg 43 21 1 1
    ∧ decode 0xA2B54911 = .vabs 43 21 1 1
    ∧ decode 0xA2B54A11 = .vmov 43 21 1 1
    ∧ decode 0xA6B57613 = .vcmp 43 21 54 1 1 1
    ∧ decode 0xAAB57611 = .vsel 43 21 54 1 1
    ∧ decode 0xAEB57611 = .vperm 43 21 54 1 1
    ∧ decode 0xB2B54013 = .vredAdd 43 21 1 1 1
    ∧ decode 0xB2B54111 = .vredMin 43 21 1 1
    ∧ decode 0xB2B54211 = .vredMax 43 21 1 1
    ∧ decode 0xB6B55123 = .vcvt 43 21 1 1 2 1 1 := by decide

/-- Words of the forms of Vector.lean, written from the field places of the spec's encoding tables. -/
theorem test_decode_vector3 :
    decode 0xBAB55123 = .vcvtAmax 43 21 1 1 2 1 1
    ∧ decode 0xBEB57611 = .vand 43 21 54 1 1
    ∧ decode 0xBEB57613 = .vor 43 21 54 1 1
    ∧ decode 0xBEB57615 = .vxor 43 21 54 1 1
    ∧ decode 0xBEB57617 = .vsll 43 21 54 1 1
    ∧ decode 0xBEB57619 = .vsrl 43 21 54 1 1
    ∧ decode 0xBEB5761B = .vsra 43 21 54 1 1
    ∧ decode 0xBEB5761D = .vcopysign 43 21 54 1 1
    ∧ decode 0xEAB54510 = .vldx 43 21 1 1 1
    ∧ decode 0xEEB54510 = .vstx 43 21 1 1 1 := by decide

/-- Words of the forms of Jet.lean, written from the field places of the spec's encoding tables. -/
theorem test_decode_jet :
    decode 0xC2B54010 = .jseed 43 21 1
    ∧ decode 0xC2B54912 = .jext 43 21 1 1 1
    ∧ decode 0xC2B54A10 = .jcoef 43 21 1 1
    ∧ decode 0xC2B54B10 = .jset 43 21 1 1
    ∧ decode 0xC2B54412 = .jshift 43 21 1 1
    ∧ decode 0xC2B54512 = .jint 43 21 1 1
    ∧ decode 0xE6A02C09 = .jfl 21 1 1 := by decide

/-- Words of the forms of Matrix.lean, written from the field places of the spec's encoding tables. -/
theorem test_decode_matrix :
    decode 0xC6AB105F = .mma 21 11 1 1 1 1 7
    ∧ decode 0xC4001180 = .mzero 1 2
    ∧ decode 0xC6A01259 = .mrd 21 1 1 25
    ∧ decode 0xC6A01359 = .mwr 21 1 1 25
    ∧ decode 0xC6AB14A1 = .mld 21 11 1 2 2 1
    ∧ decode 0xC6AB15A1 = .mst 21 11 1 2 2 1
    ∧ decode 0xC6AB0601 = .mxsend 21 11 1
    ∧ decode 0xC6A00701 = .mstat 21 1 := by decide

/-- Words of the forms of Engine.lean, written from the field places of the spec's encoding tables. -/
theorem test_decode_engine :
    decode 0xCAAB0000 = .ecopy 21 11
    ∧ decode 0xCAAB0100 = .eget 21 11
    ∧ decode 0xCAAB0200 = .eput 21 11
    ∧ decode 0xCAAB0300 = .egather 21 11
    ∧ decode 0xCAAB0400 = .escatter 21 11
    ∧ decode 0xCAAB0500 = .eremap 21 11
    ∧ decode 0xCAAB0600 = .epool 21 11
    ∧ decode 0xCAAB0700 = .emerge 21 11
    ∧ decode 0xCAAB0800 = .esend 21 11 := by decide

/-- Words of the forms of Timeline.lean, written from the field places of the spec's encoding tables. -/
theorem test_decode_timeline :
    decode 0xCEA10000 = .tread 21 1
    ∧ decode 0xCC2B0400 = .twait 1 11
    ∧ decode 0xCC000800 = .evret
    ∧ decode 0xCEA10C00 = .tissue 21 1 := by decide

/-- Words of the forms of Stream.lean, written from the field places of the spec's encoding tables. -/
theorem test_decode_stream :
    decode 0xD0200044 = .qopen 1 1 1
    ∧ decode 0xD0200400 = .qadv 1
    ∧ decode 0xD2A10800 = .qend 21 1
    ∧ decode 0xD0200C00 = .qclose 1 := by decide

/-- Words of the forms of Shard.lean, written from the field places of the spec's encoding tables. -/
theorem test_decode_shard :
    decode 0xD551E820 = .ldt 21 1 29 1
    ∧ decode 0xD6B1EA20 = .vldt 43 1 29 1 := by decide

/-- Words of the forms of React.lean, written from the field places of the spec's encoding tables. -/
theorem test_decode_react :
    decode 0xD8200001 = .rget 1 1
    ∧ decode 0xDAA00405 = .rkey 21 1 1
    ∧ decode 0xD8200BDE = .talloc 1 990
    ∧ decode 0xD8010C00 = .emit 1
    ∧ decode 0xD8001000 = .commit
    ∧ decode 0xD8001400 = .abort
    ∧ decode 0xD82B1800 = .susp 1 11
    ∧ decode 0xD8001C00 = .yield
    ∧ decode 0xDAAB2001 = .part 21 11 1
    ∧ decode 0xDAA02400 = .crewid 21
    ∧ decode 0xD8002800 = .crewrel
    ∧ decode 0xDAAB2C41 = .wmem 21 11 1 1
    ∧ decode 0xD8003000 = .pause
    ∧ decode 0xDC152000 = .psplit 21 := by decide

/-- Words of the forms of Sync.lean, written from the field places of the spec's encoding tables. -/
theorem test_decode_sync :
    decode 0xDC000000 = .barRow
    ∧ decode 0xDC000400 = .barCol
    ∧ decode 0xDC000800 = .barSg
    ∧ decode 0xDC150C40 = .xmit 21 1
    ∧ decode 0xDEAB1000 = .xsel 21 11
    ∧ decode 0xDC151401 = .ipf 21 1
    ∧ decode 0xDC151801 = .ipin 21 1
    ∧ decode 0xDC151C01 = .iunpin 21 1 := by decide

/-- Words of the forms of CapForms.lean, written from the field places of the spec's encoding tables. -/
theorem test_decode_capForms :
    decode 0xE02B0040 = .kbound 1 11 1
    ∧ decode 0xE02B0440 = .kperm 1 11 1
    ∧ decode 0xE02B0840 = .kaddr 1 11 1
    ∧ decode 0xE02B0C40 = .kformat 1 11 1
    ∧ decode 0xE0201040 = .kbase 1 1
    ∧ decode 0xE0201444 = .kseal 1 1 1
    ∧ decode 0xE0201844 = .kunseal 1 1 1
    ∧ decode 0xE02B1C40 = .klease 1 11 1
    ∧ decode 0xE2A02040 = .kgaddr 21 1
    ∧ decode 0xE2A02440 = .kglen 21 1
    ∧ decode 0xE2A02840 = .kgbase 21 1
    ∧ decode 0xE2A02C40 = .kgperm 21 1
    ∧ decode 0xE2A03040 = .kgspace 21 1
    ∧ decode 0xE2A03440 = .kgtag 21 1 := by decide

/-- Words of the forms of System.lean, written from the field places of the spec's encoding tables. -/
theorem test_decode_system :
    decode 0xE40002F5 = .ecall 757
    ∧ decode 0xE4000400 = .tret
    ∧ decode 0xE6A00BDE = .srr 21 990
    ∧ decode 0xE4150FDE = .srw 21 990
    ∧ decode 0xE6A01092 = .fence 21 1 1 1
    ∧ decode 0xE4002400 = .wfe
    ∧ decode 0xE4002800 = .halt
    ∧ decode 0xFABCDEF5 = .hint 45932277 := by decide

/-- Words of the forms of Translate.lean, written from the field places of the spec's encoding tables. -/
theorem test_decode_translate :
    decode 0xE6AB1400 = .tlbw 21 11
    ∧ decode 0xE4151800 = .tlbflush 21
    ∧ decode 0xE4152000 = .sdown 21 := by decide

/-- Words of the forms of Mailbox.lean, written from the field places of the spec's encoding tables. -/
theorem test_decode_mailbox :
    decode 0xE6AB1C00 = .mboxSend 21 11
    ∧ decode 0xE6AB1C00 = .mboxSend 21 11
    ∧ decode 0xE6AB1C00 = .mboxSend 21 11 := by decide

/-- An ill-formed term for each check of these forms, which the check refuses. -/
theorem test_illFormed_1 :
    (Instr.amoAdd 1 1 1 1 7 1).wellFormed = false
    ∧ (Instr.amoSwap 1 1 1 1 7 1).wellFormed = false
    ∧ (Instr.amoCas 1 1 1 1 7 1).wellFormed = false
    ∧ (Instr.amoMax 1 1 1 1 7 1 1).wellFormed = false
    ∧ (Instr.amoMin 1 1 1 1 7 1 1).wellFormed = false
    ∧ (Instr.amoAnd 1 1 1 1 7 1).wellFormed = false
    ∧ (Instr.amoOr 1 1 1 1 7 1).wellFormed = false
    ∧ (Instr.vld 1 1 1 1 9 1).wellFormed = false
    ∧ (Instr.vst 1 1 1 1 9 1).wellFormed = false
    ∧ (Instr.vadd 1 1 1 9 0 1).wellFormed = false
    ∧ (Instr.vadd 1 1 1 0 6 1).wellFormed = false
    ∧ (Instr.vadd 1 1 1 6 1 1).wellFormed = false
    ∧ (Instr.vsub 1 1 1 9 0 1).wellFormed = false
    ∧ (Instr.vsub 1 1 1 0 6 1).wellFormed = false
    ∧ (Instr.vsub 1 1 1 6 1 1).wellFormed = false
    ∧ (Instr.vmul 1 1 1 9 0 1).wellFormed = false := by decide

/-- An ill-formed term for each check of these forms, which the check refuses. -/
theorem test_illFormed_2 :
    (Instr.vmul 1 1 1 0 6 1).wellFormed = false
    ∧ (Instr.vmul 1 1 1 6 1 1).wellFormed = false
    ∧ (Instr.vdiv 1 1 1 4 0 1).wellFormed = false
    ∧ (Instr.vdiv 1 1 1 0 6 1).wellFormed = false
    ∧ (Instr.vmin 1 1 1 9 1).wellFormed = false
    ∧ (Instr.vmax 1 1 1 9 1).wellFormed = false
    ∧ (Instr.vfma 1 1 1 6 0 1).wellFormed = false
    ∧ (Instr.vfma 1 1 1 0 6 1).wellFormed = false
    ∧ (Instr.vfms 1 1 1 6 0 1).wellFormed = false
    ∧ (Instr.vfms 1 1 1 0 6 1).wellFormed = false
    ∧ (Instr.vsqrt 1 1 4 0 1).wellFormed = false
    ∧ (Instr.vsqrt 1 1 0 6 1).wellFormed = false
    ∧ (Instr.vrcp 1 1 4 0 1).wellFormed = false
    ∧ (Instr.vrcp 1 1 0 6 1).wellFormed = false
    ∧ (Instr.vrsqrt 1 1 4 0 1).wellFormed = false
    ∧ (Instr.vrsqrt 1 1 0 6 1).wellFormed = false := by decide

/-- An ill-formed term for each check of these forms, which the check refuses. -/
theorem test_illFormed_3 :
    (Instr.vexp 1 1 4 0 1).wellFormed = false
    ∧ (Instr.vexp 1 1 0 6 1).wellFormed = false
    ∧ (Instr.vlog 1 1 4 0 1).wellFormed = false
    ∧ (Instr.vlog 1 1 0 6 1).wellFormed = false
    ∧ (Instr.vsin 1 1 4 0 1).wellFormed = false
    ∧ (Instr.vsin 1 1 0 6 1).wellFormed = false
    ∧ (Instr.vcos 1 1 4 0 1).wellFormed = false
    ∧ (Instr.vcos 1 1 0 6 1).wellFormed = false
    ∧ (Instr.vtanh 1 1 4 0 1).wellFormed = false
    ∧ (Instr.vtanh 1 1 0 6 1).wellFormed = false
    ∧ (Instr.vneg 1 1 9 1).wellFormed = false
    ∧ (Instr.vabs 1 1 9 1).wellFormed = false
    ∧ (Instr.vmov 1 1 9 1).wellFormed = false
    ∧ (Instr.vcmp 1 1 1 9 0 1).wellFormed = false
    ∧ (Instr.vcmp 1 1 1 6 6 1).wellFormed = false
    ∧ (Instr.vsel 1 1 1 9 1).wellFormed = false := by decide

/-- An ill-formed term for each check of these forms, which the check refuses. -/
theorem test_illFormed_4 :
    (Instr.vperm 1 1 1 9 1).wellFormed = false
    ∧ (Instr.vredAdd 1 1 9 0 1).wellFormed = false
    ∧ (Instr.vredAdd 1 1 0 6 1).wellFormed = false
    ∧ (Instr.vredAdd 1 1 6 1 1).wellFormed = false
    ∧ (Instr.vredMin 1 1 9 1).wellFormed = false
    ∧ (Instr.vredMax 1 1 9 1).wellFormed = false
    ∧ (Instr.vcvt 1 1 1 9 0 0 1).wellFormed = false
    ∧ (Instr.vcvt 1 1 1 0 9 0 1).wellFormed = false
    ∧ (Instr.vcvt 1 1 1 0 0 0 1).wellFormed = false
    ∧ (Instr.vcvt 1 1 1 0 1 6 1).wellFormed = false
    ∧ (Instr.vcvtAmax 1 1 1 9 2 0 1).wellFormed = false
    ∧ (Instr.vcvtAmax 1 1 1 0 0 0 1).wellFormed = false
    ∧ (Instr.vcvtAmax 1 1 1 0 2 6 1).wellFormed = false
    ∧ (Instr.vand 1 1 1 9 1).wellFormed = false
    ∧ (Instr.vor 1 1 1 9 1).wellFormed = false
    ∧ (Instr.vxor 1 1 1 9 1).wellFormed = false := by decide

/-- An ill-formed term for each check of these forms, which the check refuses. -/
theorem test_illFormed_5 :
    (Instr.vsll 1 1 1 9 1).wellFormed = false
    ∧ (Instr.vsrl 1 1 1 9 1).wellFormed = false
    ∧ (Instr.vsra 1 1 1 9 1).wellFormed = false
    ∧ (Instr.vcopysign 1 1 1 6 1).wellFormed = false
    ∧ (Instr.jseed 1 1 9).wellFormed = false
    ∧ (Instr.jext 1 1 1 9 0).wellFormed = false
    ∧ (Instr.jext 1 1 1 0 6).wellFormed = false
    ∧ (Instr.jcoef 1 1 1 9).wellFormed = false
    ∧ (Instr.jset 1 1 1 9).wellFormed = false
    ∧ (Instr.jshift 1 1 9 0).wellFormed = false
    ∧ (Instr.jshift 1 1 0 6).wellFormed = false
    ∧ (Instr.jint 1 1 9 0).wellFormed = false
    ∧ (Instr.jint 1 1 0 6).wellFormed = false
    ∧ (Instr.mma 1 1 14 1 0 0 0).wellFormed = false
    ∧ (Instr.mma 1 1 0 1 3 0 0).wellFormed = false
    ∧ (Instr.mma 1 1 0 1 0 1 0).wellFormed = false := by decide

/-- An ill-formed term for each check of these forms, which the check refuses. -/
theorem test_illFormed_6 :
    (Instr.mzero 14 0).wellFormed = false
    ∧ (Instr.mzero 0 1).wellFormed = false
    ∧ (Instr.mrd 1 14 0 1).wellFormed = false
    ∧ (Instr.mrd 1 0 3 1).wellFormed = false
    ∧ (Instr.mwr 1 14 0 1).wellFormed = false
    ∧ (Instr.mwr 1 0 3 1).wellFormed = false
    ∧ (Instr.mld 1 1 14 0 0 1).wellFormed = false
    ∧ (Instr.mld 1 1 0 1 0 1).wellFormed = false
    ∧ (Instr.mld 1 1 0 0 2 1).wellFormed = false
    ∧ (Instr.mst 1 1 14 0 0 1).wellFormed = false
    ∧ (Instr.mst 1 1 0 1 0 1).wellFormed = false
    ∧ (Instr.mst 1 1 0 0 2 1).wellFormed = false
    ∧ (Instr.ldt 1 1 1 9).wellFormed = false
    ∧ (Instr.vldt 1 1 1 9).wellFormed = false
    ∧ (Instr.rkey 1 6 1).wellFormed = false
    ∧ (Instr.part 1 1 3).wellFormed = false := by decide

/-- An ill-formed term for each check of these forms, which the check refuses. -/
theorem test_illFormed_7 :
    (Instr.ipf 1 2).wellFormed = false
    ∧ (Instr.ipin 1 2).wellFormed = false
    ∧ (Instr.iunpin 1 2).wellFormed = false
    ∧ (Instr.fence 1 7 1 1).wellFormed = false
    ∧ (Instr.fence 1 0 0 1).wellFormed = false
    ∧ (Instr.fence 1 0 1 0).wellFormed = false
    ∧ (Instr.vldx 1 1 1 1 9).wellFormed = false
    ∧ (Instr.vstx 1 1 1 1 9).wellFormed = false := by decide

/-- Words with a reserved code in a field, or a bit in a field that must be zero, are unassigned (R84). -/
theorem test_reserved_words :
    [0x74110A3C, 0x74110AFE, 0x74110BBC, 0x80104191, 0x84104191, 0x88104191, 0x8C104141, 0x94104191, 0x9C104161, 0xA010400D, 0xA0104241, 0xA010430D, 0xA0104541, 0xA010460D, 0xA0104891, 0xA4104191, 0xAC104191, 0xB0104063, 0xB4105901, 0xB410501D, 0xB810502D, 0xBC104195, 0xBC10419B, 0xC0104990].all (fun w : BitVec 32 => decode w == .unassignedWord w) = true := by decide

/-- A bit set where the encoding asks for zero makes the word unassigned (R84). -/
theorem test_zero_fields :
    [0x06ABE801, 0x06AB0336, 0xA2B54A13, 0xC6A00703, 0xCC000801, 0xD0200401, 0xD551E821, 0xD8200005, 0xE0201041, 0xE4000401, 0xE4002401, 0xE6A02C19].all (fun w : BitVec 32 => decode w == .unassignedWord w) = true := by decide

/-! ## Small states -/

/-- The state of log 2, with a hint to run next. -/
def lab : State := State.reset.withFetchWord 32 0xF8000000

/-- `lab` with another context, another core, other scalar registers. -/
def inCtx (f : Ctx → Ctx) : State := lab.setCtx (f lab.ctx)
def onMe (f : Core → Core) : State := lab.setMe (f lab.me)
def regs (l : List (Nat × Word)) : State := l.foldl (fun s p => s.setX p.1 p.2) lab

/-- `lab` with the reaction's fields and the launch's changed. -/
def reacts (f : Reaction → Reaction) (s : State := lab) : State :=
  match s.reaction 0 0 with
  | some r => s.setReaction 0 (f r)
  | none => s
def launches (f : Launch → Launch) (s : State := lab) : State :=
  match s.launch 1 0 with
  | some l => s.setLaunch (f l)
  | none => s

/-- A capability to the whole pool, and `lab` with it in `k1`. -/
def poolCap : Cap := Cap.range 0 0x3FF 0 98304
def labk : State := lab.setK 1 poolCap

/-- The state after an instruction. -/
def after (i : Instr) (s : State) : State := match exec i s with
  | .next t => t
  | _ => s

/-- Whether an instruction answers a next state. -/
def goes (i : Instr) (s : State) : Bool := match exec i s with
  | .next _ => true
  | _ => false

/-- Whether a result is there and has a property. -/
def okAnd {ε α : Type} (r : Except ε α) (p : α → Bool) : Bool := match r with
  | .ok a => p a
  | .error _ => false
def someAnd {α : Type} (r : Option α) (p : α → Bool) : Bool := match r with
  | some a => p a
  | none => false

/-! ## One step each, with results that the manual states or that follow from its tables by hand -/

/-- R116: the manual's examples. -/
theorem test_div : (after (.div 3 1 2) (regs [(1, -7), (2, 2)])).x 3 = -3 := by decide +kernel
theorem test_rem : (after (.rem 3 1 2) (regs [(1, -7), (2, 2)])).x 3 = -1 := by decide +kernel
theorem test_divn_zero : (after (.divn 3 1 2) (regs [(1, 7)])).x 3 = BitVec.allOnes 64 := by decide +kernel
theorem test_remn_zero : (after (.remn 3 1 2) (regs [(1, 7)])).x 3 = 7 := by decide +kernel
/-- Table 6.1: a signed product of two negatives, and an unsigned one that is large. -/
theorem test_mulh : (after (.mulh 3 1 2) (regs [(1, -1), (2, -1)])).x 3 = 0 := by decide +kernel
theorem test_mulhn : (after (.mulhn 3 1 2) (regs [(1, -1), (2, -1)])).x 3 = 0xFFFFFFFFFFFFFFFE := by decide +kernel
/-- R115: the amount of a register shift is its six low bits. -/
theorem test_sra : (after (.sra 3 1 2) (regs [(1, 0x8000000000000000), (2, 67)])).x 3 = 0xF000000000000000 := by decide +kernel
theorem test_slt : (after (.slt 3 1 2) (regs [(1, -1), (2, 1)])).x 3 = 1 := by decide +kernel
theorem test_sltn : (after (.sltn 3 1 2) (regs [(1, -1), (2, 1)])).x 3 = 0 := by decide +kernel
/-- R78: `addi` extends the sign and `ori` zeros; R116's text: `lih` of 0x1F3A. -/
theorem test_addi : (after (.addi 1 1 0xFFFF) (regs [(1, 0)])).x 1 = -1 := by decide +kernel
theorem test_ori : (after (.ori 1 1 0xFFFF) (regs [(1, 0)])).x 1 = 0xFFFF := by decide +kernel
theorem test_lih : (after (.lih 5 0 0x1F3A) lab).x 5 = 0x1F3A0000 := by decide +kernel
/-- R66: `x0` takes nothing. -/
theorem test_x0 : (after (.addi 0 0 5) lab).x 0 = 0 := by decide +kernel
/-- R117, R118: a taken branch, a link, and a return that clears two bits. -/
theorem test_bltn : (after (.bltn 1 2 5) (regs [(1, 1), (2, -1)])).ctx.pc = 20 := by decide +kernel
theorem test_jal : (after (.jal 1 4) lab).x 1 = 4 ∧ (after (.jal 1 4) lab).ctx.pc = 16 := by decide +kernel
theorem test_jalr : (after (.jalr 1 1 3) (regs [(1, 96)])).ctx.pc = 96 ∧ (after (.jalr 1 1 3) (regs [(1, 96)])).x 1 = 4 := by decide +kernel
/-- R119: a target below 0 traps, and no link is written. -/
theorem test_jal_below : (after (.jal 1 (-1)) lab).ctx.tcause = 1 ∧ (after (.jal 1 (-1)) lab).ctx.level = .supervisor := by decide +kernel
/-- R2, R200, R201: a store and the loads of its bytes, with their extension. -/
theorem test_store_load :
    let s := after (.stw 2 1 0 0 16) (labk.setX 2 0x80C0FFEE)
    (after (.ldh 3 1 0 0 18) s).x 3 = 0xFFFFFFFFFFFF80C0 ∧ (after (.ldwn 3 1 0 0 16) s).x 3 = 0x80C0FFEE
      ∧ (after (.ldbn 3 1 0 0 17) s).x 3 = 0xFF := by decide +kernel
/-- R202, R203: `stk` keeps a tag, and a data store clears it. -/
theorem test_tag :
    let s := after (.stk 1 1 0 0 32) labk
    (after (.ldk 2 1 0 0 32) s).k 2 = poolCap ∧ ((after (.ldk 2 1 0 0 32) (after (.stb 0 1 0 0 47) s)).k 2).tag = false := by decide +kernel
/-- R207: an atomic returns the old word, and leaves the sum. -/
theorem test_amoAdd :
    let s := after (.amoAdd 3 1 2 0 1 1) (after (.std 4 1 0 0 0) ((labk.setX 2 5).setX 4 7))
    s.x 3 = 7 ∧ (after (.ldd 5 1 0 0 0) s).x 5 = 12 := by decide +kernel
/-- R277: member 39 of a `group` crew of E = 100 on axis 0. -/
theorem test_part : (after (.part 3 1 0) ((reacts (fun r => { r with shape := 2 })).setCtx
    { (regs [(1, 100)]).ctx with crewcoord := 0x402750 })).x 3 = 0x0000000C00000040 := by decide +kernel
/-- R217: `tread` clears its FAULT bit. -/
theorem test_tread : (after (.tread 3 1) (inCtx fun c => { c with fault := 0xFF })).ctx.fault = 0xFD := by decide +kernel
/-- Table 14.3: the cause of a capability without a tag is 7, and its value the effective address. -/
theorem test_capTag : (after (.ldd 3 2 0 0 24) lab).ctx.tcause = 7 ∧ (after (.ldd 3 2 0 0 24) lab).ctx.tvalue = 24 := by decide +kernel
/-- R84: an unassigned word is the value of its trap. -/
theorem test_unassigned : (after (.unassignedWord 0xFFFFFFFF) lab).ctx.tvalue = 0xFFFFFFFF := by decide +kernel
/-- R326: `ecall` at user level. -/
theorem test_ecall : (after (.ecall 5) lab).ctx.tcause = 13 ∧ (after (.ecall 5) lab).ctx.tvalue = 5 := by decide +kernel

/-! ## Witnesses: for each statement with hypotheses, states and operands that meet all of them, clause by clause -/

/-- A store of `lab`'s reaction in flight to HBM. -/
def flight : InFlight :=
  { core := ⟨0, 0⟩, x := some 0, priv := .user, seq := 0, addr := 2 ^ 64, bytes := [1], poison := [], tags := [], clean := [], level := 2
    link := none, foreign := false }

def sup : State := inCtx fun c => { c with level := .supervisor, space := .handler }
def mach : State := onMe fun k => { k with saved := some k.ctx, ctx := { k.ctx with level := .machine, space := .handler } }

theorem witness_EncodeThenDecode :
    let i := Instr.amoCas 31 15 31 3 6 1
    i.isWord = true ∧ i.wellFormed = true ∧ (Instr.mboxBind 31 31).isWord = true ∧ (Instr.mboxBind 31 31).wellFormed = true
      ∧ (Instr.vldt 63 15 31 8).isWord = true ∧ (Instr.vldt 63 15 31 8).wellFormed = true := by decide +kernel

/-- Words of every unassigned major; the levels; a core at supervisor level, one without a reaction, one in an event handler, one with an
event to take; and a core at the end of its code, with an interrupt to take too. -/
theorem witness_IllegalTraps :
    ([0x00000000, 0x03FFFFFF, 0x1C000000, 0x1FFFFFFF, 0xF0000000, 0xF3FFFFFF, 0xF4000000, 0xF7FFFFFF, 0xFC000000, 0xFFFFFFFF].all
      fun w : BitVec 32 => [0, 7, 0x3C, 0x3D, 0x3F].contains (w.toNat / 2 ^ 26)) = true
      ∧ lab.ctx.level = .user ∧ sup.ctx.level ≠ .machine ∧ sup.ctx.level ≠ .user
      ∧ { lab with cores := lab.cores.map fun (c : CoreId × Core) => (c.1, { c.2 with rx := none }) }.myReaction = none
      ∧ (inCtx fun c => { c with inev := true }).ctx.inev = true
      ∧ (let s := inCtx fun c => { c with events := [(1, 2)] }; someAnd s.myReaction (fun r => r.shape == 0) = true ∧ eventPending s = true)
      ∧ ([[], [2]].all fun (irqs : List Nat) =>
        let s := (inCtx fun c => { c with pc := 65532 }).setMe { (inCtx fun c => { c with pc := 65532 }).me with irqs := irqs }
        let u : State := { s.tickTimers with agenda := [], tick := s.tick + 1, cur := ⟨0, 0⟩ }
        s.agenda == [.core ⟨0, 0⟩] && u.me.run == .running && u.me.hold == .none && u.me.irqs == irqs && ends u == false && decide (u.codeLength ≤ u.ctx.pc)) = true := by
  decide +kernel

theorem witness_StepRunsTheDecodedInstruction :
    let u := { lab.tickTimers with agenda := [], tick := lab.tick + 1, cur := ⟨0, 0⟩ }
    lab.agenda = [.core ⟨0, 0⟩] ∧ u.me.run = .running ∧ u.me.hold = .none ∧ u.me.irqs = [] ∧ u.me.overflow = [] ∧ asideOut u = false ∧ eventDue u = false
      ∧ coreHeld u = false ∧ u.ctx.pc < u.codeLength ∧ u.mem.poisonIn (u.codeAddr (u.ctx.pc / 64 * 64)) 64 = []
      ∧ (match decodeBytes (u.codeBytes u.ctx.pc) with | .ok p => p == (.hint 0, []) | .error _ => false) = true := by decide +kernel

theorem witness_EventsAndInterruptsTakeTurns :
    let s := { lab with agenda := [.event .powerOn] }
    (s.agenda = [.event .powerOn] ∧ isCode .powerOn = false)
      ∧ ([([2], 2), ([1, 3], 3)].all fun (p : List Nat × Nat) =>
        let t := onMe fun k => { k with irqs := p.1 }
        let u : State := { t.tickTimers with agenda := [], tick := t.tick + 1, cur := ⟨0, 0⟩ }
        t.agenda == [.core ⟨0, 0⟩] && u.me.run == .running && u.me.hold == .none && decide (u.ctx.pc < u.codeLength) && u.me.irqs != []
          && p.2 == (if 3 ∈ u.me.irqs then 3 else u.me.irqs.headD 0) && u.ctx.level != .machine && u.myReaction.isSome) = true := by decide +kernel

theorem witness_StepKeepsMemoryCanonical : lab.mem.wf ∧ (match step lab with | .next _ => true | _ => false) = true := by decide +kernel

theorem witness_DivisionResults :
    let x : Word := BitVec.intMin 64
    let y : Word := BitVec.allOnes 64
    (regs [(1, x), (2, y)]).x 1 = x ∧ (regs [(1, x), (2, y)]).x 2 = y ∧ (regs [(1, x)]).x 2 = 0
      ∧ (let s := regs [(1, x), (2, 1)]; s.x 2 ≠ 0 ∧ ¬ (s.x 1 = x ∧ s.x 2 = y)) := by decide +kernel

/-- Each comparison holds and fails, and a target at the first and at the last word, just below and just past the code. -/
theorem witness_ControlResults :
    let s := regs [(1, -1), (2, 1), (3, 65528), (4, 65532)]
    let at' := fun (pc : Nat) => (inCtx fun c => { c with pc := pc }).ctx.pc
    s.x 1 ≠ s.x 2 ∧ s.x 1 = s.x 1 ∧ (s.x 1).toInt < (s.x 2).toInt ∧ (s.x 1).toInt ≤ (s.x 2).toInt ∧ ¬ (s.x 2).toInt < (s.x 1).toInt
      ∧ (s.x 2).toNat < (s.x 1).toNat ∧ (s.x 2).toNat ≤ (s.x 1).toNat ∧ ¬ (s.x 1).toNat < (s.x 2).toNat
      ∧ (at' 8 : Int) + 4 * (-2 : BitVec 16).toInt = 0 ∧ (0 : Int) < s.codeLength ∧ (at' 65524 : Int) + 4 * (1 : BitVec 16).toInt = 65528
      ∧ (65528 : Int) < s.codeLength ∧ (at' 4 : Int) + 4 * (-2 : BitVec 16).toInt < 0 ∧ (s.codeLength : Int) ≤ (at' 65528 : Int) + 4 * (1 : BitVec 16).toInt
      ∧ ((s.x 3 + BitVec.ofInt 64 (0 : BitVec 16).toInt) &&& ~~~3#64).toNat < s.codeLength
      ∧ s.codeLength ≤ ((s.x 4 + BitVec.ofInt 64 (3 : BitVec 16).toInt) &&& ~~~3#64).toNat
      ∧ (at' 8 : Int) + 4 * (-3 : BitVec 21).toInt < 0 ∧ (at' 8 : Int) + 4 * (-2 : BitVec 21).toInt = 0 := by decide +kernel

theorem witness_StorageLaws : (31 : BitVec 5) ≠ 0 ∧ 255 < 2 ^ (8 * 1) ∧ 0 < 2 ^ (8 * 0) ∧ ([1] : List Byte) ≠ [] := by decide +kernel

theorem witness_UserTrapEntersTheSteward : lab.ctx.level = .user ∧ lab.myVif.bind lab.vif = some probeVif := by decide +kernel

theorem witness_TrapsBeyondUserLevel :
    sup.ctx.level = .supervisor ∧ mach.ctx.level = .machine ∧ (lab.ctx.level ≠ .machine ∧ lab.myLaunch = some probeLaunch ∧ probeLaunch.state ≠ .ended)
      ∧ mach.myReaction = some (probeReaction (frameVa probeVif.p 0 0))
      ∧ (let r := probeReaction (frameVa probeVif.p 0 0)
         let m := { mach with stores := [flight] }
         (storesOut mach 0 r || opsOut mach 0 r || !abortOpen mach 0 r) = false ∧ m.myReaction = some r ∧ m.ctx.level = .machine
           ∧ storesOut m 0 r = true) := by
  decide +kernel

/-- Whether the steward's or the machine handler's return of a core may go where its registers say. -/
def mayReturn (s : State) : Bool :=
  let machine := s.ctx.level == .machine
  let status := if machine then s.me.mstatus else s.ctx.tstatus
  let at' := fun (pc : Word) => returnOk s (pc.toNat / 4 * 4) (returnTo status).2
  if machine then at' s.me.mpc else at' s.ctx.tpc

/-- The returns: from the steward to user level, to a handler and to the end of the code after a run past it, with the cause written since; from machine level;
with END set; to an offset outside the code; with a store to the frame in flight; and on a core whose reaction has been stopped. -/
theorem witness_EcallAndTrapReturnResults :
    let t := sup.setCtx { sup.ctx with tpc := 4095, tstatus := 0x10 }
    let e := sup.setCtx { sup.ctx with tstatus := 0x100 }
    let p := sup.setCtx { sup.ctx with
      tpc := 65532, tcause := 7, tvalue := 9, below := some ⟨65532, .overlay, Vector.replicate 8 StreamReg.closed⟩ }
    let out := sup.setCtx { sup.ctx with tpc := 65532 }
    let w := { sup with seq := 1, stores := [{ flight with priv := .supervisor, addr := frameAddr sup }] }
    let gone := { sup with cores := sup.cores.map fun (c : CoreId × Core) => (c.1, { c.2 with rx := none }) }
    lab.ctx.level = .user ∧ sup.ctx.level = .supervisor ∧ sup.myVif.bind sup.vif = some probeVif
      ∧ ([sup, t, p].all fun (s : State) => s.ctx.level == .supervisor && s.myReaction.isSome && s.myVif.bind s.vif == some probeVif
        && bit s.ctx.tstatus.toNat 8 == false && frameBusy s == false && mayReturn s) = true
      ∧ p.ctx.tpc.toNat = lengthOf p .overlay
      ∧ mach.ctx.level = .machine ∧ mach.me.saved = some lab.ctx ∧ mach.myReaction.isSome = true ∧ bit mach.me.mstatus.toNat 8 = false
      ∧ frameBusy mach = false ∧ evictDue mach = false ∧ mayReturn mach = true
      ∧ e.ctx.level = .supervisor ∧ bit e.ctx.tstatus.toNat 8 = true ∧ e.myReaction.isSome = true ∧ frameBusy e = false
      ∧ out.myReaction.isSome = true ∧ mayReturn out = false ∧ w.myReaction.isSome = true ∧ frameBusy w = true ∧ mayReturn w = true
      ∧ gone.ctx.level ≠ .user ∧ gone.myReaction = none ∧ gone.cur.idx ≠ Config.tsc := by decide +kernel

theorem witness_TrapThenReturnRestoresTheRegisters :
    lab.ctx.level = .user ∧ lab.myReaction.isSome = true ∧ lab.myVif.bind lab.vif = some probeVif
      ∧ frameBusy (takeTrap lab .illegal 0) = false ∧ lab.ctx.pc % 4 = 0 ∧ lab.ctx.pc < 2 ^ 64 ∧ lab.ctx.pc < lab.codeLength := by decide +kernel

theorem witness_UserCodeStaysAtUserLevel :
    isCode (.addi 1 0 1) = true ∧ isCode (.ecall 0) = true ∧ lab.ctx.level = .user ∧ goes (.addi 1 0 1) lab = true ∧ goes (.ecall 0) lab = true := by decide +kernel

theorem witness_UserCodeLeavesOtherCores :
    (after .abort lab).ctx.level ≠ .machine ∧ lab.me.ring = [] ∧ isCode .abort = true ∧ lab.ctx.level = .user ∧ goes .abort lab = true ∧ (⟨0, 1⟩ : CoreId) ≠ lab.cur := by decide +kernel

/-- Every range of numbers at both ends, and each level. -/
theorem witness_SystemRegisterResults :
    lab.ctx.level = .user ∧ sup.ctx.level ≠ .user ∧ mach.ctx.level = .machine ∧ sup.ctx.level ≠ .machine
      ∧ (20 ≤ (20 : BitVec 10).toNat ∧ (0xFF : BitVec 10).toNat < 0x100) ∧ (0x104 ≤ (0x104 : BitVec 10).toNat ∧ (0x1FF : BitVec 10).toNat < 0x200)
      ∧ 0x204 ≤ (0x204 : BitVec 10).toNat ∧ 0x204 ≤ (0x3FF : BitVec 10).toNat ∧ 0x100 ≤ (0x100 : BitVec 10).toNat ∧ 0x200 ≤ (0x203 : BitVec 10).toNat
      ∧ (8 ≤ (8 : BitVec 10).toNat ∧ (13 : BitVec 10).toNat < 14)
      ∧ ((regs [(1, 4)]).x 1).toNat % 8 < 5 ∧ 5 ≤ ((regs [(1, 5)]).x 1).toNat % 8 ∧ ((regs [(1, 7)]).x 1).toNat < 8 ∧ 8 ≤ ((regs [(1, 8)]).x 1).toNat
      ∧ ((regs [(1, 2)]).x 1).toNat % 4 ≠ 3 := by decide +kernel

theorem witness_SystemFormResults :
    let mine := ownStores
    let due := fun (s : State) => (!s.ctx.events.isEmpty && bit s.ctx.evec.toNat 0) || !s.me.irqs.isEmpty
    let f := { lab with stores := [flight] }
    (bit (2 : BitVec 3).toNat 1 && mine lab) = false ∧ (bit (1 : BitVec 3).toNat 1 && mine f) = false ∧ (bit (2 : BitVec 3).toNat 1 && mine f) = true
      ∧ due (onMe fun k => { k with irqs := [1] }) = true ∧ due (inCtx fun c => { c with events := [(0, 0)], evec := 1 }) = true
      ∧ due (inCtx fun c => { c with events := [(0, 0)] }) = false ∧ mach.ctx.level = .machine := by decide +kernel

/-- Each check fails alone, and all pass at both ends of the bounds. -/
theorem witness_CapCheckOrder :
    let place := fun (c : Cap) (lv : Level) => c.space < 8 ∧ (c.space = 7 → lv = .machine)
    let within := fun (c : Cap) (va size : Nat) => c.baseAt va = c.base ∧ c.base ≤ va ∧ (va : Int) + size ≤ c.top
    let c := Cap.range 0 3 4096 64
    Cap.null.tag = false ∧ c.tag = true ∧ (c.isSealed = false ∧ c.perms &&& 1 = 1) ∧ c.perms &&& 4 ≠ 4 ∧ place c .user ∧ within c 4096 64 ∧ within c 4159 1
      ∧ ¬ within c 4159 2 ∧ ¬ within c 4095 1 ∧ ¬ within c (4096 + 2 ^ 12) 1 ∧ ¬ place (Cap.range 7 3 0 64) .user ∧ place (Cap.range 7 3 0 64) .machine ∧ ¬ place (Cap.range 8 3 0 64) .machine
      ∧ (let q : Cap := { c with bits := (c.put 107 1 1).bits }; q.tag = true ∧ ¬ (q.isSealed = false ∧ q.perms &&& 1 = 1)) := by decide +kernel

/-- A capability to a range, `lab` with capabilities, and an interface whose weirs are finite and used up. -/
def capAt (sp base len va : Nat) : Cap := (Cap.range sp 0x3FF base len).put 0 56 va
def evictedOf (x : Nat) : Evicted := ⟨1, 0, x, false, Vector.replicate 8 StreamReg.closed, none⟩
def only {α : Type} (p : α → Bool) (l : List α) : Bool := match l with
  | [a] => p a
  | _ => false
def keys (l : List (Nat × Cap)) (s : State := lab) : State := l.foldl (fun s p => s.setK p.1 p.2) s
def dry : State := lab.setVif { probeVif with p := { probeVif.p with budgets := List.replicate 5 8 }, rem := List.replicate 5 0 }
def frameKey : Cap := capAt 2 (frameVa probeVif.p 0 0) 4096 (frameVa probeVif.p 0 0)
def poisoned (off : Nat) (s : State) : State := { s with mem := { s.mem with poison := [(poolAddr ⟨0, 0⟩ off) / 32] } }

def leaseOf : Lease := { id := 5, space := 2, va := 2 ^ 20, len := 2 ^ 16, resident := true, tag := 0, revokes := [] }
def leased : State := launches (fun l => { l with leases := [⟨5, 0x3FF, false⟩] }) (lab.setVif { probeVif with leases := [leaseOf] })

theorem witness_CapabilityFormResults :
    let open' := fun (c : Cap) => c.tag = true ∧ c.isSealed = false
    let derive := fun (c : Cap) => open' c ∧ c.perms &&& 512 = 512
    let may := fun (w : Cap) (p : Nat) => w.tag = true ∧ w.isSealed = false ∧ w.perms &&& p = p ∧ w.base ≤ w.va ∧ (w.va : Int) < w.top ∧ w.va < 2 ^ 20
    let shut : Cap := (poolCap.put 107 1 1).put 108 20 98303
    let c := capAt 2 (2 ^ 20) (2 ^ 16) (2 ^ 20)
    derive poolCap ∧ ((poolCap.va : Int) + 98304 ≤ poolCap.top ∧ Cap.expFor 98304 = some 6 ∧ poolCap.va % 2 ^ 6 = 0 ∧ 98304 % 2 ^ 6 = 0 ∧ poolCap.base ≤ poolCap.va)
      ∧ ((poolCap.va : Int) + 1 ≤ poolCap.top ∧ Cap.expFor 1 = some 0)
      ∧ ((0x3400000000000000 / 2 ^ 60 % 16 < 12) ∧ blogOk (0x3400000000000000 / 2 ^ 60 % 16) (0x3000000000000000 / 2 ^ 56 % 16) = true)
      ∧ may (capAt 0 0 98304 98303) 128 ∧ may (capAt 0 0 98304 0) 256 ∧ shut.tag = true ∧ shut.isSealed = true ∧ shut.otype = (capAt 0 0 98304 98303).va
      ∧ (let s := ((leased.setCtx { leased.ctx with level := .supervisor }).setX 1 5).setK 1 c;
        s.ctx.level ≠ .user ∧ derive (s.k 1) ∧ someAnd s.myLaunch (fun l => l.leases.any (·.id == leaseOf.id)) = true
          ∧ someAnd (s.myVif.bind s.vif) (fun f => f.leases.find? (·.id == leaseOf.id) == some leaseOf) = true
          ∧ leaseOf.id = (s.x 1).toNat % 2 ^ 16 ∧ c.space = leaseOf.space ∧ max c.base leaseOf.va < min c.top (leaseOf.va + leaseOf.len : Nat)
          ∧ okAnd (c.narrow (max c.base leaseOf.va).toNat (min c.top (leaseOf.va + leaseOf.len : Nat) - max c.base leaseOf.va).toNat) (fun _ => true) = true) := by
  decide +kernel

theorem witness_DerivationNeverWidens :
    ([(Instr.kbound 2 1 1, 64), (.kperm 2 1 1, 3), (.kaddr 2 1 1, 98303), (.kformat 2 1 1, 0)].all fun (p : Instr × Nat) =>
      let s := labk.setX 1 (BitVec.ofNat 64 p.2)
      goes p.1 s && (after p.1 s).ctx.pc == s.ctx.pc + 4 && ((after p.1 s).k 2).tag) = true
      ∧ (let s := labk.setK 2 (capAt 0 0 98304 5);
        ([Instr.kbase 3 1, .kseal 3 1 2].all fun i => goes i s && (after i s).ctx.pc == s.ctx.pc + 4 && ((after i s).k 3).tag) = true
          ∧ ((after (.kunseal 4 3 2) (after (.kseal 3 1 2) s)).k 4).tag = true) := by decide +kernel

/-- The one transfer of an access, whether it passes, and runs that are apart. -/
def opens (s : State) (key : Cap) (n : Nat) (ls : List Loc) : Bool := weirsOpen s [movedTo key.space n ls]
def clear (s : State) (ls : List Loc) : Bool := loadHeld s s.here ls == false && ls.any (locDown s) == false && anyBad s ls == false
def apartly (ls : List Loc) : Bool :=
  plainLocs ls && decide (ls.Pairwise fun l m => l.addr + l.len ≤ m.addr ∨ m.addr + m.len ≤ l.addr) && ls.all fun l => decide (0 < l.granule)

/-- The first and the last bytes of the pool, for each width. -/
theorem witness_ScalarLoadResults :
    ([(1, 98303), (2, 98302), (4, 98300), (8, 98296), (8, 0)].all fun (p : Nat × Nat) =>
      let s := labk.setX 2 (BitVec.ofNat 64 p.2)
      let a := effAddr (s.k 1) (s.x 2) (2 ^ 0) 0
      okAnd (operand s (s.k 1) a p.1 permLoad 1 .load) fun ls => clear s ls && opens s (s.k 1) p.1 ls) = true := by
  decide +kernel

/-- The own pool at both ends, and the frame in pinned memory. -/
theorem witness_CapabilityLoadsAndStores :
    ([(poolCap, 0), (poolCap, 98288), (frameKey, 0), (frameKey, 4080)].all fun (p : Cap × Nat) =>
      let s := keys [(1, p.1)] (lab.setX 2 (BitVec.ofNat 64 p.2))
      let a := effAddr (s.k 1) (s.x 2) (2 ^ 0) 0
      okAnd (operand s (s.k 1) a 16 permLoad 16 .load) (fun ls => clear s ls && opens s (s.k 1) 16 ls)
        && okAnd (operand s (s.k 1) a 16 permStore 16 .store) (fun ls => opens s (s.k 1) 16 ls && (ls.map (·.len)).sum == 16 && apartly ls
          && ls.length == 1 && ls.all (fun l => l.addr % 16 == 0 && l.granule % 16 == 0) && ls.all (·.own) == (p.1 == poolCap))
        && okAnd (operand s (s.k 1) a 1 permStore 1 .store) fun ls => opens s (s.k 1) 1 ls && (ls.map (·.len)).sum == 1 && apartly ls) = true := by
  decide +kernel

theorem witness_ScalarStoreResults :
    ([(1, 98303), (2, 98302), (4, 98300), (8, 98296), (8, 0)].all fun (p : Nat × Nat) =>
      let s := labk.setX 2 (BitVec.ofNat 64 p.2)
      let a := effAddr (s.k 1) (s.x 2) (2 ^ 0) 0
      okAnd (operand s (s.k 1) a p.1 permStore 1 .store) fun ls => opens s (s.k 1) p.1 ls && (ls.map (·.len)).sum == p.1 && apartly ls
        && ls.all (·.own)) = true := by decide +kernel

/-- Memory of another pool behind a dead link, a poisoned granule, a check that fails, an exhausted weir for loads and stores of each
width, and an older store in flight. -/
theorem witness_LoadTrapsAndHolds :
    (let s := poisoned 0 labk;
      okAnd (operand s (s.k 1) 31 1 permLoad 1 .load) fun ls => loadHeld s s.here ls == false && ls.any (locDown s) == false && anyBad s ls) = true
      ∧ (let s := { (keys [(1, capAt 1 0 (2 ^ 25) (2 ^ 17))] (lab.setCore ⟨0, 1⟩ { Core.init with owner := some 1 })) with dead := [.sg 0] };
        okAnd (operand s (s.k 1) (2 ^ 17) 8 permLoad 1 .load) fun ls => loadHeld s s.here ls == false && ls.any (locDown s)) = true
      ∧ (match operand lab Cap.null 5 8 permLoad 1 .load with | .error (.trap .capTag 5) => true | _ => false) = true
      ∧ (let s := keys [(1, frameKey)] dry;
        ([1, 2, 4, 8, 16].all fun (n : Nat) =>
          okAnd (operand s (s.k 1) (BitVec.ofNat 64 frameKey.va) n permLoad (n / 16 * 15 + 1) .load) (fun ls => clear s ls && !opens s (s.k 1) n ls)
            && okAnd (operand s (s.k 1) (BitVec.ofNat 64 frameKey.va) n permStore (n / 16 * 15 + 1) .store) fun ls => !opens s (s.k 1) n ls) = true)
      ∧ (let s := after (.stb 2 1 0 0 0) (keys [(1, frameKey)]);
        okAnd (operand s (s.k 1) (BitVec.ofNat 64 frameKey.va) 1 permLoad 1 .load) (ownOut s s.here ·) = true) := by
  decide +kernel

/-- A word that can be written, one behind a dead link, a poisoned one, one whose weir is exhausted, and own stores in flight. -/
theorem witness_AtomicResults :
    let word := fun (s : State) (n : Nat) (p : List Loc → Bool) =>
      okAnd (operand s (s.k 1) (BitVec.ofNat 64 (s.k 1).va) n (permLoad + permStore + permAtomic) n .store) p
    ([(4, 98300), (8, 98296), (8, 0)].all fun (p : Nat × Nat) =>
      let s := keys [(1, capAt 0 0 98304 p.2)]
      word s p.1 (only fun l => l.len == p.1 && plainLocs [l] && clear s [l] && ownStores s == false && (streamsOut s).isEmpty && opens s (s.k 1) p.1 [l])) = true
      ∧ (let s := { (keys [(1, capAt 1 0 (2 ^ 25) (2 ^ 17))] (lab.setCore ⟨0, 1⟩ { Core.init with owner := some 1 })) with dead := [.sg 0] };
        word s 8 fun ls => loadHeld s s.here ls == false && ls.any (locDown s)) = true
      ∧ (let s := poisoned 0 labk; word s 8 fun ls => loadHeld s s.here ls == false && ls.any (locDown s) == false && anyBad s ls) = true
      ∧ (let s := keys [(1, frameKey)] dry; word s 8 fun ls => clear s ls && !opens s (s.k 1) 8 ls) = true
      ∧ (let s := after (.stb 2 1 0 0 0) (keys [(1, frameKey)]); ownStores s = true ∧ word s 8 (ownOut s s.here ·) = true) := by decide +kernel

/-- A piece that is performed, one with poison, one to memory outside the module, and one behind a dead link. -/
theorem witness_StoreCompletionResults :
    let with' := fun (f : InFlight) => { lab with stores := [f] }
    let far : InFlight := { flight with foreign := true }
    let f : InFlight := { flight with link := some .fabric }
    let t := { lab with stores := [f], dead := [.fabric] }
    ([flight, { flight with poison := [2 ^ 59] }].all fun f => (with' f).stores[0]? == some f && storeBefore (with' f) 0 f == false
        && (f.link.map (linkDown (with' f))).getD false == false && f.foreign == false && f.bytes != [] && ((with' f).core f.core).rx == f.x
        && decide (f.level < 7)) = true
      ∧ (with' far).stores[0]? = some far ∧ storeBefore (with' far) 0 far = false ∧ (far.link.map (linkDown (with' far))).getD false = false
      ∧ t.stores[0]? = some f ∧ storeBefore t 0 f = false ∧ (f.link.map (linkDown t)).getD false = true ∧ (t.core f.core).rx = f.x ∧ f.level < 7 := by
  decide +kernel

/-- A record of one dimension of 32 words of four bytes, at byte 64 of the pool, and the stream that `qopen` makes of it. -/
def record (dir : Nat) : BitVec 512 := BitVec.ofNat 512 (1 + 2 * 2 ^ 16 + dir * 2 ^ 24 + 32 * 2 ^ 128 + 4 * 2 ^ 160)
def stream (dir : Nat) : StreamReg := ⟨true, record dir, 128, 0, poolCap, 0, 0, [], none⟩
def openState (dir : Nat) : State :=
  keys [(3, capAt 0 0 98304 64)] { labk with mem := labk.mem.write (poolAddr ⟨0, 0⟩ 64) (bytesOfNat 64 (record dir).toNat) [] }
def streaming : State := labk.setCtx { labk.ctx with streams := (labk.ctx.streams.setIfInBounds 0 (stream 0)).setIfInBounds 1 (stream 1) }

/-- A state whose stream 0 reads through another capability, with another stride. -/
def readingFrom (key : Cap) (stride : Nat) (s : State) : State :=
  s.setCtx { s.ctx with streams := s.ctx.streams.setIfInBounds 0 { stream 0 with
    base := key, record := BitVec.ofNat 512 (1 + 2 * 2 ^ 16 + 32 * 2 ^ 128 + stride * 2 ^ 160) } }

def shardEntryOf : Shard :=
  { tensor := 0, space := 0, va := 4096, devBase := Config.ownDevice, rank := 1, esl := 2, valid := true, ext := [33, 1, 1, 1], blk := [64, 1, 1, 1], pg := [1, 1, 1, 1] }
def sharded : State := (keys [(1, capAt 6 0 1024 0)] (lab.setVif { probeVif with shards := [(0, ⟨[shardEntryOf], []⟩)] })).setX 1 1

theorem witness_StreamAndShardResults :
    ((streaming.q 0).isOpen = true ∧ ((streaming.q 2).isOpen && (streaming.q 2).dir == 1 && ownStores streaming) = false
        ∧ (let s := { streaming with stores := [flight] }; ((s.q 1).isOpen && (s.q 1).dir == 1 && ownStores s) = true))
      ∧ ([0, 1].all fun (dir : Nat) =>
        let s := openState dir
        let rec' := s.k 3
        let a : Word := BitVec.ofNat 64 rec'.va
        okAnd (capCheck s.ctx.level rec' a 64 permLoad) (fun _ => true) && okAnd (loadBytes s rec'.space a 64) fun r => r.2.1.any id == false
          && (let v : StreamReg := { isOpen := true, record := BitVec.ofNat 512 (natOfBytes r.1), fibres := BitVec.ofNat 64 ((rec'.va + 64) % 2 ^ 56)
                                     listSpace := rec'.space, base := s.k 1, pos := 0, since := s.seq, ahead := [], cursor := none }
            v.sound && v.kind == 0 && v.dir == dir && okAnd (capRights s.ctx.level v.base v.base.addr (if v.dir = 0 then permLoad else permStore)) (fun _ => true)
              && v.base.space != 6 && v.base.space != 7 && okAnd (walkFormat v) (fun _ => true) && weirsOpen s [movedTo rec'.space 64 r.2.2])) = true
      ∧ okAnd (shardCheck sharded 1 1 1) (fun r => r.2 == [1, 0, 0, 0]) = true := by decide +kernel

/-- A stream that reads ahead, at its position and behind loads that it has not made, of other bytes and of the same ones, behind an older
store, with an exhausted weir, and one that is not open; and errors of memory inside the module and outside it. -/
theorem witness_ownTurns :
    let piece := fun (v : State) (p : Nat) (f : StreamReg → List Loc → Moved → Bool) => let q := v.q 0
      (ownStreams v).contains q && decide (q.pos ≤ p ∧ p < q.total) && someAnd (neededAhead v.ctx.level q p)[0]? fun w =>
        okAnd (locate v w.space (BitVec.ofNat 64 w.addr) w.len .load) fun ls => f q ls (movedTo w.space w.len ls)
    let free := fun (v : State) (p : Nat) => piece v p fun q ls m => !loadHeld v q.since ls
      && (unmade v.ctx.level q p).all (fun e => !needMeets v q ls e) && !ls.any (locDown v) && weirsOpen v [m]
    let far : State := readingFrom frameKey 4 streaming
    free streaming 0 = true ∧ free streaming 5 = true ∧ free far 5 = true
      ∧ piece (readingFrom poolCap 0 streaming) 5 (fun q ls _ => (unmade streaming.ctx.level q 5).any (needMeets streaming q ls)) = true
      ∧ piece { far with stores := [{ flight with addr := frameAddr far + 20 }] , cores := far.cores.map fun (c : CoreId × Core) => (c.1, { c.2 with
          ctx := { c.2.ctx with streams := c.2.ctx.streams.map fun q => { q with since := 1 } } }) } 5 (fun q ls _ => loadHeld
            { far with stores := [{ flight with addr := frameAddr far + 20 }] } q.since ls) = true
      ∧ piece { far with vifs := dry.vifs } 5 (fun _ _ m => !weirsOpen { far with vifs := dry.vifs } [m]) = true
      ∧ streaming.q 2 ∉ ownStreams streaming ∧ (streaming.q 0).total ≤ 32
      ∧ { lab with agenda := [.prefetch ⟨0, 0⟩ 0 5 0, .upset 5, .upset (5 * 2 ^ 64 - 1), .upset (5 * 2 ^ 64), .corrected 0] }.agenda
        = [.prefetch ⟨0, 0⟩ 0 5 0, .upset 5, .upset (5 * 2 ^ 64 - 1), .upset (5 * 2 ^ 64), .corrected 0] := by decide +kernel

/-- Whether what streams have still to read is all that holds a load of an operand, and whether it holds what waits for every load. -/
def meets (s : State) (r : Res (List Loc)) : Bool :=
  okAnd r fun ls => !ownOut s s.here ls && someAnd (streamsMeet s s.here ls).head? fun w => match awaitNeed s w with
    | .hold _ => true
    | _ => false
def unread (s : State) : Bool :=
  someAnd (streamsOut s).head? fun w => match awaitNeed s w with
    | .hold t => t == s
    | _ => false

/-- What a stream has still to read holds a fence with `r` in PRED, a release, a transfer and a command, and loads and an AMO of its
bytes; those beside them go on. -/
theorem witness_streamsHold :
    (unread streaming = true ∧ ownStores streaming = false ∧ streamsOut lab = [])
      ∧ ([1, 2, 4, 8, 16].all fun (n : Nat) => meets streaming (operand streaming (streaming.k 1) 112 n permLoad n .load)) = true
      ∧ meets streaming (operand streaming (streaming.k 1) 120 8 (permLoad + permStore + permAtomic) 8 .store) = true
      ∧ meets streaming (vectorLocs streaming (.vld 7 1 0 0 0 0) 7 (streaming.k 1) 0 0 permLoad .load) = true
      ∧ meets streaming (tileAccess streaming (streaming.k 1) 0 4608 permLoad .load) = true
      ∧ okAnd (operand streaming (streaming.k 1) 128 8 permLoad 1 .load) (fun ls => !loadHeld streaming streaming.here ls) = true := by
  decide +kernel

/-- The element that `ldt` reads there, and the lanes of `vldt` within the extent: the device of the entry is the module's own. -/
theorem witness_shardElement :
    ∀ l < 32, okAnd (shardElement sharded 1 shardEntryOf [1 + l, 0, 0, 0]) (fun r => r.2.1.any id == false && r.1.length == 4) = true := by
  intro l h
  have base : ∀ b c, shardPlace { shardEntryOf with devBase := b } c
      = (b + (shardPlace { shardEntryOf with devBase := 0 } c).1, (shardPlace { shardEntryOf with devBase := 0 } c).2) := by
    intro b c; simp [shardPlace]
  have mine : (shardPlace shardEntryOf [1 + l, 0, 0, 0]).1 = Config.ownDevice := by
    have zero : ∀ l < 32, (shardPlace { shardEntryOf with devBase := 0 } [1 + l, 0, 0, 0]).1 = 0 := by decide +kernel
    have := congrArg Prod.fst (base Config.ownDevice [1 + l, 0, 0, 0])
    rw [zero l h] at this
    exact this
  have there : ∀ l < 32, let va : Word := BitVec.ofNat 64 (shardPlace { shardEntryOf with devBase := 0 } [1 + l, 0, 0, 0]).2
      okAnd (do
        let ls ← locate sharded shardEntryOf.space va (2 ^ shardEntryOf.esl) .load
        readable sharded ls 1
        .ok (readLocs sharded ls, badBytes sharded ls, va, movedTo shardEntryOf.space (2 ^ shardEntryOf.esl) ls))
        (fun r => r.2.1.any id == false && r.1.length == 4) = true := by decide +kernel
  have h := there l h
  have same : (shardPlace { shardEntryOf with devBase := 0 } [1 + l, 0, 0, 0]).2 = (shardPlace shardEntryOf [1 + l, 0, 0, 0]).2 := rfl
  rw [same] at h
  unfold shardElement
  revert h mine
  generalize shardPlace shardEntryOf [1 + l, 0, 0, 0] = p
  intro mine h
  simp only [if_pos mine]
  exact h

/-- Each width of lanes at both ends of the pool, and a capability whose FORMAT makes `vld` convert. -/
theorem witness_VectorMemoryResults :
    ([0, 1, 2, 5, 6, 8].all fun (t : Nat) => [0, 98176].all fun (at' : Nat) =>
      let s := keys [(1, capAt 0 0 98304 at')] labk
      let va := effAddr (s.k 1) (s.x 0) (2 ^ 0) ((0 : BitVec 5).toInt * 128)
      let es := (memElement (s.k 1) t).2.1
      let t' : BitVec 4 := BitVec.ofNat 4 t
      okAnd (vectorLocs s (.vld 7 1 0 0 t' 0) 7 (s.k 1) va t permLoad .load) (fun ls =>
          clear s ls && (ls.map (·.len)).sum == lanesOf t * es && opens s (s.k 1) (lanesOf t * es) ls)
        && okAnd (vectorLocs s (.vst 7 1 0 0 t' 0) 7 (s.k 1) va t permStore .store) (fun ls =>
          (ls.map (·.len)).sum == lanesOf t * es && apartly ls && opens s (s.k 1) (lanesOf t * es) ls)
        && okAnd (indexedAddrs s (.vldx 6 7 1 0 t') 6 7 (s.k 1) 0 t permLoad) (fun ps => (List.range (lanesOf t)).all fun l =>
          okAnd (loadBytes s 0 (ps.getD l 0) (widthOf t / 8)) fun r => r.1.length == widthOf t / 8 && opens s (s.k 1) 128 r.2.2)
        && okAnd (indexedAddrs s (.vstx 6 7 1 0 t') 6 7 (s.k 1) 0 t permStore) fun ps => (List.range (lanesOf t)).all fun l =>
          okAnd (locate s 0 (ps.getD l 0) (widthOf t / 8) .store) fun ls => (ls.map (·.len)).sum == widthOf t / 8) = true
      ∧ (let s := after (.kformat 1 1 1) (labk.setX 1 0x2000000000000000);
        let va := effAddr (s.k 1) (s.x 0) (2 ^ 0) ((0 : BitVec 5).toInt * 128)
        memElement (s.k 1) 0 = (1, 4, 4) ∧ okAnd (vectorLocs s (.vld 7 1 0 0 0 0) 7 (s.k 1) va 0 permLoad .load) (fun ls =>
          clear s ls && (ls.map (·.len)).sum == 64 && opens s (s.k 1) 64 ls) = true) := by decide +kernel

/-- Every vector form with registers at both ends of the file, and `vmov` of a poisoned register. -/
theorem witness_VectorFormResults :
    lab.ctx.order = 0
      ∧ ([Instr.vadd 0 31 1 0 0 0, .vdiv 31 0 1 1 0 0, .vfma 0 31 31 2 0 0, .vexp 0 31 0 0 0, .vneg 31 31 6 0, .vcmp 0 31 1 0 0 0, .vperm 0 31 1 8 0,
          .vsra 0 31 1 7 0, .vredAdd 0 31 1 0 0, .vcvt 0 31 1 0 1 0 0, .vcvtAmax 0 31 3 0 3 0 0].all fun i =>
        someAnd (vectorForm lab i) fun f => f.sq == 0 && decide (f.dst < lab.ctx.vcount)
          && f.srcs.all fun n => decide (n < lab.ctx.vcount) && badRegister lab n == false) = true
      ∧ someAnd (vectorForm lab (.vmov 0 31 0 0)) (fun f => f.sq == 0 && f.carries) = true ∧ badRegister (poisoned (128 * 31) lab) 31 = true := by decide +kernel

/-- A value of a format that is rounded, the ends of formats, a sum that overflows, a tiny one, and a flushed one. -/
theorem witness_rounding :
    (fp32 ∈ roundedFormats ∧ e4m3 ∈ roundedFormats ∧ w72 ∈ roundedFormats) ∧ isFinite fp32 0x80000001 ∧ isFinite fp32 0x7F7FFFFF ∧ isFinite e4m3 0x7E
      ∧ isFinite (fmtOfType 4) 0xFE ∧ valueUnits fp32 false 0x80000001 = -1 ∧ valueUnits fp32 true 0x80000001 = 0
      ∧ (let a := valueUnits fp16 false 0x7BFF; let b := valueUnits fp16 false 1; a + b ≠ 0 ∧ a * b ≠ 0 ∧ a ≠ 0 ∧ b ≠ 0)
      ∧ fpAdd fp16 0 false 0x7BFF 0x7BFF = (0x7C00, 5) ∧ fpMul fp16 2 false 1 1 = (1, 3) ∧ fpAdd fp16 0 true 0x0400 0x8401 = (0x8000, 3) := by decide +kernel

theorem witness_VectorStreamResults :
    let i := Instr.vadd 57 56 1 1 0 1
    someAnd (vectorForm streaming i) (fun f => f.sq == 1 && f.dst == 57 && f.srcs == [56, 1] && f.carries == false) = true
      ∧ okAnd (windowCheck i 1 [56, 1] 57) (fun _ => true) = true ∧ okAnd (vectorCheck streaming i 1 [56, 1] 57) (fun _ => true) = true
      ∧ badRegister streaming 1 = false
      ∧ okAnd (streamRead streaming (streaming.q 0)) (fun d => d.hits.isEmpty && okAnd (streamWrite streaming (streaming.q 1) 32) fun w =>
        weirsOpen streaming (d.moved ++ movedTo (streaming.q 1).base.space 128 w.1.flatten :: w.2.2) && apartly w.1.flatten
          && w.1.all fun r => (r.map (·.len)).sum == 4) = true
      ∧ min (streaming.q 1).chunk ((streaming.q 1).total - (streaming.q 1).pos) = 32
      ∧ (let j := Instr.vadd 7 56 1 1 0 1;
        okAnd (windowCheck j 1 [56, 1] 7) (fun _ => true) = true ∧ okAnd (vectorCheck streaming j 1 [56, 1] 7) (fun _ => true) = true) := by decide +kernel

/-- `lab` with the order of a jet. -/
def jets (n : Word) : State := inCtx fun c => { c with jord := n }

/-- Every order, with jets at both ends of the file, and each way to a trap. -/
theorem witness_JetFormResults :
    ([(1, 15), (2, 7), (7, 3)].all fun (p : Nat × Nat) =>
      let s := jets (BitVec.ofNat 64 p.1)
      let N : BitVec 6 := BitVec.ofNat 6 p.2
      s.ctx.order != 0 && [Instr.vadd 0 N N 0 0 0, .vdiv 0 N N 1 0 0, .vfma N 0 N 0 0 0, .vsqrt N 0 0 0 0, .vtanh 0 N 1 0 0, .vneg 0 N 0 0].all fun i =>
        someAnd (jetForm s i) fun f => f.sq == 0 && decide (f.type ≤ 1) && (f.dst :: f.srcs).all (fun M => jetFits s M)
          && f.srcs.all fun M => (List.range (s.ctx.order + 1)).all fun c => badRegister s (groupSize s.ctx.order * M + c) == false) = true
      ∧ (let s := jets 3;
        someAnd (jetForm s (.vadd 0 0 0 2 0 0)) (fun f => f.sq == 0 && decide (2 ≤ f.type)) = true
        ∧ jetFits s 0 = true ∧ (vectorForm s (.vand 0 0 0 0 0)).isSome = true ∧ (jetForm s (.vand 0 0 0 0 0)).isNone = true
        ∧ someAnd (vectorForm s (.vand 0 0 0 0 0)) (fun f => !f.carries) = true) := by decide +kernel

/-- A jet whose coefficient 2 is poisoned, a stream field with a jet, `vmov` of jets, and the traps of the JET major. -/
theorem witness_jetTraps :
    (let s := poisoned (128 * 2) (jets 3);
      someAnd (jetForm s (.vadd 4 0 1 0 0 0)) (fun f => f.sq == 0 && decide (f.type ≤ 1) && (f.dst :: f.srcs).all (jetFits s ·)) = true
        ∧ badRegister s 2 = true ∧ badRegister s 1 = false ∧ badRegister s 0 = false ∧ badRegister s 5 = false ∧ jetFits s 13 = true ∧ jetFits s 63 = false)
      ∧ (let s := jets 3; let i := Instr.vadd 57 56 1 1 0 1;
        someAnd (jetForm s i) (fun f => f.sq == 1 && f.type == 1) = true ∧ okAnd (windowCheck i 1 [56, 1] 57) (fun _ => true) = true
          ∧ okAnd (windowCheck (.vadd 63 7 1 2 0 1) 1 [7, 1] 63) (fun _ => true) = true ∧ (0 : BitVec 4).toNat ≤ 1)
      ∧ (let s := jets 1; ¬ ((63 : BitVec 6).toNat < s.ctx.vcount ∧ jetFits s 63 = true) ∧ s.ctx.order < (2 : BitVec 4).toNat ∧ (0 : BitVec 6).toNat < s.ctx.vcount)
      ∧ (let s := poisoned 128 (jets 1); badRegister s 1 = true ∧ (1 : Nat) ≤ s.ctx.order) := by decide +kernel

theorem witness_JetMajorResults :
    ([0, 1, 3, 7].all fun (n : Nat) =>
      let s := jets (BitVec.ofNat 64 n)
      let g := groupSize s.ctx.order
      let last := s.ctx.vcount / g - 1
      decide (s.ctx.order = n ∧ 0 < s.ctx.vcount ∧ s.ctx.vcount - 1 < s.ctx.vcount) && jetFits s 0 && jetFits s last
        && (List.range (n + 1)).all fun c => badRegister s (g * last + c) == false) = true := by decide +kernel

/-- The `mma` that `lab` runs, its descriptors, and the states in which its run is pending with steps done, or refused. -/
def mmaOf (y : BitVec 2) : Instr := .mma 1 (if y = 2 then 0 else 2) 13 0 y 0 0
def mmaLab (y : BitVec 2) (steps : Nat) : State :=
  ((State.reset.withFetchWord 32 (mmaOf y).encode.toNat).setX 1 (BitVec.ofNat 64 (1136 + 2 ^ 16))).setX 2
    (BitVec.ofNat 64 (1200 + 2 * 2 ^ 16 + (steps - 1) * 2 ^ 46))
def running (y : BitVec 2) (steps done : Nat) : State :=
  let s := after (mmaOf y) (mmaLab y steps)
  s.setCtx { s.ctx with mstat := s.ctx.mstat ||| BitVec.ofNat 64 (done * 2 ^ 48) }
def latched (s : State) : State := s.setCtx { s.ctx with mstat := s.ctx.mstat ||| 0x10000 }

theorem witness_mma :
    ([(0, 1), (1, 2), (0, 256)].all fun (p : BitVec 2 × Nat) =>
      let s := mmaLab p.1 p.2
      let da := descOf (s.x 1)
      let db := descOf (s.x 2)
      descAOk s da false && descBOk db && !da.sq && !db.sq && streamReadable s da && streamReadable s db && db.nsm1 + 1 == p.2
        && okAnd (codedOk s da) (fun _ => true) && okAnd (codedOk s db) (fun _ => true) && decide (13 < s.ctx.acc ∧ s.ctx.pc < 2 ^ 16)
        && bit s.ctx.mstat.toNat 63 == false) = true
      ∧ (let s := latched (mmaLab 2 1); s.x 0 = 0 ∧ bit s.ctx.mstat.toNat 16 = true ∧ bitsOf s.ctx.mstat.toNat 60 3 = 0)
      ∧ (let s := running 0 2 1; bit s.ctx.mstat.toNat 63 = true ∧ bitsOf s.ctx.mstat.toNat 32 16 = s.ctx.pc ∧ bitsOf s.ctx.mstat.toNat 48 9 < 2)
      ∧ (let s := running 0 2 2; bit s.ctx.mstat.toNat 63 = true ∧ bitsOf s.ctx.mstat.toNat 32 16 = s.ctx.pc ∧ 2 ≤ bitsOf s.ctx.mstat.toNat 48 9) := by
  decide +kernel

/-- The first step and the last, from segments, and from the latch; and a segment in the accumulator region. -/
theorem witness_MatrixRunResults :
    ([(0, 2, 0), (1, 2, 1), (0, 256, 255)].all fun (p : BitVec 2 × Nat × Nat) =>
      let s := running p.1 p.2.1 p.2.2
      let da := descOf (s.x 1)
      let db := descOf (s.x 2)
      let sa := segments da s.me.rows p.2.2
      let sb := segments db (List.range 32) p.2.2
      s.me.run == .running && s.me.hold == .matrix && okAnd (decodeBytes (s.codeBytes s.ctx.pc)) (fun r => r.1 == mmaOf p.1)
        && badSegment s (sa ++ sb) == none && s.me.rowsBad == none
        && okAnd (readPanel s da 32 sa) (fun pa => pa.rows.length == 32 && pa.low == none && pa.uncorr == none
          && okAnd (readPanel pa.after db 32 sb) fun pb => pb.low == none && pb.uncorr == none && weirsOpen s (pa.moved ++ pb.moved))
        && (s.mem.poisonIn (poolAddr s.cur (slotBase s 13 0)) (tileBytes 0)).isEmpty && decide (bitsOf s.ctx.mstat.toNat 48 9 = p.2.2 ∧ p.2.2 < 256)) = true
      ∧ (let s := after (mmaOf 2) (latched (mmaLab 2 1)); s.me.run = .running ∧ s.me.hold = .matrix ∧ latchPoison s.ctx 32 = none)
      ∧ (badSegment ((running 0 2 0).setX 1 128) (segments (descOf 128) (running 0 2 0).me.rows 0)).isSome = true := by decide +kernel

theorem witness_TileFormResults : (13 : BitVec 4).toNat < lab.ctx.acc ∧ (63 : BitVec 6).toNat < lab.ctx.vcount ∧ (0 : BitVec 4).toNat < lab.ctx.acc := by
  decide +kernel

/-- Whole and half tiles as they stand, and by rows, at both ends of what the capability takes. -/
theorem witness_TileMemoryResults :
    ([(0, 4608, 93696), (1, 2304, 96000), (0, 4608, 0)].all fun (p : BitVec 2 × Nat × Nat) =>
      let s := keys [(1, capAt 0 0 98304 p.2.2)]
      okAnd (tileAccess s (s.k 1) (effAddr (s.k 1) (s.x 0) 1 0) p.2.1 permLoad .load) (fun ls =>
          clear s ls && (ls.map (·.len)).sum == p.2.1 && opens s (s.k 1) p.2.1 ls)
        && okAnd (tileAccess s (s.k 1) (effAddr (s.k 1) (s.x 0) 1 0) p.2.1 permStore .store) fun ls =>
          (ls.map (·.len)).sum == p.2.1 && apartly ls && ls.length == 1 && ls.all fun l => l.addr % 16 == 0 && l.granule % 16 == 0) = true
      ∧ ([(1, 32), (2, 16)].all fun (p : Nat × Nat) =>
        let s := (keys [(1, capAt 0 0 98304 72704)]).setX 2 128
        (if p.1 - 1 = 1 then 16 else 32) == p.2 && (rowAddrs s (s.k 1) 0 2 p.2).all fun a =>
          okAnd (tileAccess s (s.k 1) a 128 permLoad .load) (fun l => (l.map (·.len)).sum == 128 && clear s l)
            && okAnd (tileAccess s (s.k 1) a 128 permStore .store) fun l => (l.map (·.len)).sum == 128 && apartly l) = true
      ∧ (let s := after (.stb 2 1 0 0 0) (keys [(1, capAt 2 (frameVa probeVif.p 0 0) 8192 (frameVa probeVif.p 0 0))]);
        okAnd (tileAccess s (s.k 1) (effAddr (s.k 1) (s.x 0) 1 0) 2304 permLoad .load) (ownOut s s.here ·) = true) := by decide +kernel

/-- A command to a core of the SG, its queue with room and full; and one that its target may apply, and one it refuses. -/
def cmdWord : Nat := 2 ^ 56 + 13 * 2 ^ 52
def sending : State :=
  keys [(1, capAt 1 0 (2 ^ 25) (2 ^ 17))] (((lab.setCore ⟨0, 1⟩ { Core.init with owner := some 1 }).setX 1 (BitVec.ofNat 64 cmdWord)).setX 2
    (BitVec.ofNat 64 (1136 + 2 ^ 16)))
def cmdOf (gen : Nat) : MatrixCmd := ⟨BitVec.ofNat 64 (13 * 2 ^ 52), 0, 0, false, ⟨0, 1⟩, 0, gen, 1, 0⟩
def applying (gen : Nat) : State := (latched lab).setMe { (latched lab).me with cmds := [cmdOf gen] }

theorem witness_RemoteStepResults :
    (let s := sending;
      let w := (s.x 1).toNat
      let d := descOf (s.x 2)
      let segs := segments d (List.range (tileRows 0)) 0
      bitsOf w 48 4 = 0 ∧ bitsOf w 0 40 = 0 ∧ bit w 44 = false ∧ descAOk s d false = true ∧ d.sq = false ∧ badSegment s segs = none
        ∧ okAnd (capCheck s.ctx.level (s.k 1) (BitVec.ofNat 64 (2 ^ 17 + slotBase s 13 0)) (tileBytes 0) (permStore + permRemote)) (fun _ => true) = true
        ∧ (s.k 1).space = 1 ∧ okAnd (locate s 1 (BitVec.ofNat 64 (2 ^ 17 + slotBase s 13 0)) (tileBytes 0) .store) (fun _ => true) = true
        ∧ segmentPoison s segs = none ∧ matrixBusy s s.cur = false ∧ (s.core ⟨0, 1⟩).cmds.length < 8
        ∧ (let t := s.setCore ⟨0, 1⟩ { s.core ⟨0, 1⟩ with cmds := List.replicate 8 { cmdOf 0 with sender := ⟨0, 2⟩ } };
          8 ≤ (t.core ⟨0, 1⟩).cmds.length ∧ ((t.core ⟨0, 1⟩).evicted.any (·.x == 0) || ((t.core ⟨0, 1⟩).rx == some 0 && (t.core ⟨0, 1⟩).preempted)) = false
            ∧ after (.mxsend 1 2 1) t = t)
        ∧ (let t := s.setCore ⟨0, 1⟩ { s.core ⟨0, 1⟩ with evicted := [(evictedOf 0)] };
          (t.core ⟨0, 1⟩).evicted.any (·.x == 0) = true ∧ (evictedAt t ⟨0, 1⟩ 0).isSome = true ∧ ringUse (t.core ⟨0, 1⟩) 0 + itemBytes (.cmd (cmdOf 0)) ≤ 24576))
      ∧ ([(0, false), (1, true)].all fun (p : Nat × Bool) =>
        let s := applying p.1
        let k := s.core ⟨0, 0⟩
        k.cmds.findIdx? (!cmdWaits s ⟨0, 0⟩ ·) == some 0 && k.cmds[0]? == some (cmdOf p.1) && cmdRefused s ⟨0, 0⟩ (cmdOf p.1) == p.2) = true := by
  decide +kernel

/-- `lab` with a block at byte 72704 of the pool, which `x1` names: capabilities at offsets, and numbers of some bytes. -/
def blocked (caps : List (Nat × Cap)) (nums : List (Nat × Nat × Nat)) : State :=
  let p := poolAddr ⟨0, 0⟩ 72704
  let m := caps.foldl (fun (m : Memory) (q : Nat × Cap) => m.write (p + q.1) (bytesOfNat 16 q.2.bits.toNat) []) lab.mem
  let m := nums.foldl (fun (m : Memory) (q : Nat × Nat × Nat) => m.write (p + q.1) (bytesOfNat q.2.1 q.2.2) []) m
  ({ lab with mem := { m with tags := caps.map fun (q : Nat × Cap) => (p + q.1) / 16 } }).setX 1 72704
def tableCap : Cap := (capAt 3 0 8192 4096).put 60 4 2
def blockOf (op : Nat) : State :=
  let k := poolCap
  if op ≤ 2 then blocked [(0, k), (16, k)] [(48, 8, 64)]
  else if op ≤ 4 then blocked [(0, k), (16, k), (32, k)] [(64, 4, 1), (68, 4, 4)]
  else if op = 5 then blocked [] [(20, 4, 1)]
  else if op = 6 then blocked [(0, tableCap), (16, k), (32, k), (48, k)] [(64, 4, 1), (68, 4, 1)]
  else if op = 7 then blocked [(0, k), (16, k)] [(48, 2, 1), (52, 4, 1)]
  else blocked [(0, k), (16, capAt 4 0 98304 0)] [(32, 8, 64)]

theorem fine {r : Res Unit} (h : okAnd r (fun _ => true) = true) : r = .ok () := by
  cases r with
  | ok a => rfl
  | error e => cases h

theorem witness_blockOk :
    blockOk (.ecopy 1 0) (blockOf 0) (opOf (blockOf 0) 0 1 0) ∧ blockOk (.eget 1 0) (blockOf 1) (opOf (blockOf 1) 1 1 0)
      ∧ blockOk (.eput 1 0) (blockOf 2) (opOf (blockOf 2) 2 1 0) ∧ blockOk (.egather 1 0) (blockOf 3) (opOf (blockOf 3) 3 1 0)
      ∧ blockOk (.escatter 1 0) (blockOf 4) (opOf (blockOf 4) 4 1 0) ∧ blockOk (.eremap 1 0) (blockOf 5) (opOf (blockOf 5) 5 1 0)
      ∧ blockOk (.epool 1 0) (blockOf 6) (opOf (blockOf 6) 6 1 0) ∧ blockOk (.emerge 1 0) (blockOf 7) (opOf (blockOf 7) 7 1 0)
      ∧ blockOk (.esend 1 0) (blockOf 8) (opOf (blockOf 8) 8 1 0) := by
  have copies : ∀ i ∈ [Instr.ecopy 1 0, .eget 1 0, .eput 1 0], ∀ op ≤ 2, okAnd (copyCheck i (blockOf op) (opOf (blockOf op) op 1 0)) (fun _ => true) = true := by
    decide +kernel
  have rows : ∀ i ∈ [Instr.egather 1 0, .escatter 1 0], ∀ op ∈ [3, 4], okAnd (rowsCheck i (blockOf op) (opOf (blockOf op) op 1 0)) (fun _ => true) = true := by
    decide +kernel
  have merges : ∀ r < 16, (opOf (blockOf 7) 7 1 0).num' 48 2 ≤ r → (opOf (blockOf 7) 7 1 0).num' (64 + 4 * r) 4 = 0 := by decide +kernel
  refine ⟨fine (copies _ (by simp) 0 (by simp)), fine (copies _ (by simp) 1 (by simp)), fine (copies _ (by simp) 2 (by simp)), fine (rows _ (by simp) 3 (by simp)),
    fine (rows _ (by simp) 4 (by simp)), ?_⟩
  and_intros
  all_goals first
    | exact fine (by decide +kernel)
    | exact .inl (by decide +kernel)
    | exact fun h => absurd h (by decide +kernel)
    | exact fun r a h => merges r h a
    | decide +kernel

/-- Every command with its block accepted, and one held because the queue is full. -/
theorem witness_EngineCommandResults :
    ((List.range 9).all fun (op : Nat) =>
      let s := blockOf op
      let o := opOf s op 1 0
      decide (s.cur.idx < 256 ∧ bitsOf o.ctl.toNat 32 32 = 0 ∧ bitsOf o.ctl.toNat 5 11 = 0 ∧ (s.x 1).toNat % 64 = 0 ∧ s.ctx.scratch ≤ (s.x 1).toNat
          ∧ (s.x 1).toNat + blockLength op ≤ 98304 ∧ bit o.ctl.toNat 4 = false ∧ poolPoison s (s.x 1).toNat (blockLength op) = [])
        && (streamsOut s).isEmpty && unread (readingFrom poolCap 4 s) && !engineBusy s s.cur (engineBit op) && !bit o.ctl.toNat 3 && !(opWeirs o).any (fun w => !weirOpen s (s.myVif.getD 0) w)) = true
      ∧ (let s := blockOf 0; let t := { s with ops := List.replicate 64 (opOf s 0 1 0) }; engineBusy t t.cur (engineBit 0) = true)
      ∧ (let s := blockOf 6; let o := opOf s 6 1 0
        (opWeirs o).any (fun w => !weirOpen { s with vifs := dry.vifs } (s.myVif.getD 0) w) = false) := by decide +kernel

/-- `blockOf op` with words of the block changed, and an operation of it under way. -/
def under (op : Nat) (nums : List (Nat × Nat × Nat)) (f : EngineOp → EngineOp) (s : State := blockOf op) : State :=
  let s := { s with mem := nums.foldl (fun (m : Memory) (q : Nat × Nat × Nat) => m.write (poolAddr ⟨0, 0⟩ (72704 + q.1)) (bytesOfNat q.2.1 q.2.2) []) s.mem }
  { s with ops := [f { opOf s op 1 0 with num := 1 }] }
def atCursor (f : Cursor → Cursor) (o : EngineOp) : EngineOp := { o with cursor := f o.cursor }
def runsOn (s : State) (p : State → EngineOp → Bool) : Bool := someAnd s.ops[0]? fun o => opReady s 0 o && opLives s o && p (asEngine s o) o
/-- An operation with the pieces that its next step asks for, as its engine reads them. -/
def filled (u : State) (o : EngineOp) : Nat → EngineOp
  | 0 => o
  | n + 1 => match readNext u o with
    | .error (.missing (w :: _)) => match readPiece u w with
      | .ok r => filled u (atCursor (fun c => { c with got := c.got ++ [r.2] }) o) n
      | .error _ => o
    | _ => o
def reads (s : State) (p : State → EngineOp → Bool) : Bool :=
  runsOn { s with ops := s.ops.map fun o => filled (asEngine s o) o 40 } fun u o => o.cursor.out.isEmpty && !o.ended && p u o
def got (r : Res Got) (p : Got → Bool) : Bool := okAnd r p
def halfCap : Cap := capAt 0 49152 49152 49152

/-- The start and the end of an operation: preempted, not ready, of a reaction that is gone, at its end, set aside with another, and
with a source that has no tag any more. -/
theorem witness_engineEnds :
    (let s := under 7 [] id; let t := s.setMe { s.me with preempted := true }; someAnd t.ops[0]? (opDefers t 0 ·) = true)
      ∧ (let s := under 0 [] fun o => { o with deferred := true }; someAnd s.ops[0]? (fun o => !opDefers s 0 o && !opReady s 0 o) = true)
      ∧ (let s := under 0 [] fun o => { o with gen := 1 }; someAnd s.ops[0]? (fun o => opReady s 0 o && !opLives s o) = true)
      ∧ runsOn (under 0 [] (atCursor fun c => { c with pos := 64 })) (fun _ o => o.ended && !o.setAside) = true
      ∧ (let s := under 0 [] fun o => { (atCursor (fun c => { c with pos := 64 }) o) with setAside := true };
        let t := { s with ops := s.ops ++ s.ops };
        runsOn t (fun _ o => o.ended && o.setAside && someAnd t.ops[1]? fun p => p.setAside && o.sameRun p && p.finished.isNone) = true)
      ∧ runsOn (under 0 [] id (blocked [(16, halfCap)] [(48, 8, 64)])) (fun u o => !o.ended && !o.setAside
        && match (engineStep u o).stop with | some (.trap _ _) => true | _ => false) = true
      ∧ runsOn (under 0 [] id) (fun u o => !o.ended && (engineStep u o).stop.isNone) = true
      ∧ runsOn (under 0 [] id) (fun u o => o.cursor.out.isEmpty && !o.remoteAtomic && match readNext u o with
        | .error (.missing (w :: _)) => (sendFails u w.space).isNone && okAnd (locate u w.space (BitVec.ofNat 64 w.addr) w.len .engine) fun ls => !ls.any (locDown u)
        | _ => false) = true
      ∧ runsOn (under 0 [] (atCursor fun c => { c with out := [⟨16, 8, [1, 2], [false, true], [], 2, false⟩] })) (fun u o => (sendFails u (o.cap 16).space).isNone
        && okAnd (enginePlaces u (o.cap 16) (effAddr (o.cap 16) 0 1 8) 2 permStore .engineStore) fun ls => !ls.any (locDown u)) = true := by decide +kernel

/-- A copy as it stands, of a coded block, and by shape records. -/
theorem witness_engineCopies :
    reads (under 0 [] id) (fun _ o => !(o.cap 32).tag && (o.cap 0).format != 7 && got (engineRead o 0 (o.cap 0) 0 (granuleStep (o.cap 16) 0 64) permLoad) fun _ => true) = true
      ∧ (let k := (poolCap.put 60 4 7).put 56 4 4;
        let s := blocked [(0, k), (16, halfCap)] [(48, 8, 32)];
        reads (under 0 [] id { s with mem := s.mem.write (poolAddr ⟨0, 0⟩ 0) (bytesOfNat 4 0x100338) [] }) fun _ o =>
          !(o.cap 32).tag && (o.cap 0).format == 7 && got (engineRead o 0 (o.cap 0) 0 4 permLoad) fun h =>
            got (engineRead o 0 (o.cap 0) 0 (blockSize (o.cap 0).blog (natOfBytes h.bs)) permLoad) fun g =>
              match decodeBlock (o.cap 0).blog g.bs with | .elements _ => true | _ => false) = true
      ∧ (let k := (poolCap.put 60 4 7).put 56 4 4;
        runsOn (under 0 [] (atCursor fun c => { c with buf := List.replicate 64 (1, false) }) (blocked [(0, k), (16, halfCap)] [(48, 8, 64)])) fun _ o =>
          o.coded && decide (granuleStep (o.cap 16) 0 64 ≤ o.cursor.buf.length)) = true
      ∧ reads (under 0 [] (atCursor fun c => { c with walks := [stream 0, { stream 0 with base := halfCap }] })
          (blocked [(0, poolCap), (16, halfCap), (32, poolCap)] [(48, 8, 128)])) (fun u o =>
        (o.cap 32).tag && match o.cursor.walks with
          | [a, b] => okAnd (walkElement u.ctx.level { a with ahead := o.cursor.got } 0) (fun _ => true)
            && okAnd (walkOffset { b with ahead := o.cursor.got } 0 0) (fun off => sameGranule (o.cap 16) off o.cursor.held)
          | _ => false) = true
      ∧ ([([], true), ([⟨16, 60, [1, 2, 3, 4], List.replicate 4 false, [], 4, false⟩], true), ([⟨16, 64, [1, 2, 3, 4], List.replicate 4 false, [], 4, false⟩], false)].all
        fun (p : List Piece × Bool) => sameGranule halfCap 0 p.1 == p.2) = true
      ∧ runsOn (under 0 [] (atCursor fun c => { c with walks := [stream 0, stream 0], pos := 32, held := [⟨16, 124, [1, 2, 3, 4], List.replicate 4 false, [], 4, false⟩] })
          (blocked [(0, poolCap), (16, halfCap), (32, poolCap)] [(48, 8, 128)])) (fun _ o => (o.cap 32).tag && !o.ended && match o.cursor.walks with
            | [a, _] => decide (a.total ≤ o.cursor.pos) && !o.cursor.held.isEmpty
            | _ => false) = true := by decide +kernel

/-- A row that is checked, and one that is moved. -/
theorem witness_engineRows :
    reads (under 3 [] id) (fun u o => decide (o.cursor.rows.length < o.num' 64 4) && got (engineRead o 0 (o.cap 32) 0 4 permLoad) fun g =>
        okAnd (remapIndex o (natOfBytes g.bs)) fun j =>
          j.isSome && okAnd (enginePlaces u (o.cap (rowCaps o).1) (effAddr (o.cap (rowCaps o).1) 0 1 (rowOffsets o 0 (j.getD 0)).1) (o.num' 68 4) permLoad .engine) (fun _ => true)
            && okAnd (enginePlaces u (o.cap (rowCaps o).2) (effAddr (o.cap (rowCaps o).2) 0 1 (rowOffsets o 0 (j.getD 0)).2) (o.num' 68 4) permStore .engineStore) fun _ => true) = true
      ∧ ([3, 4].all fun op => reads (under op [] (atCursor fun c => { c with rows := [some 0] })) fun u o =>
        o.cursor.rows.length == o.num' 64 4 && o.cursor.rows[o.cursor.pos]? == some (some 0) && decide (o.cursor.sub < o.num' 68 4)
          && got (engineRead o 0 (o.cap (if op = 3 then 0 else 16)) 0 4 permLoad) (fun _ => true)
          && okAnd (locate u (o.cap (if op = 3 then 0 else 16)).space (effAddr (o.cap (if op = 3 then 0 else 16)) 0 1 0) (o.num' 68 4) .engine) fun _ => true) = true := by
  decide +kernel

/-- The offsets of a bag, an entry of it, and its end. -/
theorem witness_enginePools :
    reads (under 6 [] id) (fun _ o => o.cursor.bag == none && got (engineRead o 0 (o.cap 48) 0 4 permLoad) fun _ => got (engineRead o 0 (o.cap 48) 4 4 permLoad) fun _ => true) = true
      ∧ (let s := launches (fun l => { l with leases := [⟨5, 0x3FF, false⟩] }) ((blockOf 6).setVif { probeVif with
          leases := [{ leaseOf with space := 3, va := 0 }] });
        let t := s.setMe { s.me with tlb := [⟨1, 3, 0, 2 ^ 16, 0, 5, true⟩] };
        reads (under 6 [(72, 8, 1)] (atCursor fun c => { c with bag := some (0, 1, false) }) t) fun u o =>
          weirOpen u o.vif 2 && got (engineRead o 0 (o.cap 32) 0 8 permLoad) fun e => decide (fieldOf e.bs 0 4 < o.num' 72 8)
            && got (engineRead o 1 (o.cap 0) 0 (o.num' 68 4 * tableElement (o.cap 0).format) permLoad) fun _ => true) = true
      ∧ reads (under 6 [] (atCursor fun c => { c with bag := some (1, 1, false) })) (fun _ o => o.cursor.bag == some (1, 1, false)) = true := by decide +kernel

/-- A piece with the poison of each byte, and coded blocks that are malformed and of a negative scale. -/
theorem witness_pieces :
    (let p : Piece := ⟨16, 8, [1, 2], [false, true], [], 2, false⟩; p.bad.length = p.bytes.length ∧ p.bytes ≠ [] ∧ p.heals = false ∧ { p with heals := true }.heals = true)
      ∧ (let o := { opOf (blockOf 6) 6 1 0 with num := 1 };
        (cutPiece o ⟨0, 0, List.replicate 48 1, List.replicate 48 false, [], 0, false⟩).map (fun q => (q.off, q.bytes.length, q.heals))
          = [(0, 16, false), (16, 16, true), (32, 16, false)])
      ∧ (match decodeBlock 4 (bytesOfNat 8 0xFF) with | .malformed => true | _ => false) = true
      ∧ (match decodeBlock 4 (bytesOfNat 16 0x1003B8) with | .signedScale => true | _ => false) = true := by decide +kernel

/-- Three heads, of which the second is the best, and none. -/
theorem witness_engineMerges :
    (let s := blocked [(0, poolCap), (16, halfCap)] [(48, 2, 3), (52, 4, 1), (64, 4, 1), (68, 4, 1), (72, 4, 1)];
      reads (under 7 [] id { s with mem := s.mem.write (poolAddr ⟨0, 0⟩ 0) (bytesOfNat 24 (0x3F800000 + 0x40000000 * 2 ^ 64 + 0x3F800000 * 2 ^ 128)) [] }) fun _ o =>
        o.cursor.sub == 0 && okAnd (mergeHeads o) fun hs => match hs with
          | [a, e, b] => scoreAbove (fieldOf e.2.1 0 4) (fieldOf a.2.1 0 4) && !scoreAbove (fieldOf b.2.1 0 4) (fieldOf e.2.1 0 4)
            && okAnd (passes o e.2.1) fun _ => true
          | _ => false) = true
      ∧ reads (under 7 [] id) (fun _ o => okAnd (mergeHeads o) fun hs => hs.isEmpty) = true := by decide +kernel

/-- The read of a put, and an atomic at the remote word. -/
theorem witness_engineSends :
    reads (under 8 [] id) (fun _ o => o.num' 40 1 == 0
      && got (engineRead o 0 (o.cap 0) 0 (min 64 (8 - (o.cap 16).va % 8)) permLoad) fun _ => true) = true
      ∧ ([2, 3, 4].all fun n => runsOn (under 8 [(32, 8, 8), (40, 1, n)] id) fun u o => !o.ended && !u.dead.contains .fabric && o.num' 40 1 == n
        && okAnd (enginePlaces u (o.cap 16) (effAddr (o.cap 16) 0 1 0) 8 permLoad .engine) fun ls => only (fun l => !l.sink && l.len == 8) ls) = true
      ∧ (let s := under 8 [(32, 8, 8), (40, 1, 2)] id; ({ s with dead := [.fabric] } : State).dead.contains .fabric = true) := by decide +kernel

/-- Where no refusal comes, the access of that atomic is made; on a dead fabric link none is. -/
theorem witness_sendFails (s : State) (space : Nat) :
    (s.dead.contains .fabric = false → Config.foreignRefuses s.tick = false → sendFails s space = none)
      ∧ (space = 4 → s.dead.contains .fabric = true → sendFails s space = some (.memUncorr, 0)) := by
  unfold sendFails
  refine ⟨fun h g => ?_, fun h g => ?_⟩
  · split
    · rfl
    · rw [h, g]; rfl
  · subst h; rw [g]; rfl

/-- A plain copy that is to start. -/
theorem witness_EngineCompletionResults :
    let s := under 0 [] id (blocked [(0, poolCap), (16, halfCap)] [(48, 8, 64)])
    let o := s.ops.headD default
    (s.ops[0]? = some o ∧ opReady s 0 o = true ∧ opLives s o = true)
      ∧ (o.op ≤ 2 ∧ (o.cap 32).tag = false ∧ (o.cap 0).format ≠ 7 ∧ (o.cap 0).space = 0 ∧ (o.cap 16).space = 0 ∧ o.core.idx < 256 ∧ o.core.sgn < 20
        ∧ (o.cap 0).va + 64 ≤ 98304 ∧ (o.cap 16).va + 64 ≤ 98304 ∧ (o.cap 0).va + 64 ≤ (o.cap 16).va ∧ bit o.ctl.toNat 4 = false
        ∧ o.cursor = Cursor.start ∧ o.setAside = false ∧ (s.core o.core).rx = some o.x ∧ o.num' 48 8 = 64)
      ∧ ((List.range 65).all fun (d : Nat) => (List.range (65 - d)).all fun (m : Nat) =>
        okAnd (capCheck .user (o.cap 0) (effAddr (o.cap 0) 0 1 d) m (permLoad + permEngine)) (fun _ => true)
          && okAnd (capCheck .user (o.cap 16) (effAddr (o.cap 16) 0 1 d) m (permStore + permEngine)) fun _ => true) = true := by decide +kernel

/-- Counters below, at and above a value, a queued event that is due, and its handler's return. -/
theorem witness_TimelineResults :
    (let k := { Core.init with early := [(3, 2), (3, 1), (2, 9)] }; (3 < 8 ∧ k.early.length < 2 ^ 32) ∧ (completeNum k 3 1).complete.getD 3 0 = 2)
      ∧ (let s := (onMe fun k => { k with issued := k.issued.set 1 5, complete := k.complete.set 1 3 });
        let r := fun (n : Word) => (s.setX 1 n).x 1
        (r 3).toNat ≤ 5 ∧ (r 3).toNat ≤ (s.me.complete.getD 1 0).toNat ∧ (r 5).toNat ≤ (s.me.issued.getD 1 0).toNat
          ∧ (s.me.complete.getD 1 0).toNat < (r 4).toNat ∧ (s.me.issued.getD 1 0).toNat < (r 6).toNat)
      ∧ (let s := inCtx fun c => { c with inev := true, epc := 65528 }; s.ctx.inev = true ∧ s.ctx.epc.toNat < s.codeLength) ∧ lab.ctx.inev = false
      ∧ (let k := (inCtx fun c => { c with events := [(1, 2), (3, 4)], evec := 0x101 }).core ⟨0, 0⟩;
        k.run = .running ∧ k.hold = .none ∧ k.ctx.events = (1, 2) :: [(3, 4)] ∧ bit k.ctx.evec.toNat 0 = true ∧ k.ctx.inev = false
          ∧ k.ctx.level = .user ∧ bit k.ctx.mstat.toNat 63 = false) := by decide +kernel

/-- The reaction that `lab` runs, with three reactants and the species and products that `talloc` and `emit` need. -/
def theReaction : Reaction := probeReaction (frameVa probeVif.p 0 0)
def reactantOf (n : Nat) : Reactant := { (default : Reactant) with hdr := BitVec.ofNat 512 n }
def speciesLab (f : Reaction → Reaction) : State :=
  launches (fun l => { l with image := { l.image with species := [⟨0x1234, 0, 0, false⟩], rules := l.image.rules.map fun r => { r with products := 1 } } })
    (reacts f)

theorem witness_ReactionFormResults :
    (lab.myReaction = some theReaction ∧ lab.ctx.level = .user) ∧ (2 ^ 42 + 64 * 20 ≤ 2 ^ 56)
      ∧ (let s := reacts fun r => { r with reactants := [reactantOf 1, reactantOf 2] };
        someAnd s.myReaction (fun r => decide (1 < r.reactants.length) && r.reactants[1]? == some (reactantOf 2)) = true)
      ∧ (let w := 3 * 2 ^ 12 - 2 ^ 12 + 14 * 2 ^ 16; bitsOf w 12 2 ≠ 3 ∧ bitsOf w 16 4 ≤ 14 ∧ bitsOf w 9 3 = 0 ∧ bitsOf w 14 2 = 0 ∧ bitsOf w 20 44 = 0
        ∧ theReaction.shape = 0 ∧ bit lab.ctx.mstat.toNat 63 = false)
      ∧ someAnd (speciesLab fun r => { r with taken := 15 }).myReaction (fun r => decide (r.taken < 16)) = true
      ∧ weirsOpen (speciesLab id) [movedTo 2 64 []] = true ∧ weirsOpen dry [movedTo 2 64 []] = false
      ∧ someAnd (speciesLab id).myLaunch (fun l => l.image.species[0]? == some ⟨0x1234, 0, 0, false⟩) = true
      ∧ (let s := after (.talloc 3 0) (speciesLab id);
        let c := s.k 3
        c.tag = true ∧ c.isSealed = false ∧ c.space = 2 ∧ c.va = 2 ^ 42 + 64 * 4 ∧ someAnd s.myReaction (fun r => decide (0 < r.taken ∧ r.taken ≤ 16)
          && !r.emitted.contains 0 && decide (r.products.length < ((ruleOf s r).map (·.products)).getD 0)) = true
          ∧ (s.myLaunch.bind fun l => speciesOf l.image (s.mem.readNat (windowAddr 1 0 c.va) 2)).isSome = true
          ∧ s.mem.poisonIn (windowAddr 1 0 c.va) 64 = []
          ∧ (let body := [hbmLoc s.cur (windowAddr 1 0 c.va) (windowAddr 1 0 c.va) 64]; loadHeld s s.here body = false ∧ body.any (locDown s) = false
            ∧ meets (readingFrom (capAt 2 (2 ^ 42) 8192 (2 ^ 42 + 64 * 4)) 4 s) (.ok body) = true
            ∧ (let t := { s with seq := 1, stores := [{ flight with addr := windowAddr 1 0 c.va }] }; ownOut t t.here body = true))) := by decide +kernel

/-- A header slot behind the dead link of its stack. -/
theorem witness_slotUnreachable (s : State) (a n : Nat) :
    [hbmLoc s.cur a a n].any (locDown { s with dead := [.reach (hbmStack a)] }) = true := by
  simp [locDown, linkDown, hbmLoc]

/-- A crew of two, a core with a store in flight, counters, and a relation of `wmem` that holds and one that does not. -/
def crewed (n : Nat) : State := reacts fun r => { r with shape := n, live := [0, 1] }
def wmemLab (s : State) (x : Word) : State := (keys [(1, frameKey)] s).setX 1 x

theorem witness_ReactionWaitResults :
    (lab.myReaction = some theReaction ∧ lab.ctx.level = .user ∧ lab.ctx.inev = false ∧ eventsOut lab lab.cur = 0)
      ∧ someAnd (crewed 1).myReaction (fun r => decide (1 < r.live.length) && decide (r.shape ≠ 0)) = true
      ∧ (storesOut lab 0 theReaction = false ∧ opsOut lab 0 theReaction = false) ∧ storesOut { lab with stores := [flight] } 0 theReaction = true
      ∧ (let s := onMe fun k => { k with issued := k.issued.set 1 5, complete := k.complete.set 1 3 };
        (3 ≤ (s.me.issued.getD 1 0).toNat ∧ 3 ≤ (s.me.complete.getD 1 0).toNat) ∧ (s.me.complete.getD 1 0).toNat < 5 ∧ 5 ≤ (s.me.issued.getD 1 0).toNat)
      ∧ ([(lab, 0), (crewed 1, 0), (lab, 1)].all fun (p : State × Nat) =>
        let s := wmemLab p.1 (BitVec.ofNat 64 p.2)
        let key := s.k 1
        let va : Word := BitVec.ofNat 64 key.va
        okAnd (capCheck s.ctx.level key va 8 permLoad) (fun _ => true) && key.space == 2 && key.va % 8 == 0
          && okAnd (locate s key.space va 8 .load) (fun ls => !ls.any (locDown s) && !anyBad s ls
            && loadHeld s s.here ls == false && decide (key.format < 12) && blogOk key.format key.blog && weirsOpen s [movedTo key.space 8 ls]
            && (decide (BitVec.ofNat 64 (natOfBytes (readLocs s ls)) = s.x 1) == decide (p.2 = 0)))
          && decide (16 ≤ ((ruleOf s theReaction).map (·.frame)).getD 0)) = true
      ∧ (let s := wmemLab (readingFrom frameKey 0 lab) 0; meets s (locate s 2 (BitVec.ofNat 64 (s.k 1).va) 8 .load) = true)
      ∧ (let s := wmemLab { lab with seq := 1, stores := [{ flight with addr := pinnedAddr 1 theReaction.base }] } 0;
        okAnd (locate s 2 (BitVec.ofNat 64 (s.k 1).va) 8 .load) (ownOut s s.here ·) = true) := by decide +kernel

/-- A row of two, a launch with channels and one core per stage, an episode that waits, and a core that waits at it. -/
def channelled (s : State := lab) (phase : Nat := 1) : State :=
  let s := launches (fun l => { l with channelled := true, stages := [⟨0, 0, [0], 0⟩], phase := phase }) s
  s.setCtx { s.ctx with phase := phase }
def episode (wire : Nat) (arrived : List CoreId) : Episode :=
  { id := 7, wire := wire, index := 0, sgn := 0, x := 0, vif := 1, lid := 0, arrived := arrived, limit := 10, start := 0 }
def waiting (wire : Nat) (arrived : List CoreId) (s : State) : State :=
  let s := { s with bars := [episode wire arrived] }
  s.setMe { s.me with hold := .barrier, cycle := 10, ctx := { s.ctx with arrival := some ⟨wire, 7⟩ } }

theorem witness_BarrierResults :
    let r := crewed 1
    (someAnd r.myReaction (fun q => crewParticipants q 1 (colOf 0) == [0] && crewParticipants q 0 (rowOf 0) == [0, 1]) = true ∧ r.ctx.level = .user
        ∧ r.ctx.arrival = none)
      ∧ ({ waiting 0 [⟨0, 0⟩] r with released := [7] }.released.contains 7 = true ∧ (waiting 0 [⟨0, 0⟩] r).ctx.arrival = some ⟨0, 7⟩)
      ∧ (let s := channelled; (s.myLaunch.any (·.channelled)) = true ∧ s.ctx.phase % 2 = 1 ∧ transferOut s s.cur = false
        ∧ transferOut { s with xfers := [{ (default : Transfer) with sender := s.cur }] } s.cur = true)
      ∧ (streamsOut r = [] ∧ streamsOut channelled = [] ∧ unread (readingFrom poolCap 4 r) = true ∧ (readingFrom poolCap 4 r).ctx.arrival = none)
      ∧ ownStores r = false ∧ ownStores { r with stores := [flight] } = true
      ∧ (let s := waiting 0 [⟨0, 0⟩, ⟨0, 1⟩] r; let b := episode 0 [⟨0, 0⟩, ⟨0, 1⟩]; arrivedStores s b = false ∧ arrivedStores { s with stores := [flight] } b = true)
      ∧ r.bars.find? (fun b => b.wire == 0) = none ∧ (waiting 0 [⟨0, 1⟩] r).bars[0]? = some (episode 0 [⟨0, 1⟩])
      ∧ missingAt (waiting 0 [⟨0, 0⟩, ⟨0, 1⟩] r) (episode 0 [⟨0, 0⟩, ⟨0, 1⟩]) = [] ∧ waitsAt (waiting 0 [⟨0, 0⟩, ⟨0, 1⟩] r).me (episode 0 [⟨0, 0⟩, ⟨0, 1⟩]) = true
      ∧ (let s := waiting 3 [⟨0, 0⟩] channelled; missingAt s (episode 3 [⟨0, 0⟩]) = [] ∧ someAnd (s.launch 1 0) (fun l => decide (stageCores l).Nodup) = true)
      ∧ (let s := waiting 0 [⟨0, 0⟩] r; missingAt s (episode 0 [⟨0, 0⟩]) = [⟨0, 1⟩] ∧ 10 ≤ ((s.core ⟨0, 0⟩).cycle - 0).toNat ∧ s.ctx.level = .user) := by
  decide +kernel

/-- An exchange whose time has come and one too early, transfers that land and that are refused, and the waits at their limits. -/
def exchangeLab : State := (keys [(1, capAt 0 0 98304 98240)] channelled).setX 1 (BitVec.ofNat 64 (5 + 2 ^ 16))
def landing (off : Nat) : State :=
  { lab with xfers := [
    { word := BitVec.ofNat 64 (2 ^ 16 + off * 2 ^ 36), bytes := List.replicate 64 1, poison := [], sender := ⟨0, 0⟩, x := 0, gen := 0, vif := 1, lid := 0
      phase := 1, seq := 0, held := false }] }
def held (h : Hold) (n : Word) (s : State := lab) : State :=
  s.setMe { s.me with hold := h, cycle := n, ctx := { s.ctx with bartimeout := 10 } }

theorem witness_ExchangeAndWaitResults :
    (let s := exchangeLab;
      let w := (s.x 1).toNat
      let l := bitsOf w 16 12
      s.myReaction = some theReaction ∧ s.myLaunch.any (·.channelled) = true ∧ s.ctx.phase % 2 = 1 ∧ bitsOf w 61 3 = 0 ∧ 1 ≤ l ∧ l ≤ 1536 ∧ bitsOf w 36 12 + l ≤ 1536
        ∧ okAnd (capCheck s.ctx.level (s.k 1) (BitVec.ofNat 64 (s.k 1).va) (64 * l) permLoad) (fun _ => true) = true ∧ (s.k 1).space = 0
        ∧ someAnd s.myLaunch (fun l => (stageCores l).contains ⟨0, 0⟩) = true ∧ okAnd (locate s 0 (BitVec.ofNat 64 98240) 64 .load) (fun _ => true) = true
        ∧ streamsOut s = [] ∧ unread (readingFrom poolCap 4 s) = true
        ∧ (s.me.cycle - s.me.phaseAt).toNat < bitsOf w 0 16 ∧ bitsOf w 0 16 ≤ ((held .none 5 s).me.cycle - s.me.phaseAt).toNat)
      ∧ (let s := channelled (onMe fun k => { k with chans := [(255, 64)] }); s.me.chans.find? (·.1 == 255) = some (255, 64))
      ∧ channelled.me.chans.find? (·.1 == 255) = none
      ∧ (let k := (landing 1136).me; k.evicted = [] ∧ linkDown (landing 1136) (.sg 0) = false ∧ k.ctx.scratch ≤ 64 * 1136 ∧ 64 * 1135 < k.ctx.scratch
        ∧ 64 * 1535 + 64 ≤ 98304 ∧ k.rx = some 0 ∧ ((landing 1136).reaction 0 0).map (·.gen) = some 0)
      ∧ ([(some 1, Run.running, some true), (some 2, .running, some false), (some 2, .idle, none), (none, .idle, none)].all fun (p : Option Nat × Run × Option Bool) =>
        let s := landing 1136
        let t := s.setMe { s.me with owner := p.1, run := p.2.1, rx := if p.2.1 = .running then s.me.rx else none }
        (s.vif 1).isSome && t.xfers.all fun x => !xferWaits t x && evictedStage t x == none && xferPasses t x == p.2.2 && x.scratch t == s.ctx.scratch) = true
      ∧ (let s := landing 1136; let away := fun (ring : List RingEntry) => s.setMe { s.me with evicted := [(evictedOf 0)], ring := ring };
        s.xfers.all (fun t => !xferWaits s t && evictedStage s t == none && evictedStage (away []) t == some 0
            && decide (ringUse (away []).me 0 + 64 + t.bytes.length ≤ 24576)
            && decide (24576 < ringUse (away (List.replicate 192 ⟨0, .mail default⟩)).me 0 + 64 + t.bytes.length)) = true
          ∧ (let t := { s with xfers := s.xfers.map fun (x : Transfer) => { x with seq := 1 }, stores := [flight] }; t.xfers.all (xferWaits t) = true))
      ∧ (let k := (held .xsel 11).me; k.hold = .xsel ∧ 10 < heldFor k ∧ k.ctx.level = .user)
      ∧ (64 ≤ heldFor (held .pause 64).me ∧ 4096 ≤ heldFor (held .wfe 4096).me ∧ ownWork (held .pause 64) ⟨0, 0⟩ = false)
      ∧ (let s := held .pause 64; let t := s.setMe { s.me with evicted := [(evictedOf 1)] };
        t.me.rx = some 0 ∧ someAnd (t.reaction 0 0) (fun r => r.shape == 0 && !r.aborting) = true ∧ t.ctx.level = .user ∧ ownWork t ⟨0, 0⟩ = true ∧ 1 ∉ t.me.irqs)
      ∧ (let s := held .wmem 3 ((State.reset.withFetchWord 32 (Instr.wmem 1 2 3 0).encode.toNat).setX 1 3);
        s.me.rx = some 0 ∧ instrAt s = some (.wmem 1 2 3 0) ∧ (s.x 1).toNat % 2 ^ 32 ≠ 0 ∧ (s.x 1).toNat % 2 ^ 32
          ≤ (BitVec.ofNat 64 (({ s with timers := s.timers.set 0 3 } : State).timers.getD 0 0) - s.me.since).toNat)
      ∧ ([(8, true), (9, false)].all fun (p : Nat × Bool) =>
        let s := reacts (fun r => { r with state := .suspended, wait := .word 2 4096 0 })
          ({ lab with timers := lab.timers.set 0 p.1, mem := lab.mem.writeNat (pinnedAddr 1 (theReaction.base + 12)) 4 9 })
        someAnd (s.reaction 0 0) fun r => decide (r.wait = .word 2 4096 0 ∧ r.state = .suspended ∧ r.ready = none ∧ frameTimeout s r = 9)
          && s.me.hold == .none && decide (s.timers.getD 0 0 - 0 < frameTimeout s r) == p.2) = true := by
  decide +kernel

/-- The first line and the last, an overlay that is not in the tile, and slots that can and that cannot be loaded. -/
theorem witness_InstructionMemoryResults :
    let two := launches (fun l => { l with image := { l.image with overlays := [(0, 65532), (65536, 64)] } }) lab
    ([(0, 64), (65472, 1)].all fun (p : Nat × Nat) =>
      let w := p.1 + (p.2 - 1) * 2 ^ 16
      decide (bitsOf w 56 8 = 0 ∧ bitsOf w 26 18 = 0 ∧ bitsOf w 0 16 % 64 = 0 ∧ bitsOf w 16 10 + 1 = p.2 ∧ p.1 + 64 * (p.2 - 1) < 65532 ∧ p.2 ≤ 64)) = true
      ∧ (ruleOf two theReaction).map (·.ovl) = some 0 ∧ someAnd two.myLaunch (fun l => l.image.overlays[1]? == some (65536, 64)) = true
      ∧ (let pins := fun (n : Nat) => (List.range n).map fun m => ((0, ⟨1, 0, 0, m⟩) : Nat × Line);
        ((pins 32).map (·.2)).eraseDups.length ≤ 32 ∧ 32 < ((pins 33).map (·.2)).eraseDups.length)
      ∧ (slotHolding two 0 0 1 0 0).isSome = true ∧ slotHolding two 0 0 1 0 1 = none ∧ slotToLoad two 0 0 = some 1 ∧ weirOpen two 1 1 = true
      ∧ weirOpen dry 1 1 = false ∧ slotHolding dry 0 0 1 0 1 = none ∧ slotToLoad dry 0 0 = some 1
      ∧ ([([], false), ([7], true)].all fun (p : List Nat × Bool) =>
        let s := { two with slots := [⟨0, 0, 0, 1, 0, 0, 65532, 0, true, [7]⟩, ⟨0, 0, 1, 1, 0, 2, 65532, 0, true, p.1⟩] }
        slotToLoad s 0 0 == none && (List.range 2).all (fun m => someAnd (slotAt s 0 0 m) fun k => k.pins != []) == p.2) = true := by decide +kernel

/-- A slot that is bound to a queue with room, to one that is full, and one that is not bound; and the words of `mbox`. -/
def letter (w : Nat) (sender : CoreId := ⟨0, 1⟩) (vif : Nat := 1) : Mail := ⟨BitVec.ofNat 64 w, 5, sender, vif, false⟩
def awayWith (ring : List RingEntry) : State :=
  let s := { lab with mem := lab.mem.write (pinnedAddr 1 (probeVif.p.saveBase + saveOffset ⟨0, 0⟩ 0 + 1920 + 8 * 3)) (bindBytes (some ⟨0, 0, 1136, 8⟩)) [] }
  s.setMe { s.me with evicted := [(evictedOf 0)], ring := ring }
def mailed (tail : Nat) (gen : Nat) : State :=
  let s := inCtx fun c => { c with binds := c.binds.set 3 (some ⟨0, 0, 1136, 8⟩) }
  { s with mem := s.mem.writeNat (poolAddr ⟨0, 0⟩ 72704) 8 tail, mails := [letter (3 * 2 ^ 44 + gen * 2 ^ 28)] }

theorem witness_MailboxResults :
    (let n := 3 * 2 ^ 44; sup.ctx.level ≠ .user ∧ bitsOf n 44 4 ≠ 0 ∧ bitsOf n 11 9 = 0 ∧ bitsOf n 62 2 = 0 ∧ bit n 61 = false ∧ bit (n + 2 ^ 61) 61 = true)
      ∧ (let n := 2 ^ 62 + 3 * 2 ^ 44 + 1136 + 255 * 2 ^ 20; bitsOf n 62 2 = 1 ∧ sup.ctx.scratch ≤ 64 * bitsOf n 0 11
        ∧ 64 * bitsOf n 0 11 + 16 + 16 * bitsOf n 20 8 ≤ 98304 ∧ sup.myReaction = some theReaction) ∧ bitsOf (2 ^ 63 + 3 * 2 ^ 44) 62 2 = 2
      ∧ ([(7, 0), (8, 0), (0, 1)].all fun (p : Nat × Nat) =>
        let s := mailed p.1 p.2
        let k := s.core ⟨0, 0⟩
        sgEnabled s 0 && !linkDown s (.sg 0) && k.owner == some 1 && (boundEvicted s ⟨0, 0⟩ 1 3 p.2).isNone
          && (k.ctx.binds.getD 3 none == some ⟨0, 0, 1136, 8⟩) && (s.mem.readNat (poolAddr ⟨0, 0⟩ 72704) 8 == p.1)) = true
      ∧ ([(mailed 0 0, letter (3 * 2 ^ 44), 0), (mailed 0 0, letter (3 * 2 ^ 44 + 2 ^ 28), 1), (lab, letter (19 * 2 ^ 56), 2), (lab, letter 0 ⟨0, 1⟩ 2, 3)].all
        fun (p : State × Mail × Nat) => match deliver p.1 p.2.1 with | .settled _ n => n == p.2.2 | _ => false) = true
      ∧ ([(mailed 8 0, letter (3 * 2 ^ 44)), (awayWith [], letter (3 * 2 ^ 44))].all fun (p : State × Mail) =>
        match deliver p.1 p.2 with | .spills _ x => x == 0 | _ => false) = true
      ∧ boundEvicted (awayWith []) ⟨0, 0⟩ 1 3 0 = some 0 ∧ ringUse (awayWith []).me 0 + 128 ≤ 24576
      ∧ 24576 < ringUse (awayWith (List.replicate 192 ⟨0, .mail (letter 0)⟩)).me 0 + 128
      ∧ (let w := 2 ^ 61 + 3 * 2 ^ 44;
        let s := ((State.reset.withFetchWord 32 (Instr.mboxSend 2 1).encode.toNat).setX 1 (BitVec.ofNat 64 w));
        let t := s.setMe { s.me with hold := .reply };
        bit (letter w).word.toNat 61 = true ∧ t.me.hold = .reply ∧ instrAt t = some (.mboxSend 2 1) ∧ t.x 1 = (letter w).word) := by decide +kernel

/-- The fills and flushes at machine level, a shoot-down with and without targets, and what arrives of them. -/
def pageEntry : TlbEntry := ⟨1, 2, 2 ^ 20, 2 ^ 16, 0, 5, true⟩
def shooting (mask : List Nat) : State :=
  let s := ((blocked [] [(0, 8, 1), (8, 8, 2 ^ 20), (16, 8, 2 ^ 16), (24, 2, 1)]).setVif { probeVif with p := { probeVif.p with mask := mask } })
  s.setMe { s.me with ctx := { s.ctx with level := .machine } }
def filling (b : Nat) (gens : List (Nat × Nat)) : State :=
  let s := onMe fun k => { k with hold := .miss, gens := gens }
  { s with fills := [⟨0, BitVec.ofNat 64 (5 + 16 * 2 ^ 24), BitVec.ofNat 64 (b + 2 ^ 40)⟩] }
def shot (s : State) : State :=
  { (s.setMe { s.me with tlb := [pageEntry], hold := .sdown }) with shoots := [⟨⟨0, 0⟩, ⟨0, 0⟩, 1, 2 ^ 20, 2 ^ 16, 1, false⟩] }

theorem witness_TranslationResults :
    (let w := 5 + 16 * 2 ^ 24; let b := 2 ^ 37 + 2 ^ 40; mach.ctx.level = .machine ∧ bitsOf w 16 6 = 0 ∧ bitsOf b 33 4 = 0 ∧ bitsOf w 22 2 ≠ 3
        ∧ bitsOf w 24 40 % pageUnits (bitsOf w 22 2) = 0 ∧ bitsOf b 0 25 % pageUnits (bitsOf w 22 2) = 0 ∧ sgEnabled mach 0 = true
        ∧ (mach.core ⟨0, bitsOf b 25 8⟩).run ≠ .outOfUse ∧ bitsOf 511 9 55 = 0)
      ∧ ([[], [1]].all fun (mask : List Nat) =>
        let s := shooting mask
        let bs := poolRead s (s.x 1).toNat 32
        let to' := (permittedCores { probeVif.p with mask := mask }).filter fun c => sgEnabled s c.sgn && (s.core c).run != .parked && (s.core c).run != .outOfUse
        s.ctx.level == .machine && decide (s.ctx.scratch ≤ (s.x 1).toNat ∧ (s.x 1).toNat + 32 ≤ 98304) && fieldOf bs 8 8 % 2 ^ 16 == 0 && fieldOf bs 16 8 % 2 ^ 16 == 0
          && someAnd (s.vif (fieldOf bs 0 1)) (fun f => fieldOf bs 24 2 == (f.gen + 1) % 2 ^ 16) && (to'.isEmpty == mask.isEmpty)) = true
      ∧ ([(2 ^ 37, [], false), (2 ^ 37, [(1, 1)], true), (0, [], false)].all fun (p : Nat × List (Nat × Nat) × Bool) =>
        let s := filling p.1 p.2.1
        someAnd s.fills[0]? fun f => ((s.me.gens.find? (·.1 == (fillEntry f).vif)).any fun h => genOlder (bitsOf f.b.toNat 48 16) h.2) == p.2.2
          && bit f.b.toNat 37 == (p.1 != 0) && s.me.hold == .miss && s.ctx.level != .machine
          && (p.1 != 0 || (missedOp s ⟨0, 0⟩ (fillEntry f)).isNone)) = true
      ∧ (let s := filling 0 []; let t := { s with ops := [{ (default : EngineOp) with core := ⟨0, 0⟩, miss := some (2 ^ 20) }] };
        someAnd s.fills[0]? (fun f => !((fillEntry f).holds (missAddress t ⟨0, 0⟩)) && missedOp t ⟨0, 0⟩ (fillEntry f) == some 0) = true)
      ∧ (someAnd (shot lab).shoots[0]? (fun f => decide (pageEntry ∈ ((shot lab).core f.target).tlb) && decide (pageEntry.vif = f.vif)
          && decide (pageEntry.va < f.va + f.len ∧ f.va < pageEntry.va + pageEntry.size)) = true
        ∧ (shot lab).stores.any (fun f => f.core == (⟨0, 0⟩ : CoreId)) = false ∧ { shot lab with stores := [flight] }.stores.any (fun f => f.core == (⟨0, 0⟩ : CoreId)) = true
        ∧ ([false, true].all fun (b : Bool) =>
          let s := { shot lab with shoots := (shot lab).shoots.map fun (f : Shootdown) => { f with received := b } }
          someAnd s.shoots[0]? (fun f => f.received == b) && match exec (.shootdownReceive 0) s with | .next _ => true | _ => false) = true
        ∧ ([([], false), ([(1, 2)], true), ([(1, 0)], false)].all fun (p : List (Nat × Nat) × Bool) =>
          let s := (shot lab).setMe { (shot lab).me with gens := p.1 }
          someAnd s.shoots[0]? fun f => (s.me.gens.any fun g => g.1 == f.vif && genOlder f.gen g.2) == p.2) = true) := by decide +kernel

/-- Messages of the host: a number as a body, and `lab` with a launch in another state. -/
def msg (type n len : Nat) : List Byte := message type 0xAB (bytesOfNat len n)
def inState (st : LState) (s : State := speciesLab id) : State := launches (fun l => { l with state := st }) s
def injectMsg (lid : Nat) : List Byte := msg 2 (lid + 2 ^ 32 + 0x1234 * 2 ^ 64) 72
/-- `lab` with an INJECT held for the launch, and room in the transit buffers or none. -/
def heldInject (code : Nat) (s : State) : State :=
  s.setVif { probeVif with injects := [⟨0xAB, 0, false, [BitVec.ofNat 512 code], false⟩] }

theorem witness_HostMessageResults :
    endpoint lab 1 = some probeVif
      ∧ (let m := msg 1 (2 ^ 192) 208; msgType m = 1 ∧ launchMalformed probeVif m = false ∧ launchMalformed probeVif (msg 1 0 208) = true
        ∧ fieldOf (msgBody m) 20 2 = 0 ∧ reactionsOf lab 1 7 = [] ∧ lab.launch 1 7 = none ∧ someAnd (lab.launch 1 0) (fun l => decide (l.state ≠ .ended)) = true)
      ∧ (let m := injectMsg 0; msgType m = 2 ∧ injectMalformed ((speciesLab id).launch 1 0) m = false ∧ injectMalformed (lab.launch 1 0) m = true
        ∧ injectMalformed ((speciesLab id).launch 1 9) (injectMsg 9) = false ∧ (speciesLab id).launch 1 9 = none
        ∧ ([LState.admitting, .winding, .ended].all fun st => injectMalformed ((inState st).launch 1 0) m == false) = true
        ∧ 1 ≤ bufferFree (inState .admitting) 1
        ∧ someAnd ((speciesLab id).launch 1 0) (fun l => (tryPlace (speciesLab id) l ((injectHeaders (msgBody m)).map fun h => (fixHeader 1 1 h, false))).isSome) = true)
      ∧ (let m := msg 3 (4096 * 2 ^ 64 + 2 ^ 128) 20; msgType m = 3 ∧ headerOk m = true ∧ (msgBody m).length = 20 ∧ zeroAt (msgBody m) 2 6 = true
        ∧ fieldOf (msgBody m) 8 8 % 64 = 0 ∧ fieldOf (msgBody m) 16 4 ≠ 0)
      ∧ (let m := msg 5 0 2; msgType m = 5 ∧ headerOk m = true ∧ (msgBody m).length = 2
        ∧ ([(0, true), (1, false)].all fun (p : Nat × Bool) =>
          let s := lab.setVif { probeVif with injects := [⟨0xAB, p.1, false, [0], false⟩] }
          someAnd (endpoint s 1) fun f => (f.injects.all fun i => i.acked || i.lid == fieldOf (msgBody m) 0 2) == p.2) = true)
      ∧ ([LState.admitting, .running, .winding, .draining, .ended].all fun st => someAnd ((inState st).launch 1 0) fun l => l.state == st) = true
      ∧ someAnd (endpoint (heldInject 0x1234 lab) 1) (fun f => f.injects.any (!·.acked)) = true
      ∧ ({ heldInject 0x1234 lab with launches := [] }.launch 1 0).isNone = true
      ∧ ([(0x1234, true), (0x4321, false)].all fun (p : Nat × Bool) =>
        let s := heldInject p.1 (speciesLab id)
        someAnd (endpoint s 1) fun f => someAnd (f.injects.find? (!·.acked)) fun i =>
          someAnd (s.launch 1 i.lid) fun l => l.state == .running && declared l.image i.hdrs == p.2
            && (tryPlace (s.setVif { f with injects := f.injects.erase i }) l (i.hdrs.map (·, false))).isSome) = true
      ∧ (let m := msg 6 (9 * 2 ^ 16) 4; msgType m = 6 ∧ headerOk m = true ∧ 4 ≤ (msgBody m).length ∧ fieldOf (msgBody m) 0 1 = 0 ∧ fieldOf (msgBody m) 2 2 = 9)
      ∧ (let m := msg 6 2 40; headerOk m = true ∧ fieldOf (msgBody m) 0 1 = 2 ∧ (msgBody m).length = 40 ∧ lab.stage ≠ .off ∧ lab.stage ≠ .cold
        ∧ lab.primin.hssIndex < 2 ^ 40 ∧ 2 ^ 40 ≤ { lab.primin with hssIndex := 2 ^ 40 }.hssIndex) := by decide +kernel

/-- A full store and transit buffers with no room: an INJECT that is held waits on. -/
def crowded (code : Nat) : State :=
  let s := heldInject code (speciesLab id)
  { s with
    units := s.units.map fun u => { u with tiles := List.replicate 4096 { (default : Tile) with vif := 2, place := .resident } }
    vifs := s.vifs.map fun f => { f with
      p := { f.p with bwCap := 0 }, injects := f.injects ++ List.replicate 33 ⟨0, 0, false, List.replicate 1024 0, true⟩ } }

theorem witness_noRoom :
    someAnd ((crowded 0x1234).launch 1 0) (fun l => (tryPlace (crowded 0x1234) l [(BitVec.ofNat 512 0x1234, false)]).isNone && l.state == .running) = true
      ∧ bufferFree (crowded 0x1234) 1 = 0 ∧ 1 ≤ bufferFree (heldInject 0x1234 (inState .admitting)) 1
      ∧ (let s := { crowded 0x1234 with vifs := (crowded 0x1234).vifs.map fun (f : Vif) => { f with injects := f.injects.filter (·.acked) } };
        someAnd (endpoint s 1) (fun f => !f.injects.any (!·.acked)) = true ∧ bufferFree s 1 = 0
          ∧ someAnd (s.launch 1 0) (fun l => (tryPlace s l [(BitVec.ofNat 512 0x1234, false)]).isNone) = true) := by decide +kernel

def grantMsg (n : Nat) : List Byte := msg 4 (2 * 2 ^ 8 + 6 * 2 ^ 16 + 2 ^ 20 * 2 ^ 64 + n * 2 ^ 128) 24
def shardMsg : List Byte := msg 4 (2 + 6 * 2 ^ 16 + 4096 * 2 ^ 64 + 2 ^ (192 + 16) + (1 + 2 ^ 32 + 2 ^ 64 + 2 ^ 96) * 2 ^ 256
  + (1 + 2 ^ 16 + 2 ^ 32 + 2 ^ 48) * 2 ^ 384 + (1 + 2 ^ 16 + 2 ^ 32 + 2 ^ 48) * 2 ^ 448) 72
def pageOf : PageMap := { (default : PageMap) with space := 2, va := 2 ^ 20, size := 2 ^ 16, pa := 0 }

theorem witness_LeaseMessageResults :
    (let m := grantMsg (2 ^ 16); endpoint lab 1 = some probeVif ∧ msgType m = 4 ∧ leaseOp m = 0 ∧ grantMalformed probeVif m = false
        ∧ grantMalformed probeVif (grantMsg 0) = true)
      ∧ (let m := msg 4 (1 + 2 * 2 ^ 8 + 5 * 2 ^ 16) 24; leaseOp m = 1 ∧ leaseMalformed m = false ∧ leaseId m = 5
        ∧ someAnd (endpoint leased 1) (fun f => f.leases.any (·.id == 5) && f.leases.all (fun k => k.id == 5 || !k.resident || k.revokes.isEmpty)) = true
        ∧ leaseInUse leased 1 5 = true ∧ (let s := lab.setVif { probeVif with leases := [leaseOf] };
          leaseInUse s 1 5 = false ∧ someAnd (endpoint s 1) (fun f => f.leases.filter (·.id == 5) == [leaseOf]) = true ∧ leaseOf.resident = true))
      ∧ (leaseOp shardMsg = 2 ∧ shardMalformed shardMsg = false ∧ (liveShards lab probeVif).length < 4 ∧ probeVif.updates = [])
      ∧ (let s := { lab with launches := (List.range 4).map fun n => { probeLaunch with lid := n, shards := n } };
        4 ≤ (liveShards s { probeVif with shards := (List.range 5).map fun n => (n, ⟨[], []⟩) }).length)
      ∧ (let m := msg 4 (3 + 0xFFFD * 2 ^ 16 + 9 * 2 ^ 64) 24; leaseOp m = 3 ∧ headerOk m = true ∧ (msgBody m).length = 24 ∧ zeroAt (msgBody m) 4 4 = true
        ∧ leaseId m < 0xFFFE)
      ∧ (let e := { leaseOf with resident := false }; [e].find? (fun k => k.id == 5 && !k.resident) = some e ∧ [pageOf].all pageOk = true
        ∧ pagesCover e [pageOf] = true ∧ e.revokes = []) := by decide +kernel

/-- A line of code that an error has spoilt: whole in HBM, and spoilt there too. -/
theorem witness_refetched :
    ([([], true), ([hbmAddr 0 / 32], false)].all fun (p : List Nat × Bool) =>
      let s := launches (fun l => { l with leases := [⟨5, 0x3FF, false⟩], image := { l.image with va := 2 ^ 20, overlays := [(0, 128)] } })
        (lab.setVif { probeVif with leases := [leaseOf], pages := [pageOf] })
      let s := { s with mem := { s.mem with poison := p.1 ++ [s.codeAddr 32 / 32] } }
      let u : State := { s.tickTimers with agenda := [], tick := s.tick + 1, cur := ⟨0, 0⟩ }
      s.agenda == [.core ⟨0, 0⟩] && u.me.run == .running && u.me.hold == .none && u.me.irqs == [] && u.me.overflow == [] && asideOut u == false
        && eventDue u == false && coreHeld u == false && decide (u.ctx.pc < u.codeLength) && u.ctx.space == .overlay
        && !(u.mem.poisonIn (u.codeAddr 0) 64).isEmpty && (match refetched u 0 with
          | some v => p.2 && okAnd (decodeBytes (v.codeBytes v.ctx.pc)) fun _ => true
          | none => !p.2)) = true := by decide +kernel

/-- An image of one empty rule set and one overlay, in HBM under a lease, and a launch that is to be admitted with it. -/
def imageBytes : List Byte := bytesOfNat 192 (0x3143524C + 2 ^ 32 + 2 ^ 96 + 64 * 2 ^ 192 + 192 * 2 ^ 384 + (128 + 64 * 2 ^ 64) * 2 ^ 512)
def admitting (mask : Nat) (leases : List LeaseRef) : State :=
  let s := lab.setVif { probeVif with leases := [leaseOf], pages := [pageOf] }
  launches (fun l => { l with state := .admitting, imageVa := 2 ^ 20, mask := [mask], leases := leases })
    { s with mem := s.mem.write (hbmAddr 0) imageBytes [] }

theorem witness_LaunchResults :
    ([(1, true), (0, false)].all fun (p : Nat × Bool) =>
      let s := admitting p.1 [⟨5, 0x3FF, false⟩]
      someAnd (s.vif 1) fun f => someAnd (s.launch 1 0) fun l => l.state == .admitting && leasesGranted f l && !(unitsOf s l).any (unitFull s)
        && (admitted s f l).isSome == p.2 && l.params.length == l.plen && decide (l.plen ≤ 65536 ∧ l.leases.length ≤ 64)) = true
      ∧ (let s := launches (fun l => { l with last := true, wave := some (false, 0), units := [1] }) lab;
        someAnd (s.launch 1 0) (fun l => l.state == .running && l.last && l.units.any (actAt s l) == false && l.injected == 0 && l.wave == some (false, 0)) = true)
      ∧ (let s := { inState .winding lab with units := [] }; reactionsOf s 1 0 = [] ∧ someAnd (s.launch 1 0) (fun l => l.state == .winding && l.status != .aborted) = true)
      ∧ (let s := (launches (fun l => { l with state := .draining, toDrain := [1, 2] }) lab).setVif { probeVif with buffers := [(0, 4096, 2)] };
        someAnd (s.launch 1 0) (fun l => l.state == .draining && l.toDrain == [1, 2]) = true ∧ someAnd (s.vif 1) (fun f => f.buffers.find? (·.1 == 0) == some (0, 4096, 2)) = true
          ∧ weirOpen s 1 3 = true ∧ linkDown s .fabric = false) := by decide +kernel

/-- A header on its way or in the transit buffer, and a unit with tiles. -/
def arriving (held : Option Nat) (s : State := speciesLab id) : State := { s with flying := [⟨1, 0, 0x1234, false, 0, held⟩] }
def tileOf' (n : Nat) (place : Place) : Tile := { id := n, vif := 1, lid := 0, hdr := 0x1234, ptag := false, stamp := n, place := place, locks := 0, index := 0 }
def basin (ts : List Tile) (s : State) : State := { s with units := s.units.map fun u => { u with tiles := ts, nextStamp := 5000 } }
def full (s : State) : State := basin ((List.range 4096).map fun n => { tileOf' n .resident with locks := 1 }) s

/-- A rule of one consumed reactant of the species, and no reaction yet: tile 3 matches. -/
def matching (ts : List Tile) : State :=
  let s := launches (fun l => { l with image := { l.image with rules := l.image.rules.map fun r => { r with species := [0], cats := 0 } } }) (speciesLab id)
  basin ts { s with units := s.units.map fun u => { u with reactions := [] } }

/-- A header that finds room in its unit's store or in the backwater, one held by the weir, and one for which there is none, with and
without a place in the transit buffer. -/
theorem witness_arrivals :
    let spent := fun (n : Nat) (h : Option Nat) => { full (arriving h) with vifs := [{ probeVif with
      p := { probeVif.p with bwCap := 0 }, injects := List.replicate n ⟨0, 0, false, List.replicate 1024 0, true⟩ }] }
    ([none, some 3].all fun (h : Option Nat) =>
        let s := arriving h
        let t := full (arriving h)
        someAnd s.flying[0]? (fun e => e.held == h && findsRoom s e && entryOpen s e) && decide (residents (s.unit 0) < 4096)
          && someAnd t.flying[0]? (fun e => findsRoom t e && entryOpen t e) && decide (4096 ≤ residents (t.unit 0))
          && (t.unit 0).tiles.all fun j => decide (j.stamp < (t.unit 0).nextStamp)) = true
      ∧ ([none, some 3].all fun (h : Option Nat) =>
        let t := { full (arriving h) with vifs := dry.vifs }
        someAnd t.flying[0]? (fun e => findsRoom t e && !entryOpen t e) && someAnd (spent 0 h).flying[0]? fun e => !findsRoom (spent 0 h) e) = true
      ∧ 0 < bufferFree (spent 0 none) 1 ∧ bufferFree (spent 33 none) 1 = 0 := by decide +kernel

/-- A match for which no escrow slot is left. -/
theorem witness_escrow :
    let s := matching ([tileOf' 3 .resident] ++ List.replicate 4096 (tileOf' 5 .escrow))
    someAnd (s.launch 1 0) (fun l => (chooseMatch l (s.unit 0)).isSome) = true
      ∧ ¬ (((s.unit 0).tiles.filter (·.place == .escrow)).length + 1 ≤ 4096) := by decide +kernel

theorem witness_BasinResults :
    (let s := basin [tileOf' 7 .backwater, tileOf' 9 .backwater] lab; residents (s.unit 0) < 4096 ∧ weirOpen s 1 1 = true)
      ∧ ([([], false), ([tileOf' 3 .resident], true)].all fun (p : List Tile × Bool) =>
        let s := matching p.1
        someAnd (s.launch 1 0) fun l => l.state == .running && weirOpen s 1 4 && launchTurn s 0 == [l] && (chooseMatch l (s.unit 0)).isSome == p.2
          && freeIndex (s.unit 0) == some 0 && decide (((s.unit 0).tiles.filter (·.place == .escrow)).length + 1 ≤ 4096)
          && match chooseMatch l (s.unit 0) with | some (i, ts) => movesOpen s (performMatch s 0 l i ts 0) 0 1 && ts.all (·.place == .resident) | none => true) = true
      ∧ (let s := launches (fun l => { l with last := true }) (matching []);
        someAnd (s.launch 1 0) (fun l => weirOpen s 1 4 && launchTurn s 0 == [l] && (chooseMatch l (s.unit 0)).isNone) = true
          ∧ [s, launches (fun l => { l with last := false }) s].map (fun s => someAnd (s.launch 1 0) (isSlack s ·)) = [true, false])
      ∧ (let s := matching []; let t := { s with units := s.units.map fun (u : CUnit) => { u with last := some (1, 0) } };
        (t.launches.filter fun l => l.state == .running && l.units.contains 0).length = 1 ∧ (t.unit 0).last = some (1, 0)) := by decide +kernel

/-- A reaction that has ended with a product, one that aborts, and launches at their limits. -/
def done (ab : Bool) : State :=
  reacts (fun r => { r with state := .ending, aborting := ab, products := [(0x1234, false)] }) (speciesLab id)

theorem witness_ReactionEndResults :
    ([0, 1].all fun (n : Nat) =>
        let s := launches (fun l => { l with reactLimit := n }) (done false)
        someAnd (s.reaction 0 0) fun r => someAnd (s.launch r.vif r.lid) fun l => !r.aborting && l.state == .running && mayEnd s 0 r
          && (fixedProducts r).all (fun h => queueAdmits l h.1) && (tryPlace s l (fixedProducts r)).isSome
          && (decide (l.reactLimit ≠ 0 ∧ l.reactLimit ≤ l.commits + 1) == (n == 1))) = true
      ∧ someAnd ((done true).reaction 0 0) (fun r => r.aborting && mayEnd (done true) 0 r && abortOpen (done true) 0 r) = true
      ∧ (let s := { done true with
          vifs := dry.vifs, units := (done true).units.map fun (u : CUnit) => { u with
            tiles := ((List.range 4096).map fun n => { tileOf' n .resident with locks := 1 }) ++ [tileOf' 5000 .escrow]
            reactions := u.reactions.map fun (r : Reaction) => { r with reactants := [{ reactantOf 0x1234 with tile := 5000 }] } } };
        someAnd (s.reaction 0 0) (fun r => r.aborting && mayEnd s 0 r && !abortOpen s 0 r) = true)
      ∧ (let s := { done false with vifs := (crowded 0x1234).vifs, units := (done false).units.map fun (u : CUnit) => { u with
            tiles := List.replicate 4096 { (default : Tile) with vif := 2, place := .resident } } };
        someAnd (s.reaction 0 0) (fun r => someAnd (s.launch 1 0) fun l => !r.aborting && mayEnd s 0 r && (tryPlace s l (fixedProducts r)).isNone) = true)
      ∧ someAnd ((inState .winding (done false)).reaction 0 0) (fun r => mayEnd (done false) 0 r && !r.aborting) = true
      ∧ someAnd ((launches (fun l => { l with cycleLimit := 1 }) lab).launch 1 0) (fun l => l.state == .running && l.cycleLimit != 0) = true := by decide +kernel

/-- An idle core before a matched reaction, before one that resumes, and before one that it has evicted. -/
def idleCore (f : Reaction → Reaction) (s : State := lab) : State :=
  let s := launches (fun l => { l with mask := [1] }) (s.setVif { probeVif with p := { probeVif.p with mask := [1] } })
  (reacts (fun r => f { r with live := [] }) s).setMe { s.me with run := .idle, rx := none, ctx := Ctx.init }
def back : State :=
  idleCore (fun r => { r with state := .preempted })
    (lab.setMe { lab.me with evicted := [evictedOf 0] })

theorem witness_PickupResults :
    ([idleCore (fun r => { r with state := .matched, started := false }),
        idleCore (fun r => { r with state := .suspended, wait := .timeline 1 0 0, ready := some 0 })].all fun s =>
        coreFree s ⟨0, 0⟩ && (match chooseWork s ⟨0, 0⟩ with
          | some (.start r) => s.reaction 0 r.x == some r && (r.state != .suspended || r.started)
            && (blockTiles (blockAt r 0)).all (tileOpen s 0 · r.vif) && (blockCores (blockAt r 0)).all (fun i => poolOpen s ⟨0, i⟩ r.vif)
            && weirOpen s r.vif 1 && decide (r.vif < 256)
            && someAnd (ruleOf s r) fun rule => decide (r.base + max 64 rule.frame ≤ 2 ^ 56)
          | _ => false)) = true
      ∧ ([(Run.idle, true), (.running, false)].all fun (p : Run × Bool) =>
        let s := { (idleCore fun r => { r with state := .matched, started := false }).setCore ⟨0, 1⟩ { Core.init with run := p.1 } with
          slots := [⟨0, 0, 0, 2, 0, 0, 64, 0, false, []⟩] }
        coreFree s ⟨0, 0⟩ && tileForeign s 0 0 1 && tileDrained s 0 0 == p.2 && match chooseWork s ⟨0, 0⟩ with
          | some (.start r) => (blockTiles (blockAt r 0)).all (tileOpen s 0 · r.vif) == p.2
          | _ => false) = true
      ∧ ([([], true), ([{ flight with addr := poolAddr ⟨0, 0⟩ 5 }], false)].all fun (p : List InFlight × Bool) => [some 2, none].all fun (v : Option Nat) =>
        let t := idleCore fun r => { r with state := .matched, started := false }
        let s := { t.setMe { t.me with owner := v } with stores := p.1 }
        coreFree s ⟨0, 0⟩ && match chooseWork s ⟨0, 0⟩ with
          | some (.start r) => (blockCores (blockAt r 0)).all (fun i => poolOpen s ⟨0, i⟩ r.vif) == p.2
          | _ => false) = true
      ∧ (let s := { back with slots := [] };
        coreFree s ⟨0, 0⟩ = true ∧ (match chooseWork s ⟨0, 0⟩ with | some (.back e) => e.x == 0 && e.vif == 1 | _ => false) = true
          ∧ slotHolding s 0 (tileIndex 0) 1 0 0 = none ∧ weirOpen s 1 1 = true ∧ tileForeign s 0 (tileIndex 0) 1 = false ∧ (slotToLoad s 0 (tileIndex 0)).isSome = true)
      ∧ ([(0xFFFF, false), (64, true)].all fun (p : Nat × Bool) =>
        let s := launches (fun l => { l with leases := [⟨5, 0x3FF, false⟩], image := { l.image with va := 2 ^ 20, overlays := [(0, p.1)] } })
          ({ lab with slots := [⟨0, 0, 1, 1, 0, 0, 64, 0, true, []⟩] }.setVif { probeVif with
            leases := [{ leaseOf with len := 2 ^ 15 }], pages := [{ pageOf with size := 2 ^ 16 }] })
        someAnd (slotAt s 0 0 1) fun k => k.loading && someAnd (s.vif k.vif) fun f => someAnd (s.launch k.vif k.lid) fun l =>
          let o := l.image.overlays.getD k.ovl (0, 0)
          l.state != .ended && withinLeases f l 2 (l.image.va + o.1) o.2 false == p.2
            && (!p.2 || someAnd (vifRead s f 2 (l.image.va + o.1) o.2) fun bs => decide ((relocated l.image o bs).length ≤ 2 ^ 16))) = true
      ∧ ([(0, false), (2, true)].all fun (p : Nat × Bool) =>
        let s := { reacts (fun r => { r with shape := p.1, state := .matched }) (held .overlay 0) with slots := [⟨0, 0, 0, 1, 0, 0, 64, 0, false, []⟩] }
        s.me.hold == .overlay && someAnd (s.me.rx.bind (s.reaction 0)) fun r => (ruleOf s r).map (·.ovl) == some 0
          && decide ((s.unit 0).reactions.map (·.x)).Nodup && crewLoading s 0 (blockAt r r.first) 1 0 0 == p.2) = true
      ∧ ([(Run.idle, true), (.running, false)].all fun (p : Run × Bool) =>
        let s := ({ lab with cores := [], slots := [⟨0, 63, 0, 2, 0, 0, 64, 0, false, []⟩], vifs := [{ probeVif with p := { probeVif.p with mask := [2 ^ 63] } }] }).setCore
          ⟨0, 253⟩ { Core.init with owner := some 2, run := p.1 }
        (s.vif 1).isSome && sgWorks s 0 && bit (([2 ^ 63] : List Nat).getD 0 0) 63 && tileForeign s 0 63 1 && tileDrained s 0 63 == p.2) = true
      ∧ tileForeign lab 0 0 1 = false := by
  decide +kernel

/-- Each wait that an interrupt ends, and the levels. -/
theorem witness_InterruptResults :
    ([Hold.none, .overlay, .sdown, .pause, .wfe, .miss, .matrix, .barrier, .xsel, .wmem, .ending, .reply].all fun h =>
        let s := (held h 0).setMe { (held h 0).me with evicted := [evictedOf 1] }
        runsReaction s ⟨0, 0⟩ && ownWork s ⟨0, 0⟩ && !s.me.irqs.contains 1 && !s.me.irqs.contains 2 && s.ctx.level != .machine) = true
      ∧ ([Hold.none, .wfe].all fun h => let s := mach.setMe { mach.me with hold := h, evicted := [evictedOf 1] };
        runsReaction s ⟨0, 0⟩ && ownWork s ⟨0, 0⟩ && s.ctx.level == .machine) = true
      ∧ (let two := fun (s : State) => { s with
          vifs := s.vifs ++ [{ probeVif with p := { probeVif.p with id := 2 } }], launches := s.launches ++ [{ probeLaunch with vif := 2 }]
          units := s.units.map fun (u : CUnit) => { u with reactions := u.reactions ++ [{ theReaction with x := 1, vif := 2, state := .preempted }] } };
        let away := fun (k : Core) => { k with evicted := [{ evictedOf 1 with vif := 2 }] };
        let s := two (dry.setMe (away dry.me))
        let t := two (lab.setCore ⟨0, 1⟩ (away Core.init))
        runsReaction s ⟨0, 0⟩ = true ∧ someAnd (s.reaction 0 0) (heldForOther s ⟨0, 0⟩ ·) = true
          ∧ runsReaction t ⟨0, 0⟩ = true ∧ someAnd (t.reaction 0 0) (tileWanted t ⟨0, 0⟩ ·) = true)
      ∧ ([LState.winding, .ended].all fun st => someAnd (lab.me.rx.bind (lab.reaction 0)) fun r =>
        someAnd ((inState st lab).launch r.vif r.lid) fun l => l.state == st && !r.aborting) = true
      ∧ someAnd ((inState .winding (reacts fun r => { r with aborting := true })).reaction 0 0) (·.aborting) = true
      ∧ (onMe fun k => { k with run := .parked }).me.run = .parked := by decide +kernel

theorem witness_EvictionResults :
    (let s := reacts (fun r => { r with state := .preempted }) (mach.setMe { mach.me with preempted := true });
      let k := s.core ⟨0, 0⟩
      k.saved = some lab.ctx ∧ someAnd (k.rx.bind (s.reaction 0)) (fun r => evictable s ⟨0, 0⟩ r && (s.vif r.vif).isSome) = true
        ∧ probeVif.p.saveBase < 2 ^ 56 ∧ freeRecordSlot k 1 = some 0 ∧ poolQuietBut s ⟨0, 0⟩ (·.mergeOf ⟨0, 0⟩ 0) = true ∧ mergesHeld s ⟨0, 0⟩ 0 = true
        ∧ (s.cores.all fun e => e.2.ring.isEmpty && e.2.evicted.isEmpty) = true)
      ∧ ([[], [(pinnedAddr 1 (probeVif.p.saveBase + saveOffset ⟨0, 0⟩ 0)) / 32]].all fun (bad : List Nat) =>
        let s := { back with mem := { back.mem with poison := bad } }
        let a := pinnedAddr 1 (probeVif.p.saveBase + saveOffset ⟨0, 0⟩ 0)
        coreFree s ⟨0, 0⟩ && (match chooseWork s ⟨0, 0⟩ with | some (.back e) => e.x == 0 && e.vif == 1 && e.slot == 0 | _ => false)
          && someAnd (s.reaction 0 0) (fun r => (ruleOf s r).isSome && (slotHolding s 0 (tileIndex 0) r.vif r.lid 0).map (!·.loading) == some true
            && r.state == .preempted && someAnd (s.launch r.vif r.lid) fun l => l.state == .running)
          && tileForeign s 0 0 1 == false && poolOpen s ⟨0, 0⟩ 1 && (s.mem.poisonIn a 131072).isEmpty == bad.isEmpty && s.cores.all fun e => e.2.ring.isEmpty) = true := by
  decide +kernel

theorem witness_StartResults :
    { lab with stage := .off }.stage = .off ∧ { lab with stage := .cold }.stage = .cold ∧ { lab with stage := .safe }.stage = .safe ∧ { lab with stage := .verify }.stage = .verify
      ∧ { lab with stage := .bringUp }.stage = .bringUp ∧ lab.stage ≠ .off ∧ countEnabled (2 ^ 17 - 1) < 18 ∧ 18 ≤ countEnabled (2 ^ 18 - 1) ∧ bit (2 ^ 18 - 1) 17 = true
      ∧ (([⟨0, true, 3⟩] : List FirmwareImage).all fun i => i.signed && decide (0 ≤ i.version)) = true ∧ (⟨0, false, 3⟩ : FirmwareImage).signed = false
      ∧ (onMe fun k => { k with run := .outOfUse }).me.run = .outOfUse := by decide +kernel

def newVif (id : Nat) : VifParams :=
  { probeVif.p with id := id, mask := [1], saveBase := 0, recBase := 2 ^ 41, window := 2 ^ 43, ringCap := 65536 }
def served (b : Int) : State := (leased.setVif { probeVif with leases := [leaseOf], pages := [pageOf], rem := List.replicate 5 b })

theorem witness_InterfaceResults :
    ((lab.stage = .ready ∧ idFree lab 255 = true ∧ paramsOk (newVif 255) = true) ∧ idFree lab 0 = true ∧ paramsOk (newVif 0) = true)
      ∧ ((inState .ended lab).launches.all fun l => l.vif != 1 || l.state == .ended) = true
      ∧ ({ lab with units := [] }.units.all fun u => u.reactions.all (·.vif != 1)) = true ∧ (lab.vif 1).isSome = true
      ∧ ([RemoteAccess.read 65536, .write [1, 2], .read 1].all fun q =>
        let s := served 5
        (s.vif (512 + 1)).isNone && someAnd (endpoint s 1) fun f =>
          let n := remoteLength q
          let granted := (f.leases.filter fun e => e.resident && e.space == 2).map fun e => (e.va, e.len)
          covered granted (granted.length + 1) (2 ^ 20) n && !isAtomic q && !linkDown s .fabric && weirOpen s 1 1
            && someAnd (translate (vifPage f 2) (n + 1) (2 ^ 20) n) fun ps => !(translatedLocs ⟨0, 0⟩ 2 ps).any (locDown s)
              && decide (ps.Pairwise fun a b => a.pa + a.len ≤ b.pa ∨ b.pa + b.len ≤ a.pa)) = true := by decide +kernel

/-- Requests of another module that are refused: no lease, another space, and an atomic at no aligned word. -/
theorem witness_remoteRefused :
    ([(2, 0, RemoteAccess.read 8), (3, 2 ^ 20, .write [1]), (0, 2 ^ 20, .cas 1 2), (2, 2 ^ 20 + 4, .add 1)].all fun (p : Nat × Nat × RemoteAccess) =>
      let s := served 5
      !linkDown s .fabric && someAnd (endpoint s 1) fun f =>
        let granted := (f.leases.filter fun e => e.resident && e.space == p.1).map fun e => (e.va, e.len)
        (p.1 != 2 && p.1 != 3) || !covered granted (granted.length + 1) p.2.1 (remoteLength p.2.2) || (isAtomic p.2.2 && p.2.1 % 8 != 0)) = true := by
  decide +kernel

theorem witness_FailureResults :
    (let s := { lab with clock := 471 }; s.stage ≠ .off ∧ s.stage ≠ .cold ∧ 470 < s.clock ∧ s.clock < 940)
      ∧ ([Place.resident, .escrow, .backwater].all fun p => let s := basin [tileOf' 7 p] lab; (s.unit 0).tiles[0]? == some (tileOf' 7 p)
        && someAnd (s.launch 1 0) (fun l => l.state == .running) && decide ((s.unit 0).tiles.map (·.id)).Nodup
        && (reactionsOf { s with units := s.units.map fun (u : CUnit) => { u with reactions := [] } } 1 0).isEmpty) = true
      ∧ someAnd ((launches (fun l => { l with mask := [1] }) (inState .draining lab)).launch 1 0) (fun l => launchIn lab (.sg 0) l && l.state == .draining) = true
      ∧ lab.me.run = .running ∧ lab.ctx.level ≠ .machine ∧ inPartition (.sg 1) 0 = false
      ∧ ([Partition.sg 0, .reach 0].all fun p => !lab.testing.contains p && (partitionSgs p).any (sgEnabled lab)
        && { lab with testing := [p] }.testing.contains p) = true := by decide +kernel

end Sys2Proof.Tests
end

section
/-! The storage laws: numbers in memory byte by byte, and the tags and the poison that a data store leaves (R2, R186, R202). -/

namespace Sys2Proof.Machine

/-- Byte `i` of a number's little-endian form (R2). -/
theorem getD_bytesOfNat (n v i : Nat) (h : i < n) : (bytesOfNat n v).getD i 0 = BitVec.ofNat 8 (v / 256 ^ i) := by
  induction n generalizing v i with
  | zero => omega
  | succ n ih =>
    cases i with
    | zero => simp [bytesOfNat]
    | succ i =>
      rw [bytesOfNat, List.getD_cons_succ, ih _ _ (by omega), Nat.div_div_eq_div_mul, Nat.pow_succ, Nat.mul_comm 256]

namespace Memory

theorem readNat_writeNat (m : Memory) (a n v : Nat) (h : v < 2 ^ (8 * n)) : (m.writeNat a n v).readNat a n = v := by
  have hread := read_write m a (bytesOfNat n v) []
  rw [length_bytesOfNat] at hread
  rw [readNat, writeNat, hread, natOfBytes_bytesOfNat]
  exact Nat.mod_eq_of_lt (by rwa [Nat.pow_mul] at h)

theorem byteAt_writeNat (m : Memory) (a n v i : Nat) (h : i < n) :
    (m.writeNat a n v).byteAt (a + i) = BitVec.ofNat 8 (v / 256 ^ i) := by
  rw [writeNat, byteAt_write, length_bytesOfNat, if_pos ⟨by omega, by omega⟩, Nat.add_sub_cancel_left, getD_bytesOfNat n v i h]

/-- A data store clears the tags of the granules that it touches and no others (R202). -/
theorem mem_tags_write (m : Memory) (a : Nat) (bs : List Byte) (bad : List Nat) (g : Nat) (h : bs ≠ []) :
    g ∈ (m.write a bs bad).tags ↔ g ∈ m.tags ∧ (16 * g + 16 ≤ a ∨ a + bs.length ≤ 16 * g) := by
  have hlen : 0 < bs.length := List.length_pos_iff.mpr h
  have apart : ¬ (a / 16 ≤ g ∧ g ≤ (a + bs.length - 1) / 16) ↔ 16 * g + 16 ≤ a ∨ a + bs.length ≤ 16 * g := by omega
  simp only [write, List.isEmpty_iff, h, if_false, List.mem_filter, decide_eq_true_eq, apart]

/-- A data store poisons the granules it is told to, and heals the others that it writes whole (R186). -/
theorem mem_poison_write (m : Memory) (a : Nat) (bs : List Byte) (bad : List Nat) (g : Nat) :
    g ∈ (m.write a bs bad).poison ↔ g ∈ bad ∨ (g ∈ m.poison ∧ ¬ (a ≤ 32 * g ∧ 32 * g + 32 ≤ a + bs.length)) := by
  simp only [write, mem_insertNats, List.mem_filter, decide_eq_true_eq]

end Memory

/-! ## Registers -/

namespace State

theorem ctx_setX_zero (s : State) (v : Word) : (s.setX 0 v).ctx = s.ctx := by
  rw [setX, ctx_setCtx, Ctx.setX_zero]

theorem x_zero (s : State) : s.x 0 = 0 := Ctx.getX_zero s.ctx

theorem x_setX (s : State) (d : BitVec 5) (v : Word) (h : d ≠ 0) : (s.setX d.toNat v).x d.toNat = v := by
  have hd : d.toNat ≠ 0 := fun e => h (BitVec.eq_of_toNat_eq e)
  rw [x, setX, ctx_setCtx, Ctx.getX_setX _ _ _ d.isLt, if_neg hd]

theorem x_setX_other (s : State) (d i : Nat) (v : Word) (h : i ≠ d) : (s.setX d v).x i = s.x i := by
  rw [x, setX, ctx_setCtx, Ctx.getX_setX_other _ _ _ _ h, x]

theorem k_setK (s : State) (d : BitVec 4) (c : Cap) : (s.setK d.toNat c).k d.toNat = c := by
  rw [k, setK, ctx_setCtx, Ctx.getK_setK _ _ _ d.isLt]

theorem k_setK_other (s : State) (d i : Nat) (c : Cap) (h : i ≠ d) : (s.setK d c).k i = s.k i := by
  rw [k, setK, ctx_setCtx, Ctx.getK_setK_other _ _ _ _ h, k]

end State

/-- Settles O12: each law of a register or of memory is the lemma about that operation. -/
theorem storageLaws : Obligations.StorageLaws := by
  unfold Obligations.StorageLaws
  refine ⟨fun s d v k c => ?_, fun m a n v hv => ?_, fun m a bs bad hbs => ?_⟩
  · exact ⟨s.ctx_setX_zero v, s.x_zero, s.x_setX d v, fun i => s.x_setX_other d.toNat i v, s.k_setK k c,
      fun i => s.k_setK_other k.toNat i c⟩
  · exact ⟨m.readNat_writeNat a n v hv, m.byteAt_writeNat a n v⟩
  · refine ⟨m.read_write a bs bad, fun b hb => ?_, fun g => m.mem_tags_write a bs bad g hbs, m.mem_poison_write a bs bad⟩
    rw [Memory.byteAt_write, if_neg (by omega)]

end Sys2Proof.Machine
end

section
/-! System registers: which number holds what, who reaches it, and how `srr` and `srw` end (R69, R327). -/

namespace Sys2Proof

open Machine

/-! ## Which numbers a level reaches -/

theorem reaches_iff (lv : Level) (n : BitVec 10) :
    reaches lv n.toNat = true ↔ (0x100 ≤ n.toNat → lv ≠ .user) ∧ (0x200 ≤ n.toNat → lv = .machine) := by
  have hn : n.toNat / 2 ^ 8 ≤ 3 := by have := n.isLt; omega
  unfold reaches
  rw [decide_eq_true hn, Bool.true_and]
  split
  · exact iff_of_true rfl ⟨by omega, by omega⟩
  · split
    · have h1 : 0x100 ≤ n.toNat := by omega
      have h2 : ¬ 0x200 ≤ n.toNat := by omega
      simp [h1, h2]
    · have h1 : 0x100 ≤ n.toNat := by omega
      have h2 : 0x200 ≤ n.toNat := by omega
      cases lv <;> simp [h1, h2]

/-- Every level reaches the numbers below 0x100. -/
theorem reaches_low (lv : Level) (n : BitVec 10) (h : n.toNat < 0x100) : reaches lv n.toNat = true :=
  (reaches_iff lv n).mpr ⟨by omega, by omega⟩

/-- The levels above user level reach the numbers below 0x200. -/
theorem reaches_trap (lv : Level) (n : BitVec 10) (h : n.toNat < 0x200) (hl : lv ≠ .user) : reaches lv n.toNat = true :=
  (reaches_iff lv n).mpr ⟨fun _ => hl, by omega⟩

theorem reaches_machine (n : BitVec 10) : reaches .machine n.toNat = true :=
  (reaches_iff _ n).mpr ⟨fun _ => by simp, fun _ => rfl⟩

theorem not_reaches (lv : Level) (n : BitVec 10) (h : (0x100 ≤ n.toNat ∧ lv = .user) ∨ (0x200 ≤ n.toNat ∧ lv ≠ .machine)) :
    reaches lv n.toNat = false := by
  rw [← Bool.not_eq_true, reaches_iff]
  rintro ⟨huser, hmachine⟩
  rcases h with ⟨hn, hl⟩ | ⟨hn, hl⟩
  · exact huser hn hl
  · exact hl (hmachine hn)

/-! ## What a number reads as -/

theorem toList_four (v : Vector Word 4) : v.toList = [v.getD 0 0, v.getD 1 0, v.getD 2 0, v.getD 3 0] := by
  apply List.ext_getElem
  · simp
  · intro i h _
    have hi : i < 4 := by simpa using h
    match i, hi with
    | 0, _ | 1, _ | 2, _ | 3, _ => simp [Vector.getD]

/-- The twenty registers below 0x014, one by one. -/
theorem sysRegs_eq (s : State) : sysRegs s s.cur =
    [s.ctx.round, s.ctx.fflags, s.ctx.jord, s.ctx.jfl, s.ctx.amax.getD 0 0, s.ctx.amax.getD 1 0, s.ctx.amax.getD 2 0,
      s.ctx.amax.getD 3 0, s.ctx.partition, s.ctx.crewcoord, coreidOf s.cur, sgenableOf s, s.me.cycle, memcapValue,
      s.ctx.bartimeout, estatusOf s s.cur, s.ctx.evec, s.ctx.ecause, s.ctx.evalue, s.ctx.epc] := by
  simp only [sysRegs, toList_four]
  rfl

theorem sysRead_low (s : State) (n : Nat) (h : n < 20) : sysRead s n = (sysRegs s s.cur)[n]? := if_pos h

/-- The numbers that no register has. -/
theorem sysRead_unassigned (s : State) (n : Nat)
    (h : (20 ≤ n ∧ n < 0x100) ∨ (0x104 ≤ n ∧ n < 0x200) ∨ 0x204 ≤ n) : sysRead s n = none := by
  unfold sysRead
  rw [if_neg (by omega)]
  split
  case h_9 => rfl
  all_goals omega

/-! ## `srr` -/

theorem exec_srr (d : BitVec 5) (n : BitVec 10) (s : State) : exec (.srr d n) s = execSrr d n s := rfl

/-- `srr` of a number that the level reaches and that reads as `v`. -/
theorem answers_srr {d : BitVec 5} {n : BitVec 10} {s : State} {v : Word} (hr : reaches s.ctx.level n.toNat = true)
    (hv : sysRead s n.toNat = some v) : Answers (.srr d n) s fun t => ScalarTo s t d.toNat v := by
  refine ⟨s.retire d.toNat v, ?_, scalarTo_retire s d.toNat v d.isLt⟩
  simp only [exec_srr, execSrr, hr, hv, legal_true, bind_ok, conclude_ok]

/-- `srr` of a number that the level does not reach or that is not assigned. -/
theorem srr_illegal (d : BitVec 5) (n : BitVec 10) (s : State) (h : reaches s.ctx.level n.toNat = false ∨ sysRead s n.toNat = none) :
    exec (.srr d n) s = .next (takeTrap s .illegal (encodingOf (.srr d n))) := by
  rw [exec_srr, execSrr]
  cases hr : reaches s.ctx.level n.toNat with
  | false => simp only [legal_false, bind_trap, conclude_trap]
  | true =>
    have hv : sysRead s n.toNat = none := h.resolve_left (by simp [hr])
    simp only [hv, legal_true, bind_ok, conclude_trap]

theorem srr_illegal_number (d : BitVec 5) (n : BitVec 10) (s : State)
    (h : (20 ≤ n.toNat ∧ n.toNat < 0x100) ∨ (0x104 ≤ n.toNat ∧ n.toNat < 0x200) ∨ 0x204 ≤ n.toNat
      ∨ (0x100 ≤ n.toNat ∧ s.ctx.level = .user) ∨ (0x200 ≤ n.toNat ∧ s.ctx.level ≠ .machine)) :
    exec (.srr d n) s = .next (takeTrap s .illegal (encodingOf (.srr d n))) := by
  refine srr_illegal d n s ?_
  rcases h with h | h | h | h
  · exact .inr (sysRead_unassigned s _ (.inl h))
  · exact .inr (sysRead_unassigned s _ (.inr (.inl h)))
  · exact .inr (sysRead_unassigned s _ (.inr (.inr h)))
  · exact .inl (not_reaches _ n h)

/-- The registers below 0x100, which every level reads. -/
theorem answers_srr_low {d : BitVec 5} {n : BitVec 10} {s : State} {v : Word} (hn : n.toNat < 20)
    (hv : (sysRegs s s.cur)[n.toNat]? = some v) : Answers (.srr d n) s fun t => ScalarTo s t d.toNat v :=
  answers_srr (reaches_low _ n (by omega)) ((sysRead_low s _ hn).trans hv)

/-! ## What a write leaves -/

/-- Two changes of the current core's context in a row are one. -/
theorem onlyCtx_trans {s t u : State} (h : OnlyCtx s t) (k : OnlyCtx t u) (hc : t.cur = s.cur) : OnlyCtx s u := by
  obtain ⟨hrest, ⟨hothers, hme⟩, hmem⟩ := h
  obtain ⟨krest, ⟨kothers, kme⟩, kmem⟩ := k
  refine ⟨?_, ⟨fun c hne => ?_, ?_⟩, fun a => (kmem a).trans (hmem a)⟩
  · calc { u with cores := s.cores } = { ({ u with cores := t.cores } : State) with cores := s.cores } := rfl
      _ = s := by rw [krest, hrest]
  · rw [kothers c (by rwa [hc]), hothers c hne]
  · calc { u.me with ctx := s.ctx } = { ({ u.me with ctx := t.ctx } : Core) with ctx := s.ctx } := rfl
      _ = s.me := by rw [kme, hme]

/-- R100: a MODE of 5 to 7 is not written. -/
theorem sysWrite_round (s : State) (v : Word) :
    sysWrite s 0 v = if v.toNat % 8 < 5 then some (s.setCtx { s.ctx with round := v &&& 0xF }) else none := by
  have hmode : bitsOf v.toNat 0 3 = v.toNat % 8 := congrArg (· % 8) (Nat.div_one v.toNat)
  simp only [sysWrite, hmode]

/-- R137: an order above 7 is not written. -/
theorem sysWrite_jord (s : State) (v : Word) :
    sysWrite s 2 v = if v.toNat < 8 then some (s.setCtx { s.ctx with jord := v }) else none := rfl

/-- The numbers that no write reaches: the read-only registers and those that are not assigned. -/
theorem sysWrite_refused (s : State) (n : Nat) (v : Word) (h : (8 ≤ n ∧ n < 14) ∨ n = 15 ∨ n = 17 ∨ n = 18
    ∨ (20 ≤ n ∧ n < 0x100) ∨ (0x104 ≤ n ∧ n < 0x200) ∨ 0x204 ≤ n) : sysWrite s n v = none := by
  unfold sysWrite
  split
  case h_20 => rfl
  all_goals omega

theorem setIfInBounds_eq_set {α : Type} {n : Nat} (v : Vector α n) (i : Nat) (a : α) (h : i < n) :
    v.setIfInBounds i a = v.set i a h := by
  simp [Vector.setIfInBounds, Vector.set, Array.setIfInBounds, h]

theorem sysWrite_amax (s : State) (n : Fin 4) (v : Word) :
    sysWrite s (4 + n.val) v = some (s.setCtx { s.ctx with amax := s.ctx.amax.set n.val (v &&& 0xFFFFFFFF) }) := by
  rw [← setIfInBounds_eq_set]
  match n with
  | 0 | 1 | 2 | 3 => rfl

/-- The low two bits of a word, as `mstatus` is tested for its PPRIV. -/
theorem and_three_eq_three_iff (v : Word) : v &&& 3 = 3 ↔ v.toNat % 4 = 3 := by
  simp [← BitVec.toNat_inj, Nat.and_two_pow_sub_one_eq_mod v.toNat 2]

/-- R322: a PPRIV of 3 leaves PPRIV as it was, and the other bits are written. -/
theorem sysWrite_mstatus (s : State) (v : Word) : sysWrite s 0x203 v = some (s.setMe { s.me with
    mstatus := if v.toNat % 4 = 3 then (v &&& 0x130) ||| (s.me.mstatus &&& 3) else v &&& 0x133 }) := by
  have hlow : (v &&& 0x133) &&& 3 = v &&& 3 := BitVec.and_assoc v 0x133 3
  have hhigh : (v &&& 0x133) &&& 0x130 = v &&& 0x130 := BitVec.and_assoc v 0x133 0x130
  simp only [sysWrite, hlow, hhigh, and_three_eq_three_iff]

/-! ## `srw` -/

theorem exec_srw (a : BitVec 5) (n : BitVec 10) (s : State) : exec (.srw a n) s = execSrw a n s := rfl

/-- `srw` of a number that the level reaches, whose write gives `u`. -/
theorem exec_srw_of_write {a : BitVec 5} {n : BitVec 10} {s u : State} (hr : reaches s.ctx.level n.toNat = true)
    (hu : sysWrite s n.toNat (s.x a.toNat) = some u) : exec (.srw a n) s = .next u.advance := by
  simp only [exec_srw, execSrw, hr, hu, legal_true, bind_ok, conclude_ok]

/-- `srw` of a number that the level does not reach, or whose write is refused. -/
theorem srw_illegal (a : BitVec 5) (n : BitVec 10) (s : State)
    (h : reaches s.ctx.level n.toNat = false ∨ sysWrite s n.toNat (s.x a.toNat) = none) :
    exec (.srw a n) s = .next (takeTrap s .illegal (encodingOf (.srw a n))) := by
  rw [exec_srw, execSrw]
  cases hr : reaches s.ctx.level n.toNat with
  | false => simp only [legal_false, bind_trap, conclude_trap]
  | true =>
    have hu : sysWrite s n.toNat (s.x a.toNat) = none := h.resolve_left (by simp [hr])
    simp only [hu, legal_true, bind_ok, conclude_trap]

theorem srw_illegal_number (a : BitVec 5) (n : BitVec 10) (s : State)
    (h : (8 ≤ n.toNat ∧ n.toNat < 14) ∨ n.toNat = 15 ∨ n.toNat = 17 ∨ n.toNat = 18 ∨ (20 ≤ n.toNat ∧ n.toNat < 0x100)
      ∨ (0x104 ≤ n.toNat ∧ n.toNat < 0x200) ∨ 0x204 ≤ n.toNat ∨ (0x100 ≤ n.toNat ∧ s.ctx.level = .user)
      ∨ (0x200 ≤ n.toNat ∧ s.ctx.level ≠ .machine)) :
    exec (.srw a n) s = .next (takeTrap s .illegal (encodingOf (.srw a n))) := by
  refine srw_illegal a n s ?_
  rcases h with h | h | h | h | h | h | h | h
  case inr.inr.inr.inr.inr.inr.inr => exact .inl (not_reaches _ n h)
  all_goals exact .inr (sysWrite_refused s n.toNat _ (by omega))

/-- `srw` of a register of the context. -/
theorem answers_srw_ctx {a : BitVec 5} {n : BitVec 10} {s : State} {u : Ctx} (hr : reaches s.ctx.level n.toNat = true)
    (hu : sysWrite s n.toNat (s.x a.toNat) = some (s.setCtx u)) (hpc : u.pc = s.ctx.pc) :
    Answers (.srw a n) s fun t => OnlyCtx s t ∧ t.ctx = { u with pc := s.ctx.pc + 4 } := by
  refine ⟨_, exec_srw_of_write hr hu, onlyCtx_trans (onlyCtx_setCtx s u) (goesOn_advance _).1 rfl, ?_⟩
  rw [(goesOn_advance _).2, State.ctx_setCtx, hpc]

/-- `srw` of a register below 0x100, which every level writes. -/
theorem answers_srw_low {a : BitVec 5} {n : BitVec 10} {s : State} {u : Ctx} (hn : n.toNat < 0x100)
    (hu : sysWrite s n.toNat (s.x a.toNat) = some (s.setCtx u)) (hpc : u.pc = s.ctx.pc) :
    Answers (.srw a n) s fun t => OnlyCtx s t ∧ t.ctx = { u with pc := s.ctx.pc + 4 } :=
  answers_srw_ctx (reaches_low _ n hn) hu hpc

theorem answers_srw_amax (a : BitVec 5) (n : Fin 4) (s : State) : Answers (.srw a (BitVec.ofNat 10 (4 + n.val))) s fun t =>
    OnlyCtx s t ∧ t.ctx = { s.ctx with amax := s.ctx.amax.set n.val (s.x a.toNat &&& 0xFFFFFFFF), pc := s.ctx.pc + 4 } := by
  have hn : (BitVec.ofNat 10 (4 + n.val)).toNat = 4 + n.val := by
    rw [BitVec.toNat_ofNat]
    exact Nat.mod_eq_of_lt (by omega)
  exact answers_srw_low (u := { s.ctx with amax := s.ctx.amax.set n.val (s.x a.toNat &&& 0xFFFFFFFF) }) (by omega)
    ((congrArg (sysWrite s · _) hn).trans (sysWrite_amax s n _)) rfl

/-- `srw` of a machine register, which the core holds beside its context. -/
theorem answers_srw_me {a : BitVec 5} {n : BitVec 10} {s : State} {k : Core} (hl : s.ctx.level = .machine)
    (hu : sysWrite s n.toNat (s.x a.toNat) = some (s.setMe k)) (hk : k.ctx = s.ctx) :
    Answers (.srw a n) s fun t => { t with cores := s.cores } = s ∧ OtherCores s t
      ∧ t.me = { k with ctx := { s.ctx with pc := s.ctx.pc + 4 } } := by
  have hr : reaches s.ctx.level n.toNat = true := hl ▸ reaches_machine n
  refine ⟨_, exec_srw_of_write hr hu, rfl, fun c hc => ?_, ?_⟩
  · exact ((goesOn_advance (s.setMe k)).1.2.1.1 c hc).trans (State.core_setMe_other s c k hc)
  · rw [State.advance, State.me_setCtx, State.me_setMe, State.ctx_setMe, hk]

/-- Settles O19: the lemmas about `srr` and `srw`, at each number with what `sysRead` and `sysWrite` give there. -/
theorem systemRegisterResults : Obligations.SystemRegisterResults := by
  unfold Obligations.SystemRegisterResults
  refine ⟨fun d s => ⟨?_, fun hl => ?_, fun hl => ?_, fun n hn => srr_illegal_number d n s hn⟩, fun a s => ?_⟩
  · and_intros
    all_goals exact answers_srr_low (by decide) (by rw [sysRegs_eq]; rfl)
  · and_intros
    all_goals exact answers_srr (reaches_trap _ _ (by decide) hl) rfl
  · and_intros
    all_goals exact answers_srr (hl ▸ reaches_machine _) rfl
  · refine ⟨fun h => ?round, fun h => ?badMode, ?fflags, fun h => ?jord, fun h => ?badOrder, ?jfl, fun n => answers_srw_amax a n s,
      ?bartimeout, ?evec, ?epc, fun hl => ?trapRegisters, fun hl => ?machineRegisters, fun n hn => srw_illegal_number a n s hn⟩
    case round => exact answers_srw_low (by decide) ((sysWrite_round s _).trans (if_pos h)) rfl
    case badMode => exact srw_illegal a 0 s (.inr ((sysWrite_round s _).trans (if_neg (Nat.not_lt.mpr h))))
    case jord => exact answers_srw_low (by decide) ((sysWrite_jord s _).trans (if_pos h)) rfl
    case badOrder => exact srw_illegal a 2 s (.inr ((sysWrite_jord s _).trans (if_neg (Nat.not_lt.mpr h))))
    case fflags | jfl | bartimeout | evec | epc => exact answers_srw_low (by decide) rfl rfl
    case trapRegisters =>
      and_intros
      all_goals exact answers_srw_ctx (reaches_trap _ _ (by decide) hl) rfl rfl
    case machineRegisters =>
      refine ⟨answers_srw_me hl rfl rfl, answers_srw_me hl rfl rfl, answers_srw_me hl rfl rfl, fun h => ?_, fun h => ?_⟩
      · exact answers_srw_me hl ((sysWrite_mstatus s _).trans (by rw [if_neg h])) rfl
      · exact answers_srw_me hl ((sysWrite_mstatus s _).trans (by rw [if_pos h])) rfl

end Sys2Proof
end

section
/-! The module's start: what a reset leaves, and the cores that BRING-UP boots (R20, R317, R318, R320, R328, R346). -/

namespace Sys2Proof

open Machine

/-! ## Reset -/

theorem getD_replicate (n i : Nat) (a : Word) : (Vector.replicate n a).getD i a = a := by
  by_cases h : i < n <;> simp [Vector.getD, h]

/-- Settles O6: every field of the reset state stands in `State.reset`, and no core has been written yet, so each is `Core.init`. -/
theorem resetState : Obligations.ResetState := by
  unfold Obligations.ResetState
  refine ⟨⟨rfl, rfl, rfl, rfl, fun _ => rfl, fun _ _ => rfl, rfl, rfl, fun _ => rfl⟩, fun _ => ?_⟩
  exact ⟨rfl, rfl, rfl, rfl, rfl, rfl, rfl, fun i => getD_replicate 4 i 0, rfl, rfl, rfl, rfl, rfl, rfl⟩

/-! ## The boot of cores (R320) -/

/-- A core as BRING-UP leaves it, with its resident handler in place. -/
def Booted (c : CoreId) (t : State) : Prop :=
  t.core c = bootCore c ∧ t.mem.read (handlerAddr c 0) 4096 = residentBytes c

theorem length_residentBytes (c : CoreId) : (residentBytes c).length = 4096 := by
  rw [residentBytes, List.length_map, List.length_range]

/-- No two cores share handler memory: an SG has at most 257 of them. -/
theorem handlerAddr_apart {c d : CoreId} (hc : c.idx ≤ 256) (hd : d.idx ≤ 256) (hne : d ≠ c) :
    handlerAddr c 0 + 4096 ≤ handlerAddr d 0 ∨ handlerAddr d 0 + 4096 ≤ handlerAddr c 0 := by
  obtain ⟨g, i⟩ := c
  obtain ⟨h, j⟩ := d
  simp only at hc hd
  have hfar : h * 257 + j ≠ g * 257 + i := fun e => hne (by
    have hgh : h = g := by omega
    have hij : j = i := by omega
    rw [hgh, hij])
  simp only [handlerAddr]
  omega

/-- A boot touches the cores and memory alone. -/
theorem boot_frame (s : State) (c : CoreId) : { boot s c with cores := s.cores, mem := s.mem } = s := rfl

theorem booted_boot (s : State) (c : CoreId) : Booted c (boot s c) := by
  have hread := Memory.read_write s.mem (handlerAddr c 0) (residentBytes c) []
  rw [length_residentBytes] at hread
  exact ⟨State.core_setCore _ c _, hread⟩

theorem booted_boot_other {s : State} {c d : CoreId} (hc : c.idx ≤ 256) (hd : d.idx ≤ 256) (hne : d ≠ c) (h : Booted c s) :
    Booted c (boot s d) := by
  obtain ⟨hcore, hmem⟩ := h
  refine ⟨(State.core_setCore_other _ d c _ hne.symm).trans hcore, ?_⟩
  rw [← hmem]
  exact Memory.read_write_apart s.mem _ _ _ _ _ (by rw [length_residentBytes]; exact handlerAddr_apart hc hd hne)

theorem boot_keeps_booted {s : State} {c d : CoreId} (hc : c.idx ≤ 256) (hd : d.idx ≤ 256) (h : Booted c s) : Booted c (boot s d) := by
  by_cases hne : d = c
  · exact hne ▸ booted_boot s d
  · exact booted_boot_other hc hd hne h

theorem foldl_boot_frame (cs : List CoreId) (s : State) : { cs.foldl boot s with cores := s.cores, mem := s.mem } = s := by
  induction cs generalizing s with
  | nil => rfl
  | cons d ds ih =>
    calc ({ ds.foldl boot (boot s d) with cores := s.cores, mem := s.mem } : State)
        = { ({ ds.foldl boot (boot s d) with cores := (boot s d).cores, mem := (boot s d).mem } : State) with
            cores := s.cores, mem := s.mem } := rfl
      _ = s := by rw [ih (boot s d), boot_frame]

/-- A core that was booted, or is among those that are, ends booted. -/
theorem booted_foldl_boot {c : CoreId} (hc : c.idx ≤ 256) (cs : List CoreId) (s : State) (hcs : ∀ d ∈ cs, d.idx ≤ 256)
    (h : c ∈ cs ∨ Booted c s) : Booted c (cs.foldl boot s) := by
  induction cs generalizing s with
  | nil => exact h.resolve_left (by simp)
  | cons d ds ih =>
    have hd : d.idx ≤ 256 := hcs d (by simp)
    refine ih (boot s d) (fun e he => hcs e (by simp [he])) ?_
    rcases h with h | h
    · rcases List.mem_cons.mp h with rfl | h
      · exact .inr (booted_boot s c)
      · exact .inl h
    · exact .inr (boot_keeps_booted hc hd h)

theorem mem_coresOf (g : Nat) (c : CoreId) : c ∈ coresOf g ↔ c.sgn = g ∧ c.idx ≤ 256 := by
  simp only [coresOf, List.mem_map, List.mem_range]
  constructor
  · rintro ⟨i, hi, rfl⟩
    exact ⟨rfl, Nat.lt_succ_iff.mp hi⟩
  · rintro ⟨rfl, hi⟩
    exact ⟨c.idx, Nat.lt_succ_iff.mpr hi, rfl⟩

theorem bootSgs_frame (s : State) (gs : List Nat) : { bootSgs s gs with cores := s.cores, mem := s.mem } = s :=
  foldl_boot_frame _ s

/-- Every core of the SGs that are booted is as BRING-UP leaves it. -/
theorem booted_bootSgs (s : State) {gs : List Nat} {c : CoreId} (hg : c.sgn ∈ gs) (hc : c.idx ≤ 256) : Booted c (bootSgs s gs) := by
  refine booted_foldl_boot hc _ s (fun d hd => ?_) (.inl ?_)
  · obtain ⟨g, _, hd⟩ := List.mem_flatMap.mp hd
    exact ((mem_coresOf g d).mp hd).2
  · exact List.mem_flatMap.mpr ⟨c.sgn, hg, (mem_coresOf _ c).mpr ⟨rfl, hc⟩⟩

/-! ## The stages (R346, Table 14.13) -/

theorem exec_powerOn_off {s : State} (h : s.stage = .off) : exec .powerOn s = .next (coldState s .cold) := by
  show execPowerOn s = _
  simp only [execPowerOn, h]

theorem exec_powerOn_cold {s : State} (h : s.stage = .cold) : exec .powerOn s = .next { s with stage := .safe } := by
  show execPowerOn s = _
  simp only [execPowerOn, h]

theorem exec_verify_safe {s : State} (images : List FirmwareImage) (h : s.stage = .safe) : exec (.verify images) s = .next { s with
    primin := { s.primin with measured := (images.filter (imagePasses s)).map (·.digest) }
    stage := if images.all (imagePasses s) then .verify else .safe } :=
  congrArg Host.Outcome.next (if_pos h)

/-- R318: an image may run where it is signed and not older than the flash allows. -/
theorem imagePasses_iff (s : State) (i : FirmwareImage) : imagePasses s i = true ↔ i.signed = true ∧ s.primin.minVersion ≤ i.version := by
  simp only [imagePasses, Bool.and_eq_true, decide_eq_true_eq]

theorem not_all_pass {s : State} {images : List FirmwareImage} (h : ∃ i ∈ images, i.signed = false ∨ i.version < s.primin.minVersion) :
    ¬ images.all (imagePasses s) = true := by
  obtain ⟨i, hi, hfail⟩ := h
  intro hall
  obtain ⟨hsigned, hversion⟩ := (imagePasses_iff s i).mp (List.all_eq_true.mp hall i hi)
  rcases hfail with hfail | hfail
  · exact Bool.false_ne_true (hfail.symm.trans hsigned)
  · omega

theorem exec_bringUp_verify {s : State} (passed : BitVec 20) (h : s.stage = .verify) :
    exec (.bringUp passed) s = .next { s with stage := .bringUp } := by
  show execBringUp passed s = _
  simp only [execBringUp, h]

/-- R20: with fewer than eighteen SGs the module goes back to SAFE. -/
theorem exec_bringUp_few {s : State} {passed : BitVec 20} (h : s.stage = .bringUp) (hn : countEnabled passed < 18) :
    exec (.bringUp passed) s
      = .next { s with stage := .safe, enabled := passed, primin := { s.primin with failed := some passed } } := by
  show execBringUp passed s = _
  simp only [execBringUp, h, if_neg (Nat.not_le.mpr hn)]

/-- The module READY, before its cores are booted. -/
def readied (s : State) (passed : BitVec 20) : State :=
  { s with stage := .ready, enabled := passed, primin := { s.primin with failed := none, reports := [] } }

/-- R20, R320: with eighteen or more the SGs that pass are booted. -/
theorem exec_bringUp_enough {s : State} {passed : BitVec 20} (h : s.stage = .bringUp) (hn : 18 ≤ countEnabled passed) :
    exec (.bringUp passed) s
      = .next (bootSgs (readied s passed) ((List.range Config.sgs).filter fun g => bit passed.toNat g)) := by
  show execBringUp passed s = _
  simp only [execBringUp, h, if_pos hn]
  rfl

theorem exec_priminReset {s : State} (h : s.stage ≠ .off) : exec .priminReset s = .next (coldState s .cold) :=
  congrArg Host.Outcome.next (if_neg h)

theorem exec_coreRestore {s : State} {c : CoreId} (h : (s.core c).run = .outOfUse) : exec (.coreRestore c) s =
    .next (({ s with primin := { s.primin with reports := s.primin.reports.filter (· != c) } } : State).setCore c
      { bootCore c with evicted := (s.core c).evicted, ring := (s.core c).ring, ibufPins := (s.core c).ibufPins }) :=
  congrArg Host.Outcome.next (if_pos h)

/-- What a power loss adds to the signature index: the one that was committed and not used, if any (R317). -/
theorem wasted_le_one (p : Prop) [Decidable p] : (if p then 1 else 0) ≤ 1 := by
  split <;> omega

/-- Settles O58: the lemma about each event in the stage where it comes, and `booted_bootSgs` for the cores that BRING-UP boots. -/
theorem startResults : Obligations.StartResults := by
  unfold Obligations.StartResults
  intro s cold booted
  have hcold : ∀ stage, cold (coldState s stage) := fun _ => ⟨rfl, rfl, rfl, rfl, rfl, rfl, rfl, rfl, rfl, rfl, rfl⟩
  refine ⟨fun h => ?off, fun h => ?powered, fun images h => ?verify, fun passed h => ?verified, fun passed h => ?bringUp, fun h => ?reset,
    ?powerLoss, fun c h => ?restore⟩
  case off => exact ⟨_, exec_powerOn_off h, rfl, hcold _, rfl⟩
  case powered => exact ⟨_, exec_powerOn_cold h, rfl⟩
  case verify =>
    refine ⟨_, exec_verify_safe images h, rfl, rfl, fun hpass => if_pos ?_, fun hfail => if_neg (not_all_pass hfail)⟩
    exact List.all_eq_true.mpr fun i hi => (imagePasses_iff s i).mpr (hpass i hi)
  case verified => exact ⟨_, exec_bringUp_verify passed h, rfl⟩
  case bringUp =>
    by_cases hn : 18 ≤ countEnabled passed
    · refine ⟨_, exec_bringUp_enough h hn, ?_⟩
      generalize ht : bootSgs (readied s passed) _ = t
      have hframe : { t with cores := s.cores, mem := s.mem } = readied s passed := ht ▸ bootSgs_frame _ _
      refine ⟨(congrArg State.enabled hframe :), (congrArg State.vifs hframe :), (congrArg State.launches hframe :),
        fun hfew => absurd hfew (Nat.not_lt.mpr hn), fun _ => ⟨congrArg State.stage hframe, congrArg State.primin hframe, ?_⟩⟩
      intro c hg hc hpass
      exact ht ▸ booted_bootSgs _ (List.mem_filter.mpr ⟨List.mem_range.mpr hg, hpass⟩) hc
    · exact ⟨_, exec_bringUp_few h (Nat.not_le.mp hn), rfl, rfl, rfl, fun _ => ⟨rfl, rfl, rfl⟩, fun henough => absurd henough hn⟩
  case reset => exact ⟨_, exec_priminReset h, rfl, hcold _, rfl⟩
  case powerLoss =>
    exact ⟨_, rfl, rfl, hcold .off, Nat.le_add_right _ _, Nat.add_le_add_left (wasted_le_one _) _⟩
  case restore =>
    exact ⟨_, exec_coreRestore h, State.core_setCore _ c _, fun e he => State.core_setCore_other _ c e _ he, rfl, rfl⟩

end Sys2Proof
end

section
/-! The charge that a clock step's EVENT makes (R19, R293). -/

namespace Sys2Proof

open Machine

/-- An EVENT takes 32 bytes: its header of 16 and its body of 16 (Table 13.13). -/
theorem length_eventMessage (kind lid value : Nat) : (eventMessage kind lid value).length = 32 := by
  simp [eventMessage, message, wordBytes]

/-- A charge to a weir with a finite budget is made in full (R294). -/
theorem charge_finite {s : State} {v w : Nat} {f : Vif} (n : Nat) (hf : s.vif v = some f)
    (hb : f.p.budgets.getD w Config.unlimited ≠ Config.unlimited) :
    charge s v w n = s.setVif { f with rem := f.rem.set w (f.rem.getD w 0 - n) } := by
  have hb' : (f.p.budgets.getD w Config.unlimited == Config.unlimited) = false := beq_false_of_ne hb
  simp only [charge, hf, hb', Bool.false_eq_true, if_false]

/-- R293: a message to the only interface is charged to that interface's FAB weir. -/
theorem vifs_send_sole {s : State} {f : Vif} (m : List Byte) (hs : s.vifs = [f])
    (hb : f.p.budgets.getD 3 Config.unlimited ≠ Config.unlimited) :
    (s.send f.p.id m).vifs = [{ f with rem := f.rem.set 3 (f.rem.getD 3 0 - m.length) }] := by
  have hf : s.vif f.p.id = some f := by simp [State.vif, hs]
  calc (s.send f.p.id m).vifs = (charge s f.p.id 3 m.length).vifs := charge_vifs s _ f.p.id 3 m.length rfl
    _ = _ := by rw [charge_finite m.length hf hb]; simp [State.setVif, hs, upsert]

theorem vifs_tellAll_sole {s : State} {f : Vif} (kind : Nat) (hs : s.vifs = [f])
    (hb : f.p.budgets.getD 3 Config.unlimited ≠ Config.unlimited) :
    (tellAll s kind).vifs = [{ f with rem := f.rem.set 3 (f.rem.getD 3 0 - 32) }] := by
  have hone : tellAll s kind = s.send f.p.id (eventMessage kind 0xFFFF (Config.openWord s.tick 0).toNat) := by
    simp only [tellAll, hs, List.foldl_cons, List.foldl_nil]
  rw [hone, vifs_send_sole _ hs hb, length_eventMessage]
  rfl

theorem exec_clockStepDown {s : State} (hs : fromSafe s = true) (hc : 470 < s.clock) :
    exec .clockStepDown s = .next (tellAll { s with clock := max 470 (s.clock - 47) } 0) :=
  congrArg Host.Outcome.next (if_pos ⟨hs, hc⟩)

/-- An interface whose weirs all have a budget of 4,096, as Primin leaves it. -/
def finiteVif : Vif := Machine.newVif { probeVif.p with budgets := List.replicate 5 4096 }

theorem paramsOk_finiteVif : paramsOk finiteVif.p = true := by decide

/-- A module that is READY with all its SGs at the full clock, with that interface alone. -/
def readyWithFiniteVif : State := { State.reset with stage := .ready, enabled := BitVec.allOnes 20, vifs := [finiteVif] }

/-- The step down of that module's clock leaves 4,064 of the 4,096 bytes of the FAB weir. -/
theorem vifs_after_clockStepDown : (tellAll { readyWithFiniteVif with clock := 893 } 0).vifs
    = [{ finiteVif with rem := [4096, 4096, 4096, 4064, 4096] }] :=
  vifs_tellAll_sole 0 rfl (by decide)

/-- Refutes O60: its first clause has a clock step change nothing but the clock and what was sent, but R19's EVENT to an interface
with a finite FAB weir is charged to that weir (R293), so the interface's REM changes too. -/
theorem not_failureResults : ¬ Obligations.FailureResults := by
  unfold Obligations.FailureResults
  intro h
  obtain ⟨hclock, -⟩ := h readyWithFiniteVif
  obtain ⟨hdown, -⟩ := hclock (by decide) (by decide)
  obtain ⟨t, ht, -, -, hsame⟩ := hdown (by decide)
  have hstep : exec .clockStepDown readyWithFiniteVif = .next (tellAll { readyWithFiniteVif with clock := 893 } 0) :=
    exec_clockStepDown rfl (by decide)
  have hnext : t = tellAll { readyWithFiniteVif with clock := 893 } 0 := Host.Outcome.next.inj (ht.symm.trans hstep)
  have hvifs : t.vifs = [finiteVif] := (congrArg State.vifs hsame :)
  rw [hnext, vifs_after_clockStepDown] at hvifs
  exact absurd hvifs (by decide)

end Sys2Proof
end

section
/-! What the matrix unit computes, element by element: lanes, panels, and a whole step (R106, R158, R170). -/

namespace Sys2Proof

open Machine

/-! ## Lanes -/

theorem getElem?_splitLanes (w n v i : Nat) (h : i < n) : (splitLanes w n v)[i]? = some (v / 2 ^ (w * i) % 2 ^ w) := by
  induction n generalizing v i with
  | zero => omega
  | succ n ih =>
    cases i with
    | zero => simp [splitLanes]
    | succ i =>
      rw [splitLanes, List.getElem?_cons_succ, ih _ _ (by omega), Nat.div_div_eq_div_mul, ← Nat.pow_add, Nat.mul_succ, Nat.add_comm w]

@[simp] theorem length_splitLanes (w n v : Nat) : (splitLanes w n v).length = n := by
  induction n generalizing v with
  | zero => rfl
  | succ n ih => rw [splitLanes, List.length_cons, ih]

theorem joinLanes_lt (w : Nat) (l : List Nat) : joinLanes w l < 2 ^ (w * l.length) := by
  induction l with
  | nil => simp [joinLanes]
  | cons x t ih =>
    have hx : x % 2 ^ w < 2 ^ w := Nat.mod_lt _ (Nat.two_pow_pos w)
    calc joinLanes w (x :: t) < 2 ^ w + 2 ^ w * joinLanes w t := Nat.add_lt_add_right hx _
      _ = 2 ^ w * (joinLanes w t + 1) := by rw [Nat.mul_add_one, Nat.add_comm]
      _ ≤ 2 ^ w * 2 ^ (w * t.length) := Nat.mul_le_mul_left _ ih
      _ = 2 ^ (w * (x :: t).length) := by rw [← Nat.pow_add, List.length_cons, Nat.mul_succ, Nat.add_comm]

/-- Lane `i` of lanes put together is the `i`-th of them. -/
theorem joinLanes_lane (w : Nat) (l : List Nat) (i x : Nat) (h : l[i]? = some x) : joinLanes w l / 2 ^ (w * i) % 2 ^ w = x % 2 ^ w := by
  induction l generalizing i with
  | nil => simp at h
  | cons y t ih =>
    cases i with
    | zero =>
      obtain rfl : y = x := by simpa using h
      simp [joinLanes]
    | succ i =>
      have hy : (y % 2 ^ w + 2 ^ w * joinLanes w t) / 2 ^ w = joinLanes w t := by
        rw [Nat.add_mul_div_left _ _ (Nat.two_pow_pos w), Nat.div_eq_of_lt (Nat.mod_lt _ (Nat.two_pow_pos w)), Nat.zero_add]
      rw [Nat.mul_succ, Nat.add_comm, Nat.pow_add, ← Nat.div_div_eq_div_mul, joinLanes, hy]
      exact ih i (by simpa using h)

/-- Lists of one length put end to end: element `n * i + j` is element `j` of the `i`-th. -/
theorem getElem?_flatMap_const {α β : Type} (l : List α) (f : α → List β) (n i j : Nat) (hf : ∀ a, (f a).length = n) (hj : j < n) :
    (l.flatMap f)[n * i + j]? = l[i]?.bind fun a => (f a)[j]? := by
  induction l generalizing i with
  | nil => rfl
  | cons a t ih =>
    rw [List.flatMap_cons]
    cases i with
    | zero => simp [List.getElem?_append_left, hf, hj]
    | succ i =>
      have hle : (f a).length ≤ n * (i + 1) + j := by rw [hf, Nat.mul_succ]; omega
      have hsub : n * (i + 1) + j - (f a).length = n * i + j := by rw [hf, Nat.mul_succ]; omega
      rw [List.getElem?_append_right hle, hsub, ih, List.getElem?_cons_succ]

theorem length_flatMap_const {α β : Type} (l : List α) (f : α → List β) (n : Nat) (hf : ∀ a, (f a).length = n) :
    (l.flatMap f).length = l.length * n := by
  induction l with
  | nil => simp
  | cons a t ih => rw [List.flatMap_cons, List.length_append, hf, ih, List.length_cons, Nat.succ_mul, Nat.add_comm]

/-- A place in a square of `n` rows of `n`. -/
theorem mul_add_lt_square {n i j : Nat} (hi : i < n) (hj : j < n) : n * i + j < n * n :=
  calc n * i + j < n * i + n := Nat.add_lt_add_left hj _
    _ = n * (i + 1) := (Nat.mul_add_one n i).symm
    _ ≤ n * n := Nat.mul_le_mul_left n hi

theorem length_chunks (n f : Nat) (l : List Byte) (hn : 0 < n) (h : l.length = n * f) : (chunks n f l).length = f := by
  induction f generalizing l with
  | zero => rfl
  | succ f ih =>
    have hne : l.isEmpty = false := by
      rw [List.isEmpty_eq_false_iff, ← List.length_pos_iff, h]
      exact Nat.mul_pos hn f.succ_pos
    have hdrop : (l.drop n).length = n * f := by rw [List.length_drop, h, Nat.mul_succ, Nat.add_sub_cancel]
    rw [chunks, hne, if_neg Bool.false_ne_true, List.length_cons, ih _ hdrop]

/-! ## A whole step (R158) -/

theorem tileRows_le (mode : Nat) : tileRows mode ≤ 32 := by
  unfold tileRows; split <;> omega

/-- A panel cut from 2048 bytes has as many rows as the mode takes. -/
theorem length_panel (mode v : Nat) : (chunks 64 (tileRows mode) ((bytesOfNat 2048 v).take (64 * tileRows mode))).length = tileRows mode := by
  refine length_chunks 64 _ _ (by omega) ?_
  have := tileRows_le mode
  rw [List.length_take, length_bytesOfNat]
  omega

/-- Width of an accumulator element in a mode (Table 8.1). -/
def cellWidth (mode : Nat) : Nat := if mode = 7 then 72 else 36

/-- The elements of a tile fill its bytes. -/
theorem cellWidth_mul (mode : Nat) : cellWidth mode * (tileRows mode * tileRows mode) = 8 * tileBytes mode := by
  unfold cellWidth tileRows tileBytes
  split <;> rfl

/-- The elements after a step with their flags, row after row. -/
def stepCells (smode mode : Nat) (flush : Bool) (tile : Nat) (a b : Panel) : List (Nat × Nat) :=
  (List.range (tileRows smode)).flatMap fun i => (List.range (tileRows smode)).map fun j => stepCell smode mode flush tile a b i j

section
variable (smode mode : Nat) (flush : Bool) (tile : Nat) (a b : Panel)

@[simp] theorem length_stepCells : (stepCells smode mode flush tile a b).length = tileRows smode * tileRows smode := by
  rw [stepCells, length_flatMap_const _ _ (tileRows smode) fun _ => by rw [List.length_map, List.length_range], List.length_range]

theorem getElem?_stepCells (i j : Nat) (hi : i < tileRows smode) (hj : j < tileRows smode) :
    (stepCells smode mode flush tile a b)[tileRows smode * i + j]? = some (stepCell smode mode flush tile a b i j) := by
  rw [stepCells, getElem?_flatMap_const _ _ _ _ _ (by simp) hj]
  simp [hi, hj]

theorem foldl_stepCells : (stepCells smode mode flush tile a b).foldl (fun f r => f ||| r.2) 0 = stepFlags smode mode flush tile a b := by
  simp only [stepCells, stepFlags, List.foldl_flatMap, List.foldl_map]

end

/-- The element that a previous value and two rows make, as `stepTile` has it. -/
def cellOf (smode mode : Nat) (flush : Bool) (c : Nat × List Nat × List Nat) : Nat × Nat :=
  if smode = 6 then stepInt c.1 c.2.1 c.2.2
  else stepElement (if smode = 7 then w72 else a36) (fmtOfType (modeTypes smode).1) (fmtOfType (modeTypes smode).2) mode flush c.1 c.2.1 c.2.2

/-- The operands of a step's elements: each previous value with its rows. -/
def stepOperands (smode tile : Nat) (a b : Panel) : List (Nat × List Nat × List Nat) :=
  (splitLanes (cellWidth smode) (tileRows smode * tileRows smode) tile).zip
    ((a.map (rowElements (modeTypes smode).1)).flatMap fun x => (b.map (rowElements (modeTypes smode).2)).map fun y => (x, y))

/-- Lists of `n * n` elements are equal where they agree row by row. -/
theorem ext_square {α : Type} {n : Nat} {l m : List α} (hl : l.length = n * n) (hm : m.length = n * n)
    (h : ∀ i j, i < n → j < n → l[n * i + j]? = m[n * i + j]?) : l = m := by
  refine List.ext_getElem? fun k => ?_
  by_cases hk : k < n * n
  · have hn : 0 < n := Nat.pos_of_ne_zero fun h0 => by simp [h0] at hk
    rw [← Nat.div_add_mod k n]
    exact h _ _ (Nat.div_lt_of_lt_mul hk) (Nat.mod_lt _ hn)
  · rw [List.getElem?_eq_none (by omega), List.getElem?_eq_none (by omega)]

/-- The pairs of a row of A with each row of B, for one row of A after another, are the operands of the elements in their order. -/
theorem map_stepOperands (smode mode : Nat) (flush : Bool) (tile : Nat) (a b : Panel) (ha : a.length = tileRows smode) (hb : b.length = tileRows smode) :
    (stepOperands smode tile a b).map (cellOf smode mode flush) = stepCells smode mode flush tile a b := by
  refine ext_square (n := tileRows smode) ?_ (length_stepCells _ _ _ _ _ _) fun i j hi hj => ?_
  · have hpairs := length_flatMap_const (a.map (rowElements (modeTypes smode).1))
      (fun x => (b.map (rowElements (modeTypes smode).2)).map fun y => (x, y)) (tileRows smode) fun _ => by simp only [List.length_map, hb]
    rw [List.length_map, stepOperands, List.length_zip, length_splitLanes, hpairs, List.length_map, ha, Nat.min_self]
  · have hk := mul_add_lt_square hi hj
    have hpair : ((a.map (rowElements (modeTypes smode).1)).flatMap fun x => (b.map (rowElements (modeTypes smode).2)).map fun y => (x, y))[tileRows smode * i + j]?
        = some (rowElements (modeTypes smode).1 (a.getD i []), rowElements (modeTypes smode).2 (b.getD j [])) := by
      rw [getElem?_flatMap_const _ _ _ _ _ (by simp [hb]) hj]
      simp [ha, hb, hi, hj]
    rw [getElem?_stepCells _ _ _ _ _ _ i j hi hj, List.getElem?_map, stepOperands, List.zip, List.getElem?_zipWith, getElem?_splitLanes _ _ _ _ hk, hpair]
    rfl

/-- A step's bytes and flags are those of its elements. -/
theorem stepTile_eq (smode mode : Nat) (flush : Bool) (tile : List Byte) (a b : Panel) (ha : a.length = tileRows smode) (hb : b.length = tileRows smode) :
    stepTile smode mode flush tile a b =
      (bytesOfNat (tileBytes smode) (joinLanes (cellWidth smode) ((stepCells smode mode flush (natOfBytes tile) a b).map (·.1))),
        stepFlags smode mode flush (natOfBytes tile) a b) := by
  rw [← foldl_stepCells, ← map_stepOperands smode mode flush (natOfBytes tile) a b ha hb]
  rfl

/-- The bytes of a step, written where the tile was read, are a step of the tile there. -/
theorem tileStep_write (m : Memory) (at' smode mode : Nat) (flush : Bool) (a b : Panel) (ha : a.length = tileRows smode) (hb : b.length = tileRows smode) :
    TileStep m (m.write at' (stepTile smode mode flush (m.read at' (tileBytes smode)) a b).1 []) at' smode mode flush a b := by
  rw [stepTile_eq smode mode flush _ a b ha hb]
  refine ⟨fun i j hi hj => ?_, ?_⟩
  · have hlt := joinLanes_lt (cellWidth smode) ((stepCells smode mode flush (m.readNat at' (tileBytes smode)) a b).map (·.1))
    rw [List.length_map, length_stepCells, cellWidth_mul] at hlt
    have hread := m.readNat_writeNat at' (tileBytes smode) _ hlt
    have hcell := getElem?_stepCells smode mode flush (m.readNat at' (tileBytes smode)) a b i j hi hj
    have hlane := joinLanes_lane (cellWidth smode) _ (tileRows smode * i + j) _ (List.getElem?_map ▸ congrArg (Option.map Prod.fst) hcell)
    exact (congrArg (fun v => v / 2 ^ (cellWidth smode * (tileRows smode * i + j)) % 2 ^ cellWidth smode) hread).trans hlane
  · have hsame := sameOutside_write m at' (bytesOfNat (tileBytes smode) (joinLanes (cellWidth smode)
      ((stepCells smode mode flush (m.readNat at' (tileBytes smode)) a b).map (·.1)))) [] (by simp)
    rwa [length_bytesOfNat] at hsame

/-! ## What R170 clears of the status word -/

/-- Clearing a field of a word is an AND with the rest of its bits. -/
theorem ofNat_setBits_zero (w : Word) (lo len : Nat) : BitVec.ofNat 64 (setBits w.toNat lo len 0) = w &&& ~~~BitVec.ofNat 64 ((2 ^ len - 1) * 2 ^ lo) := by
  apply BitVec.eq_of_getLsbD_eq
  intro i hi
  have hlow : w.toNat % 2 ^ lo < 2 ^ (lo + len) :=
    Nat.lt_of_lt_of_le (Nat.mod_lt _ (Nat.two_pow_pos lo)) (Nat.pow_le_pow_right (by omega) (by omega))
  simp only [setBits, Nat.zero_mod, Nat.zero_mul, Nat.add_zero, BitVec.getLsbD_ofNat, BitVec.getLsbD_and, BitVec.getLsbD_not, hi, decide_true, Bool.true_and]
  rw [Nat.mul_comm (w.toNat / _), Nat.testBit_two_pow_mul_add _ hlow, Nat.testBit_mod_two_pow, Nat.testBit_div_two_pow, Nat.mul_comm (2 ^ len - 1),
    Nat.testBit_two_pow_mul, Nat.testBit_two_pow_sub_one, BitVec.testBit_toNat]
  by_cases hend : i < lo + len
  · rw [if_pos hend]
    by_cases hstart : i < lo
    · simp [hstart]
    · have hin : i - lo < len := by omega
      simp [hstart, hin, Nat.not_lt.mp hstart]
  · have hout : ¬ i - lo < len := by omega
    simp [hend, hout, Nat.not_lt.mp hend, BitVec.testBit_toNat]

theorem clearRun_eq (c : Ctx) : c.clearRun = { c with mstat := runCleared c.mstat } := by
  simp only [Ctx.clearRun, Ctx.setM, ofNat_setBits_zero, BitVec.and_assoc]
  rfl

end Sys2Proof
end

section
/-! Remote matrix commands: what `mxsend` leaves of its core, of its target and of SPILL, and when the busy flag is set (R28, R173 to
R176, R335). -/

namespace Sys2Proof

open Machine

/-! ## Cores, and the busy flag, after an update -/

theorem core_setCore_apply (s : State) (c d : CoreId) (k : Core) : (s.setCore c k).core d = if d = c then k else s.core d := by
  split
  · next h => rw [h, State.core_setCore]
  · next h => exact State.core_setCore_other s c d k h

theorem core_setMe (s : State) (k : Core) (d : CoreId) : (s.setMe k).core d = if d = s.cur then k else s.core d :=
  core_setCore_apply s s.cur d k

theorem core_setCtx (s : State) (c : Ctx) (d : CoreId) :
    (s.setCtx c).core d = { s.core d with ctx := if d = s.cur then c else (s.core d).ctx } := by
  rw [State.setCtx, core_setMe]
  split
  · next h => rw [h]; rfl
  · rfl

theorem core_advance (s : State) (d : CoreId) : s.advance.core d =
    { s.core d with ctx := if d = s.cur then { (s.core d).ctx with pc := (s.core d).ctx.pc + 4 } else (s.core d).ctx } := by
  rw [State.advance, core_setCtx]
  split
  · next h => rw [h]; rfl
  · rfl

/-- An entry that a test takes as it takes the one that it replaces, or rejects where it replaces none, makes no difference to it. -/
theorem any_upsert {α : Type} (p q : α → Bool) (a : α) (l : List α) (h : q a = ((l.find? p).map q).getD false) :
    (upsert p a l).any q = l.any q := by
  induction l with
  | nil => simpa [upsert] using h
  | cons b t ih =>
    rw [upsert]
    cases hb : p b with
    | true =>
      have hab : q a = q b := by simpa [List.find?_cons, hb] using h
      simp [hab]
    | false =>
      have ht := ih (by simpa [List.find?_cons, hb] using h)
      simp [ht]

theorem any_upsert_of_none {α : Type} (p q : α → Bool) (a : α) (l : List α) (h : l.any q = false) : (upsert p a l).any q = q a := by
  induction l with
  | nil => simp [upsert]
  | cons b t ih =>
    obtain ⟨hb, ht⟩ : q b = false ∧ t.any q = false := by simpa only [List.any_cons, Bool.or_eq_false_iff] using h
    rw [upsert]
    split
    · simp [ht]
    · simp [hb, ih ht]

/-- A full queue in which a command of a core waits. -/
def fullWith (c : CoreId) (k : Core) : Bool := k.cmdsFull && k.cmds.any (·.sender == c)

theorem matrixBusy_eq (s : State) (c : CoreId) : matrixBusy s c =
    ((s.core c).cmdOut.isSome || s.mails.any (·.from c) || s.xfers.any (·.from c) || s.cores.any fun k => fullWith c k.2) := rfl

/-- A core that keeps its commands leaves the busy flags. -/
theorem matrixBusy_setCore_same {s : State} {c : CoreId} {k : Core} (d : CoreId) (hcmds : k.cmds = (s.core c).cmds)
    (hout : k.cmdOut = (s.core c).cmdOut) : matrixBusy (s.setCore c k) d = matrixBusy s d := by
  have hcore : ((s.setCore c k).core d).cmdOut = (s.core d).cmdOut := by
    rw [core_setCore_apply]
    split
    · next h => rw [h, hout]
    · rfl
  have hany : (s.setCore c k).cores.any (fun e => fullWith d e.2) = s.cores.any fun e => fullWith d e.2 := by
    refine any_upsert _ _ _ _ ?_
    rw [fullWith, Core.cmdsFull, hcmds, State.core]
    cases s.cores.find? (·.1 == c) <;> rfl
  rw [matrixBusy_eq, matrixBusy_eq, hcore, hany]
  rfl

theorem matrixBusy_setCtx (s : State) (c : Ctx) (d : CoreId) : matrixBusy (s.setCtx c) d = matrixBusy s d :=
  matrixBusy_setCore_same (k := { s.me with ctx := c }) d rfl rfl

/-- The interface of a core that is not busy holds no command. -/
theorem cmdOut_of_idle {s : State} {d : CoreId} (h : matrixBusy s d = false) : (s.core d).cmdOut = none := by
  simp only [matrixBusy_eq, Bool.or_eq_false_iff] at h
  obtain ⟨⟨⟨hout, -⟩, -⟩, -⟩ := h
  exact Option.isNone_iff_eq_none.mp (by simpa using hout)

/-- A core that is not busy becomes so by a command that its interface holds, or by a full queue. -/
theorem matrixBusy_setCore {s : State} {d : CoreId} (h : matrixBusy s d = false) (c : CoreId) (k : Core) :
    matrixBusy (s.setCore c k) d = ((decide (d = c) && k.cmdOut.isSome) || fullWith d k) := by
  simp only [matrixBusy_eq, Bool.or_eq_false_iff] at h
  obtain ⟨⟨⟨hout, hmails⟩, hxfers⟩, hcores⟩ := h
  have hany : (s.setCore c k).cores.any (fun e => fullWith d e.2) = fullWith d k := any_upsert_of_none _ _ _ _ hcores
  rw [matrixBusy_eq, hany, State.setCore_mails, State.setCore_xfers, hmails, hxfers, core_setCore_apply]
  by_cases hd : d = c
  · simp [hd]
  · simp [hd, hout]

theorem matrixBusy_writeSpill (s : State) (c d : CoreId) (x : Nat) : matrixBusy (writeSpill s c x) d = matrixBusy s d := by
  unfold writeSpill; split <;> rfl

theorem cur_writeSpill (s : State) (c : CoreId) (x : Nat) : (writeSpill s c x).cur = s.cur := by
  unfold writeSpill; split <;> rfl

theorem core_writeSpill (s : State) (c d : CoreId) (x : Nat) : (writeSpill s c x).core d = s.core d := by
  unfold writeSpill; split <;> rfl

/-! ## Where a command goes (R174, R176, R335) -/

/-- Whether the spill ring of its target takes a command. -/
def spillsAt (s : State) (m : MatrixCmd) : Bool :=
  (s.core (cmdTarget m)).spillsFor m.x && !(s.reaction (cmdTarget m).sgn m.x).any (·.aborting)

/-- Whether the ring, or else the queue, has room for it. -/
def roomFor (s : State) (m : MatrixCmd) : Bool :=
  if spillsAt s m then decide (ringUse (s.core (cmdTarget m)) m.x + itemBytes (.cmd m) ≤ ringBytes) else !(s.core (cmdTarget m)).cmdsFull

/-- A state with a command at the end of its target's queue. -/
def queued (s : State) (m : MatrixCmd) : State :=
  s.setCore (cmdTarget m) { s.core (cmdTarget m) with cmds := (s.core (cmdTarget m)).cmds ++ [m] }

/-- A state with a command in its target's spill ring. -/
def ringed (s : State) (m : MatrixCmd) : State :=
  s.setCore (cmdTarget m) { s.core (cmdTarget m) with ring := (s.core (cmdTarget m)).ring ++ [⟨m.x, .cmd m⟩] }

/-- A state with a command in its sender's network interface. -/
def withheld (s : State) (m : MatrixCmd) : State := s.setMe { s.me with cmdOut := some m }

theorem core_queued (s : State) (m : MatrixCmd) (e : CoreId) : (queued s m).core e =
    { s.core e with cmds := if e = cmdTarget m then (s.core e).cmds ++ [m] else (s.core e).cmds } := by
  rw [queued, core_setCore_apply]
  split
  · next h => rw [h]
  · rfl

theorem core_ringed (s : State) (m : MatrixCmd) (e : CoreId) : (ringed s m).core e =
    { s.core e with ring := if e = cmdTarget m then (s.core e).ring ++ [⟨m.x, .cmd m⟩] else (s.core e).ring } := by
  rw [ringed, core_setCore_apply]
  split
  · next h => rw [h]
  · rfl

theorem core_withheld (s : State) (m : MatrixCmd) (e : CoreId) : (withheld s m).core e =
    { s.core e with cmdOut := if e = s.cur then some m else (s.core e).cmdOut } := by
  rw [withheld, core_setMe]
  split
  · next h => rw [h]; rfl
  · rfl

theorem takeCmd_eq (s : State) (m : MatrixCmd) : takeCmd s m =
    if roomFor s m then some (if spillsAt s m then writeSpill (ringed s m) (cmdTarget m) m.x else queued s m) else none := by
  have htake : takeCmd s m = if spillsAt s m then ringPut s (cmdTarget m) m.x (.cmd m)
    else if (s.core (cmdTarget m)).cmdsFull then none else some (queued s m) := rfl
  rw [htake, roomFor, ringPut_eq]
  cases spillsAt s m with
  | true => simp [ringed]
  | false => cases (s.core (cmdTarget m)).cmdsFull <;> rfl

/-! ## `mxsend` -/

/-- The sender with the number that its command takes, and that number (R215). -/
def numbered (s : State) (w : Word) : Core × Word := if bit w.toNat 43 then issueNum s.me (bitsOf w.toNat 40 3) else (s.me, 0)

/-- The command that `mxsend` sends (R173). -/
def commandOf (a b : BitVec 5) (s : State) : MatrixCmd where
  word := s.x a.toNat
  panel := BitVec.ofNat 16384 (natOfBytes
    ((segments (descOf (s.x b.toNat)) (List.range (tileRows (bitsOf (s.x a.toNat).toNat 45 3))) 0).flatMap fun o => poolRead s o 64))
  mode := s.ctx.mode
  flush := s.ctx.flush
  sender := s.cur
  x := s.me.rx.getD 0
  gen := (s.myReaction.map (·.gen)).getD 0
  vif := s.myVif.getD 0
  num := (numbered s (s.x a.toNat)).2.toNat

/-- The state in which a command of control word `w` is sent: it has its number, and no run is pending (R170). -/
def issuing (s : State) (w : Word) : State := dropRun (s.setMe (numbered s w).1)

/-- The state after a command is sent: where the target has no room, the sender's interface holds it. -/
def afterSend (s : State) (w : Word) (m : MatrixCmd) : State :=
  ((takeCmd (issuing s w) m).getD (withheld (issuing s w) m)).advance

/-- The checks of `mxsend` pass (R173, R174). -/
structure MxsendPasses (a b : BitVec 5) (k : BitVec 4) (s : State) : Prop where
  reserved : bitsOf (s.x a.toNat).toNat 48 4 = 0 ∧ bitsOf (s.x a.toNat).toNat 0 40 = 0
  half : bitsOf (s.x a.toNat).toNat 45 3 = 7 ∨ bit (s.x a.toNat).toNat 44 = false
  desc : descAOk s (descOf (s.x b.toNat)) false = true ∧ (descOf (s.x b.toNat)).sq = false
  inPool : badSegment s (segments (descOf (s.x b.toNat)) (List.range (tileRows (bitsOf (s.x a.toNat).toNat 45 3))) 0) = none
  good : segmentPoison s (segments (descOf (s.x b.toNat)) (List.range (tileRows (bitsOf (s.x a.toNat).toNat 45 3))) 0) = none
  space : (s.k k.toNat).space = 1
  cap : let at' : Word := BitVec.ofNat 64 ((cmdTarget (commandOf a b s)).idx * 2 ^ 17
      + slotBase s (bitsOf (s.x a.toNat).toNat 52 4) (bitsOf (s.x a.toNat).toNat 44 1))
    capCheck s.ctx.level (s.k k.toNat) at' (tileBytes (bitsOf (s.x a.toNat).toNat 45 3)) (permStore + permRemote) = .ok ()
      ∧ ∃ ls, locate s 1 at' (tileBytes (bitsOf (s.x a.toNat).toNat 45 3)) .store = .ok ls

theorem conclude_hold_or (s t : State) (p : Bool) :
    conclude s (if p then .error (.hold s) else .ok t) = if p then .next s else .next t := by
  split <;> rfl

theorem exec_mxsend {a b : BitVec 5} {k : BitVec 4} {s : State} (h : MxsendPasses a b k s) : exec (.mxsend a b k) s =
    if matrixBusy s s.cur || ((s.core (cmdTarget (commandOf a b s))).cmdsFull && !(s.core (cmdTarget (commandOf a b s))).spillsFor (s.me.rx.getD 0))
    then .next s else .next (afterSend s (s.x a.toNat) (commandOf a b s)) := by
  obtain ⟨⟨hslots, hlow⟩, hhalf, ⟨hdesc, hsq⟩, hpool, hgood, hspace, hcap, ls, hloc⟩ := h
  show execMxsend a b k s = _
  have hreserved : (bitsOf (s.x a.toNat).toNat 48 4 == 0 && bitsOf (s.x a.toNat).toNat 0 40 == 0
      && (bitsOf (s.x a.toNat).toNat 45 3 == 7 || !bit (s.x a.toNat).toNat 44)) = true := by
    simpa [hslots, hlow] using hhalf
  simp only [cmdTarget, commandOf] at hcap hloc ⊢
  simp only [execMxsend, hreserved, hdesc, hsq, hpool, hgood, hspace, hcap, hloc, legal_true, bind_ok, Bool.not_false, Bool.and_true, beq_self_eq_true, guardTrap_true]
  exact conclude_hold_or s _ _

/-! ## What it leaves -/

theorem numbered_eq (s : State) (w : Word) : (numbered s w).1 = { s.me with issued := (numbered s w).1.issued } := by
  unfold numbered; split <;> rfl

theorem issuing_eq (s : State) (w : Word) : issuing s w = (s.setMe (numbered s w).1).setCtx { s.ctx with mstat := runCleared s.ctx.mstat } := by
  rw [issuing, dropRun, clearRun_eq, State.ctx_setMe, numbered_eq]
  rfl

theorem core_issuing (s : State) (w : Word) (e : CoreId) : (issuing s w).core e = { s.core e with
    issued := if e = s.cur then (numbered s w).1.issued else (s.core e).issued
    ctx := if e = s.cur then { (s.core e).ctx with mstat := runCleared (s.core e).ctx.mstat } else (s.core e).ctx } := by
  rw [issuing_eq, numbered_eq, core_setCtx, core_setMe, State.setMe_cur]
  by_cases he : e = s.cur
  · simp only [if_pos he]
    rw [he]
    rfl
  · simp only [if_neg he]

theorem matrixBusy_issuing (s : State) (w : Word) (d : CoreId) : matrixBusy (issuing s w) d = matrixBusy s d := by
  rw [issuing_eq, matrixBusy_setCtx, numbered_eq]
  exact matrixBusy_setCore_same d rfl rfl

/-- A core's commands, ring and reaction are those before the command was numbered. -/
theorem issuing_same (s : State) (w : Word) (e : CoreId) :
    { (issuing s w).core e with issued := (s.core e).issued, ctx := (s.core e).ctx } = s.core e := by
  rw [core_issuing]

theorem spillsAt_issuing (s : State) (w : Word) (m : MatrixCmd) : spillsAt (issuing s w) m = spillsAt s m := by
  unfold spillsAt
  conv => rhs; rw [← issuing_same s w (cmdTarget m)]
  rfl

theorem roomFor_issuing (s : State) (w : Word) (m : MatrixCmd) : roomFor (issuing s w) m = roomFor s m := by
  unfold roomFor
  rw [spillsAt_issuing]
  conv => rhs; rw [← issuing_same s w (cmdTarget m)]
  rfl

/-- The state after a command is sent, but for the PC. -/
theorem afterSend_eq (s : State) (w : Word) (m : MatrixCmd) : afterSend s w m = State.advance (if roomFor s m then
    if spillsAt s m then writeSpill (ringed (issuing s w) m) (cmdTarget m) m.x else queued (issuing s w) m
    else withheld (issuing s w) m) := by
  rw [afterSend, takeCmd_eq, roomFor_issuing, spillsAt_issuing]
  cases roomFor s m <;> rfl

/-- Each core after a command is sent: only its target and its sender differ. -/
theorem core_afterSend (s : State) (w : Word) (m : MatrixCmd) (e : CoreId) : (afterSend s w m).core e = { s.core e with
    issued := if e = s.cur then (numbered s w).1.issued else (s.core e).issued
    ctx := if e = s.cur then { (s.core e).ctx with mstat := runCleared (s.core e).ctx.mstat, pc := (s.core e).ctx.pc + 4 } else (s.core e).ctx
    cmds := if e = cmdTarget m ∧ roomFor s m ∧ spillsAt s m = false then (s.core e).cmds ++ [m] else (s.core e).cmds
    ring := if e = cmdTarget m ∧ roomFor s m ∧ spillsAt s m then (s.core e).ring ++ [⟨m.x, .cmd m⟩] else (s.core e).ring
    cmdOut := if e = s.cur ∧ roomFor s m = false then some m else (s.core e).cmdOut } := by
  have hctx : ∀ v : State, v.cur = s.cur → (v.core e).ctx = ((issuing s w).core e).ctx →
      v.advance.core e = { v.core e with ctx := if e = s.cur then
        { (s.core e).ctx with mstat := runCleared (s.core e).ctx.mstat, pc := (s.core e).ctx.pc + 4 } else (s.core e).ctx } := by
    intro v hcur hv
    rw [core_advance, hv, hcur, core_issuing]
    by_cases he : e = s.cur
    · simp only [if_pos he]
    · simp only [if_neg he]
  rw [afterSend_eq]
  cases roomFor s m with
  | false =>
    rw [if_neg Bool.false_ne_true, hctx (withheld (issuing s w) m) rfl (by rw [core_withheld]), core_withheld, core_issuing]
    simp only [Bool.false_eq_true, false_and, and_false, if_false, and_true]
    rfl
  | true =>
    rw [if_pos rfl]
    cases spillsAt s m with
    | false =>
      rw [if_neg Bool.false_ne_true, hctx (queued (issuing s w) m) rfl (by rw [core_queued]), core_queued, core_issuing]
      simp only [Bool.false_eq_true, Bool.true_eq_false, and_false, if_false, and_true]
    | true =>
      rw [if_pos rfl, hctx (writeSpill (ringed (issuing s w) m) (cmdTarget m) m.x) (cur_writeSpill _ _ _) (by rw [core_writeSpill, core_ringed]), core_writeSpill, core_ringed, core_issuing]
      simp only [Bool.true_eq_false, and_false, if_false, and_true]

theorem issuing_frame (s : State) (w : Word) : { issuing s w with cores := s.cores, mem := s.mem } = s := by
  rw [issuing_eq]
  rfl

theorem afterSend_frame (s : State) (w : Word) (m : MatrixCmd) : { afterSend s w m with cores := s.cores, mem := s.mem } = s := by
  have hframe := issuing_frame s w
  rw [afterSend_eq]
  generalize issuing s w = u at hframe ⊢
  cases roomFor s m with
  | false => exact hframe
  | true => cases spillsAt s m with
    | false => exact hframe
    | true =>
      rw [if_pos rfl, if_pos rfl, writeSpill]
      split <;> exact hframe

section
variable (s : State) (w : Word) (m : MatrixCmd)

theorem cmds_afterSend : ((afterSend s w m).core (cmdTarget m)).cmds =
    if roomFor s m ∧ spillsAt s m = false then (s.core (cmdTarget m)).cmds ++ [m] else (s.core (cmdTarget m)).cmds := by
  rw [core_afterSend]
  exact ite_congr (propext (and_iff_right rfl)) (fun _ => rfl) fun _ => rfl

theorem ring_afterSend : ((afterSend s w m).core (cmdTarget m)).ring =
    if roomFor s m ∧ spillsAt s m then (s.core (cmdTarget m)).ring ++ [⟨m.x, .cmd m⟩] else (s.core (cmdTarget m)).ring := by
  rw [core_afterSend]
  exact ite_congr (propext (and_iff_right rfl)) (fun _ => rfl) fun _ => rfl

theorem core_afterSend_other {e : CoreId} (hcur : e ≠ s.cur) (htgt : e ≠ cmdTarget m) : (afterSend s w m).core e = s.core e := by
  rw [core_afterSend]
  simp only [hcur, htgt, false_and, if_false]

theorem cur_afterSend : (afterSend s w m).cur = s.cur := (congrArg State.cur (afterSend_frame s w m) :)

theorem ctx_afterSend : (afterSend s w m).ctx = { s.ctx with mstat := runCleared s.ctx.mstat, pc := s.ctx.pc + 4 } := by
  rw [State.ctx, State.me, cur_afterSend, core_afterSend]
  exact if_pos rfl

theorem issued_afterSend : (afterSend s w m).me.issued = (numbered s w).1.issued := by
  rw [State.me, cur_afterSend, core_afterSend]
  exact if_pos rfl

theorem cmdOut_afterSend : (afterSend s w m).me.cmdOut = if roomFor s m = false then some m else s.me.cmdOut := by
  rw [State.me, cur_afterSend, core_afterSend]
  exact ite_congr (propext (and_iff_right rfl)) (fun _ => rfl) fun _ => rfl

end

theorem evictedAt_ringed (s : State) (w : Word) (m : MatrixCmd) :
    evictedAt (ringed (issuing s w) m) (cmdTarget m) m.x = evictedAt s (cmdTarget m) m.x := by
  unfold evictedAt
  rw [core_ringed, core_issuing]
  rfl

theorem matrixBusy_ringed (s : State) (m : MatrixCmd) (d : CoreId) : matrixBusy (ringed s m) d = matrixBusy s d :=
  matrixBusy_setCore_same (k := { s.core (cmdTarget m) with ring := (s.core (cmdTarget m)).ring ++ [⟨m.x, .cmd m⟩] }) d rfl rfl

theorem matrixBusy_withheld {s : State} (m : MatrixCmd) (h : matrixBusy s s.cur = false) : matrixBusy (withheld s m) s.cur = true :=
  (matrixBusy_setCore h s.cur { s.me with cmdOut := some m }).trans (by simp)

theorem matrixBusy_queued {s : State} {m : MatrixCmd} {d : CoreId} (h : matrixBusy s d = false) (hsender : m.sender = d) :
    matrixBusy (queued s m) d = decide (7 ≤ (s.core (cmdTarget m)).cmds.length) := by
  have hmine : (decide (d = cmdTarget m) && (s.core (cmdTarget m)).cmdOut.isSome) = false := by
    by_cases hd : d = cmdTarget m
    · rw [← hd, cmdOut_of_idle h, Option.isSome_none, Bool.and_false]
    · simp [hd]
  rw [queued, matrixBusy_setCore h, hmine]
  simp [fullWith, Core.cmdsFull, hsender]

/-- The sender is busy after a send where its interface holds the command, or where the command has filled the queue (log 67). -/
theorem matrixBusy_afterSend {s : State} {m : MatrixCmd} (w : Word) (hidle : matrixBusy s s.cur = false) (hsender : m.sender = s.cur) :
    matrixBusy (afterSend s w m) s.cur
      = decide (roomFor s m = false ∨ (spillsAt s m = false ∧ (s.core (cmdTarget m)).cmds.length = 7)) := by
  have hidle' : matrixBusy (issuing s w) s.cur = false := (matrixBusy_issuing s w s.cur).trans hidle
  rw [afterSend_eq, State.advance, matrixBusy_setCtx]
  cases hroom : roomFor s m with
  | false =>
    have hbusy : matrixBusy (withheld (issuing s w) m) s.cur = true := matrixBusy_withheld m hidle'
    simpa using hbusy
  | true =>
    cases hspills : spillsAt s m with
    | true => simpa [matrixBusy_writeSpill, matrixBusy_ringed] using hidle'
    | false =>
      have hlen : (s.core (cmdTarget m)).cmds.length < 8 := by simpa [roomFor, hspills, Core.cmdsFull] using hroom
      have hcmds : ((issuing s w).core (cmdTarget m)).cmds = (s.core (cmdTarget m)).cmds := by rw [core_issuing]
      rw [if_pos rfl, if_neg Bool.false_ne_true, matrixBusy_queued hidle' hsender, hcmds]
      refine decide_eq_decide.mpr ⟨fun h7 => .inr ⟨rfl, by omega⟩, ?_⟩
      rintro (h | ⟨-, h7⟩)
      · cases h
      · exact Nat.le_of_eq h7.symm

/-- SPILL of no record changes unless the target's ring takes the command while its reaction is evicted. -/
theorem afterSend_mem {s : State} (w : Word) {m : MatrixCmd}
    (h : roomFor s m = false ∨ spillsAt s m = false ∨ evictedAt s (cmdTarget m) m.x = none) : (afterSend s w m).mem = s.mem := by
  rw [afterSend_eq]
  cases hroom : roomFor s m with
  | false => rfl
  | true =>
    cases hspills : spillsAt s m with
    | false => rfl
    | true =>
      have hnone : evictedAt s (cmdTarget m) m.x = none := by simpa [hroom, hspills] using h
      rw [if_pos rfl, if_pos rfl, writeSpill_none _ _ _ ((evictedAt_ringed s w m).trans hnone)]
      rfl

/-- SPILL of the context record shows the ring with the command (Table 14.5, R335). -/
theorem afterSend_spill {s : State} (w : Word) {m : MatrixCmd} {r : Nat} (hroom : roomFor s m = true) (hspills : spillsAt s m = true)
    (hr : evictedAt s (cmdTarget m) m.x = some r) :
    let bs := (((s.core (cmdTarget m)).ring ++ [RingEntry.mk m.x (.cmd m)]).filter fun (e : RingEntry) => e.x == m.x).flatMap
      fun (e : RingEntry) => entryBytes e.item
    (∀ b, b < r + spillOffset ∨ r + (spillOffset + ringBytes) ≤ b → (afterSend s w m).mem.byteAt b = s.mem.byteAt b)
      ∧ (bs.length ≤ ringBytes → (afterSend s w m).mem.read (r + spillOffset) bs.length = bs) := by
  intro bs
  have hmem : (afterSend s w m).mem = (writeSpill (ringed (issuing s w) m) (cmdTarget m) m.x).mem := by
    rw [afterSend_eq, if_pos hroom, if_pos hspills]
    rfl
  have hring : ((ringed (issuing s w) m).core (cmdTarget m)).ring = (s.core (cmdTarget m)).ring ++ [RingEntry.mk m.x (.cmd m)] := by
    rw [core_ringed, core_issuing]
    exact if_pos rfl
  obtain ⟨hout, hread⟩ := writeSpill_mem _ _ _ _ ((evictedAt_ringed s w m).trans hr)
  rw [hring] at hread
  rw [hmem]
  refine ⟨fun b hb => hout b (Nat.add_assoc r _ _ ▸ hb), fun hlen => ?_⟩
  rwa [List.take_of_length_le hlen] at hread

end Sys2Proof
end

section
/-! `REMOTE_STEP_APPLY`: a command that is settled, refused or applied (R171, R174, R175, R197). -/

namespace Sys2Proof

open Machine

/-! ## A command is settled (R175) -/

/-- Of every core only the context may differ. -/
def CtxOnly (s t : State) : Prop := ∀ e, { t.core e with ctx := (s.core e).ctx } = s.core e

theorem ctxOnly_of_cores {s t : State} (h : t.cores = s.cores) : CtxOnly s t := by
  intro e
  simp only [State.core, h]

theorem CtxOnly.trans {s t u : State} (h : CtxOnly s t) (k : CtxOnly t u) : CtxOnly s u := fun e =>
  (congrArg (fun c : Core => { c with ctx := (s.core e).ctx }) (k e)).trans (h e)

theorem ctxOnly_setCore (s : State) (c : CoreId) (x : Ctx) : CtxOnly s (s.setCore c { s.core c with ctx := x }) := by
  intro e
  rw [core_setCore_apply]
  split
  · next h => rw [h]
  · rfl

theorem core_settleCmd (s : State) (m : MatrixCmd) (e : CoreId) : (settleCmd s m).core e =
    if bit m.word.toNat 43 ∧ e = m.sender then completeNum (s.core e) (bitsOf m.word.toNat 40 3) (BitVec.ofNat 64 m.num) else s.core e := by
  unfold settleCmd
  cases bit m.word.toNat 43 with
  | false => simp
  | true =>
    rw [if_pos rfl, core_setCore_apply]
    simp only [true_and]
    split
    · next h => rw [h]
    · rfl

theorem completeNum_congr {k l : Core} (tl : Nat) (n : Word) (hc : k.complete = l.complete) (he : k.early = l.early) :
    (completeNum k tl n).complete = (completeNum l tl n).complete := by
  unfold completeNum
  rw [hc, he]

theorem ctx_settleCmd (s : State) (m : MatrixCmd) (e : CoreId) : ((settleCmd s m).core e).ctx = (s.core e).ctx := by
  rw [core_settleCmd]
  split <;> rfl

theorem settleCmd_frame (s : State) (m : MatrixCmd) : { settleCmd s m with cores := s.cores } = s := by
  unfold settleCmd; split <;> rfl

theorem mem_settleCmd (s : State) (m : MatrixCmd) : (settleCmd s m).mem = s.mem := (congrArg State.mem (settleCmd_frame s m) :)

/-- A core without one of the commands of its queue. -/
def dequeued (s : State) (c : CoreId) (n : Nat) : State := s.setCore c { s.core c with cmds := (s.core c).cmds.eraseIdx n }

theorem core_dequeued (s : State) (c : CoreId) (n : Nat) (e : CoreId) :
    (dequeued s c n).core e = { s.core e with cmds := if e = c then (s.core e).cmds.eraseIdx n else (s.core e).cmds } := by
  rw [dequeued, core_setCore_apply]
  split
  · next h => rw [h]
  · rfl

/-- The queue loses the command, and where TLE = 1 its number completes on the sender's counter; no other counter changes. -/
theorem settleCmd_settles {s t : State} {c : CoreId} {n : Nat} (m : MatrixCmd) (h : CtxOnly (dequeued s c n) t) :
    ((settleCmd t m).core c).cmds = (s.core c).cmds.eraseIdx n
      ∧ ∀ e, ((settleCmd t m).core e).complete = if bit m.word.toNat 43 ∧ e = m.sender
        then (completeNum (s.core e) (bitsOf m.word.toNat 40 3) (BitVec.ofNat 64 m.num)).complete else (s.core e).complete := by
  have hkeep : ∀ e, (t.core e).complete = (s.core e).complete ∧ (t.core e).early = (s.core e).early := fun e => by
    have he := h e
    rw [core_dequeued] at he
    exact ⟨(congrArg Core.complete he :), (congrArg Core.early he :)⟩
  refine ⟨?_, fun e => ?_⟩
  · have hcmds : (t.core c).cmds = (s.core c).cmds.eraseIdx n := by
      have hc := h c
      rw [core_dequeued, if_pos rfl] at hc
      exact (congrArg Core.cmds hc :)
    rw [core_settleCmd, ← hcmds]
    split <;> rfl
  · obtain ⟨hcomplete, hearly⟩ := hkeep e
    rw [core_settleCmd]
    split
    · exact completeNum_congr _ _ hcomplete hearly
    · exact hcomplete

/-! ## A command is refused (R175, R197) -/

/-- The place of a VIF's records lies above the pools and the tiers. -/
theorem le_pinnedAddr (v va : Nat) : 3 * 2 ^ 64 ≤ pinnedAddr v va := by
  unfold pinnedAddr
  omega

theorem byteAt_write_below (m : Memory) {a b : Nat} (bs : List Byte) (bad : List Nat) (h : b < a) : (m.write a bs bad).byteAt b = m.byteAt b := by
  rw [Memory.byteAt_write, if_neg (by omega)]

theorem byteAt_writeNat_below (m : Memory) {a b : Nat} (n v : Nat) (h : b < a) : (m.writeNat a n v).byteAt b = m.byteAt b :=
  byteAt_write_below m _ _ h

theorem mem_send_if (p : Prop) [Decidable p] (s : State) (v : Nat) (m : List Byte) : (if p then s.send v m else s).mem = s.mem := by
  split
  · exact State.send_mem s v m
  · rfl

theorem deadLetter_cores (s : State) (v : Nat) (w p : Word) (r : Nat) (c : CoreId) : (deadLetter s v w p r c).cores = s.cores := by
  unfold deadLetter
  split
  · rfl
  · dsimp only
    split
    · rw [State.send_cores]
    · rfl

theorem deadLetter_units (s : State) (v : Nat) (w p : Word) (r : Nat) (c : CoreId) : (deadLetter s v w p r c).units = s.units := by
  unfold deadLetter
  split
  · rfl
  · dsimp only
    split
    · rw [State.send_units]
    · rfl

/-- A dead letter goes to the records of its VIF. -/
theorem byteAt_deadLetter (s : State) (v : Nat) (w p : Word) (r : Nat) (c : CoreId) {b : Nat} (h : b < 3 * 2 ^ 64) :
    (deadLetter s v w p r c).mem.byteAt b = s.mem.byteAt b := by
  unfold deadLetter
  split
  · rfl
  · next f _ =>
    have hring := le_pinnedAddr v (f.p.saveBase + ringOffset)
    dsimp only
    rw [mem_send_if, byteAt_writeNat_below _ _ _ (by omega)]
    split
    · exact byteAt_writeNat_below _ _ _ (by omega)
    · exact byteAt_write_below _ _ _ (by omega)

theorem recordPending_ctxOnly (s : State) (c : CoreId) (x : Option Nat) (l b : Nat) : CtxOnly s (recordPending s c x l b) := by
  unfold recordPending
  dsimp only
  split
  · exact ctxOnly_setCore s c _
  · split
    · exact ctxOnly_of_cores rfl
    · exact ctxOnly_of_cores rfl

theorem recordFor_ctxOnly (s : State) (c : CoreId) (x gen l b : Nat) : CtxOnly s (recordFor s c x gen l b) := by
  unfold recordFor
  split
  · exact recordPending_ctxOnly s c _ l b
  · exact ctxOnly_of_cores rfl

theorem le_evictedAt {s : State} {c : CoreId} {x a : Nat} (h : evictedAt s c x = some a) : 3 * 2 ^ 64 ≤ a := by
  unfold evictedAt at h
  obtain ⟨e, _, h⟩ := Option.bind_eq_some_iff.mp h
  obtain ⟨f, _, rfl⟩ := Option.map_eq_some_iff.mp h
  exact le_pinnedAddr _ _

theorem byteAt_recordFor (s : State) (c : CoreId) (x gen l b : Nat) {a : Nat} (h : a < 3 * 2 ^ 64) :
    (recordFor s c x gen l b).mem.byteAt a = s.mem.byteAt a := by
  unfold recordFor recordPending
  split
  · dsimp only
    split
    · rfl
    · split
      · next r hr =>
        have hle := le_evictedAt hr
        exact byteAt_writeNat_below _ _ _ (by omega)
      · rfl
  · rfl

theorem bit_pendingWith (p : BitVec 16) (b : Nat) (h : b < 8) : bit (pendingWith p b).toNat b = true := by
  have hbit : ∀ n i, bit n i = n.testBit i := fun n i => (Nat.testBit_eq_decide_div_mod_eq).symm
  have hlow : p.toNat % 256 ||| 2 ^ b < 2 ^ 8 :=
    Nat.or_lt_two_pow (Nat.mod_lt _ (by omega)) (Nat.pow_lt_pow_right (by omega) h)
  have hbits : ∀ count, (BitVec.ofNat 16 (count * 256 + (p.toNat % 256 ||| 2 ^ b))).toNat.testBit b = true := fun count => by
    have h16 : b < 16 := by omega
    rw [BitVec.toNat_ofNat, Nat.testBit_mod_two_pow, Nat.mul_comm, Nat.testBit_two_pow_mul_add count hlow, if_pos h, Nat.testBit_or,
      Nat.testBit_two_pow_self]
    simp [h16]
  rw [hbit]
  exact hbits _

/-- The core that runs the reaction records the failure (R197). -/
theorem bit_recordFor {s : State} {c : CoreId} {x gen l b : Nat} (hrx : (s.core c).rx = some x)
    (hgen : (s.reaction c.sgn x).map (·.gen) = some gen) (hl : l < 7) (hb : b < 8) :
    bit (((recordFor s c x gen l b).core c).ctx.pending.getD l 0).toNat b = true := by
  unfold recordFor recordPending
  rw [if_pos hgen]
  dsimp only
  rw [if_pos hrx, State.core_setCore]
  exact (congrArg (fun p : BitVec 16 => bit p.toNat b) (vector_get_set _ _ _ _ hl)).trans (bit_pendingWith _ b hb)

/-- The state in which a refused command is settled: its dead letter is written, and its sender has the record of the failure. -/
def refusing (s : State) (m : MatrixCmd) : State :=
  recordFor (deadLetter s m.vif m.word m.word Cause.capPerm.code m.sender) m.sender m.x m.gen 3 1

theorem refuseCmd_eq (s : State) (m : MatrixCmd) : refuseCmd s m = settleCmd (refusing s m) m := rfl

theorem refusing_ctxOnly (s : State) (m : MatrixCmd) : CtxOnly s (refusing s m) :=
  (ctxOnly_of_cores (deadLetter_cores ..)).trans (recordFor_ctxOnly _ _ _ _ _ _)

theorem byteAt_refusing (s : State) (m : MatrixCmd) {b : Nat} (h : b < 3 * 2 ^ 64) : (refusing s m).mem.byteAt b = s.mem.byteAt b :=
  (byteAt_recordFor _ _ _ _ _ _ h).trans (byteAt_deadLetter _ _ _ _ _ _ h)

theorem bit_refusing {s : State} {m : MatrixCmd} (hrx : (s.core m.sender).rx = some m.x)
    (hgen : (s.reaction m.sender.sgn m.x).map (·.gen) = some m.gen) :
    bit (((refusing s m).core m.sender).ctx.pending.getD 3 0).toNat 1 = true := by
  refine bit_recordFor ?_ ?_ (by omega) (by omega)
  · rwa [State.core, deadLetter_cores]
  · rwa [State.reaction, State.unit, deadLetter_units]

/-! ## A command is applied (R174, R175) -/

theorem upsert_upsert {α : Type} (p : α → Bool) (a b : α) (l : List α) (ha : p a = true) : upsert p b (upsert p a l) = upsert p b l := by
  induction l with
  | nil => simp [upsert, ha]
  | cons c t ih =>
    rw [upsert]
    cases hc : p c with
    | true => simp [upsert, ha, hc]
    | false => simp [upsert, hc, ih]

theorem setCtx_setCtx (s : State) (c d : Ctx) : (s.setCtx c).setCtx d = s.setCtx d := by
  have hcores : ((s.setCtx c).setCtx d).cores = (s.setCtx d).cores := by
    rw [State.setCtx, State.me_setCtx]
    exact upsert_upsert _ _ _ _ (beq_self_eq_true _)
  exact congrArg (fun l => { s with cores := l }) hcores

/-- The panel that a command carries, as rows. -/
def panelRows (m : MatrixCmd) : Panel :=
  chunks 64 (tileRows (bitsOf m.word.toNat 45 3)) ((bytesOfNat 2048 m.panel.toNat).take (64 * tileRows (bitsOf m.word.toNat 45 3)))

theorem length_panelRows (m : MatrixCmd) : (panelRows m).length = tileRows (bitsOf m.word.toNat 45 3) := length_panel _ _

theorem length_latchRows (k : Ctx) (mode : Nat) : (latchRows k (tileRows mode)).length = tileRows mode := length_panel _ _

/-- Where the tile of a command stands. -/
def tileAddr (s : State) (m : MatrixCmd) : Nat :=
  poolAddr (cmdTarget m) ((s.core (cmdTarget m)).ctx.accBase + 4608 * bitsOf m.word.toNat 52 4 + 2304 * bitsOf m.word.toNat 44 1)

/-- The step of a command. -/
def stepOf (s : State) (m : MatrixCmd) : List Byte × Nat :=
  stepTile (bitsOf m.word.toNat 45 3) m.mode m.flush (s.mem.read (tileAddr s m) (tileBytes (bitsOf m.word.toNat 45 3))) (panelRows m)
    (latchRows (s.core (cmdTarget m)).ctx (tileRows (bitsOf m.word.toNat 45 3)))

/-- The target's context once it has taken a step: the flags are ORed in, and RAPP counts it. -/
def stepTaken (c : Ctx) (fl : Nat) : Ctx :=
  { c with
    fflags := c.fflags ||| BitVec.ofNat 64 (fl % 64)
    mstat := BitVec.ofNat 64 (setBits c.mstat.toNat 0 16 (bitsOf c.mstat.toNat 0 16 + 1)) }

/-- A state whose current core has taken a step, as `applyCmd` writes it. -/
def stepCounted (s : State) (fl : Nat) : State :=
  (setFlags s fl).setCtx ((setFlags s fl).ctx.setM 0 16 ((setFlags s fl).ctx.mField 0 16 + 1))

theorem stepCounted_eq (s : State) (fl : Nat) : stepCounted s fl = s.setCtx (stepTaken s.ctx fl) := by
  rw [stepCounted, setFlags, State.ctx_setCtx, setCtx_setCtx]
  rfl

/-- The state in which an applied command is settled. -/
def applying (s : State) (m : MatrixCmd) : State :=
  { s.setCore (cmdTarget m) { s.core (cmdTarget m) with ctx := stepTaken (s.core (cmdTarget m)).ctx (stepOf s m).2 } with
    mem := s.mem.write (tileAddr s m) (stepOf s m).1 [] }

theorem applyCmd_refused {s : State} {m : MatrixCmd} (h : cmdRefused s (cmdTarget m) m = true) : applyCmd s m = settleCmd (refusing s m) m :=
  (if_pos h).trans (refuseCmd_eq s m)

theorem applyCmd_accepted {s : State} {m : MatrixCmd} (h : cmdRefused s (cmdTarget m) m = false) : applyCmd s m = settleCmd (applying s m) m := by
  have happly : applyCmd s m = settleCmd { stepCounted (poolWrite { s with cur := cmdTarget m } (slotBase { s with cur := cmdTarget m }
      (bitsOf m.word.toNat 52 4) (bitsOf m.word.toNat 44 1)) (stepOf s m).1 []) (stepOf s m).2 with cur := s.cur } m :=
    if_neg (Bool.eq_false_iff.mp h)
  rw [happly, stepCounted_eq]
  rfl

theorem applying_ctxOnly (s : State) (m : MatrixCmd) : CtxOnly s (applying s m) := ctxOnly_setCore s (cmdTarget m) _

theorem core_applying (s : State) (m : MatrixCmd) (e : CoreId) : (applying s m).core e =
    if e = cmdTarget m then { s.core (cmdTarget m) with ctx := stepTaken (s.core (cmdTarget m)).ctx (stepOf s m).2 } else s.core e :=
  core_setCore_apply s (cmdTarget m) e _

/-! ## `REMOTE_STEP_APPLY` -/

/-- What decides about a command is not in a queue. -/
theorem cmdRefused_dequeued (s : State) (c : CoreId) (n : Nat) (d : CoreId) (m : MatrixCmd) :
    cmdRefused (dequeued s c n) d m = cmdRefused s d m := by
  unfold cmdRefused slotBase State.ctx State.me
  dsimp only
  have hcore : ({ dequeued s c n with cur := d } : State).core d = (dequeued s c n).core d := rfl
  rw [hcore, core_dequeued]
  rfl

theorem exec_remoteStepApply {s : State} {c : CoreId} {n : Nat} {m : MatrixCmd} (hfirst : (s.core c).cmds.findIdx? (!cmdWaits s c ·) = some n)
    (hm : (s.core c).cmds[n]? = some m) : exec (.remoteStepApply c) s = .next (applyCmd (dequeued s c n) m) := by
  show execRemoteStepApply c s = _
  simp only [execRemoteStepApply, hfirst, hm]
  rfl

theorem stepOf_dequeued (s : State) (c : CoreId) (n : Nat) (m : MatrixCmd) : stepOf (dequeued s c n) m = stepOf s m := by
  unfold stepOf tileAddr
  rw [core_dequeued]
  rfl

theorem remoteStepApply_applies {s : State} {c : CoreId} {n : Nat} {m : MatrixCmd}
    (hfirst : (s.core c).cmds.findIdx? (!cmdWaits s c ·) = some n) (hm : (s.core c).cmds[n]? = some m)
    (hok : cmdRefused s (cmdTarget m) m = false) : exec (.remoteStepApply c) s = .next (settleCmd (applying (dequeued s c n) m) m) := by
  rw [exec_remoteStepApply hfirst hm, applyCmd_accepted ((cmdRefused_dequeued ..).trans hok)]

theorem remoteStepApply_refuses {s : State} {c : CoreId} {n : Nat} {m : MatrixCmd}
    (hfirst : (s.core c).cmds.findIdx? (!cmdWaits s c ·) = some n) (hm : (s.core c).cmds[n]? = some m)
    (hrefused : cmdRefused s (cmdTarget m) m = true) : exec (.remoteStepApply c) s = .next (settleCmd (refusing (dequeued s c n) m) m) := by
  rw [exec_remoteStepApply hfirst hm, applyCmd_refused ((cmdRefused_dequeued ..).trans hrefused)]

section
variable (s : State) (c : CoreId) (n : Nat) (m : MatrixCmd)

/-- The tile has had the command's step. -/
theorem tileStep_applying : TileStep s.mem (settleCmd (applying (dequeued s c n) m) m).mem (tileAddr s m) (bitsOf m.word.toNat 45 3) m.mode m.flush
    (panelRows m) (latchRows (s.core (cmdTarget m)).ctx (tileRows (bitsOf m.word.toNat 45 3))) := by
  have haddr : tileAddr (dequeued s c n) m = tileAddr s m := by
    unfold tileAddr
    rw [core_dequeued]
  have hmem : (applying (dequeued s c n) m).mem = s.mem.write (tileAddr s m) (stepOf s m).1 [] := by
    rw [applying, stepOf_dequeued, haddr]
    rfl
  rw [mem_settleCmd, hmem]
  exact tileStep_write s.mem _ _ _ _ _ _ (length_panelRows m) (length_latchRows _ _)

/-- The target's context has the flags of all the tile's elements and counts the step; every other context is as before. -/
theorem ctx_applying (e : CoreId) : ((settleCmd (applying (dequeued s c n) m) m).core e).ctx =
    if e = cmdTarget m then stepTaken (s.core e).ctx (stepFlags (bitsOf m.word.toNat 45 3) m.mode m.flush
      (s.mem.readNat (tileAddr s m) (tileBytes (bitsOf m.word.toNat 45 3))) (panelRows m)
      (latchRows (s.core (cmdTarget m)).ctx (tileRows (bitsOf m.word.toNat 45 3)))) else (s.core e).ctx := by
  have hflags := congrArg Prod.snd (stepTile_eq (bitsOf m.word.toNat 45 3) m.mode m.flush (s.mem.read (tileAddr s m) (tileBytes (bitsOf m.word.toNat 45 3)))
    (panelRows m) (latchRows (s.core (cmdTarget m)).ctx (tileRows (bitsOf m.word.toNat 45 3))) (length_panelRows m) (length_latchRows _ _))
  rw [ctx_settleCmd, core_applying, stepOf_dequeued]
  split
  · next h =>
    rw [h, core_dequeued]
    exact congrArg (stepTaken _) hflags
  · rw [core_dequeued]

theorem applying_frame : { settleCmd (applying (dequeued s c n) m) m with cores := s.cores, mem := s.mem } = s :=
  congrArg (fun t : State => { t with cores := s.cores, mem := s.mem }) (settleCmd_frame (applying (dequeued s c n) m) m)

end

/-! ## Remote steps as O39 states them -/

theorem numbered_snd (s : State) (w : Word) :
    (numbered s w).2 = if bit w.toNat 43 then s.me.issued.getD (bitsOf w.toNat 40 3) 0 + 1 else 0 := by
  unfold numbered
  split <;> rfl

theorem numbered_issued (s : State) (w : Word) {n : Nat} (hn : n < 8) : (numbered s w).1.issued.getD n 0 =
    if bit w.toNat 43 ∧ n = bitsOf w.toNat 40 3 then s.me.issued.getD n 0 + 1 else s.me.issued.getD n 0 := by
  unfold numbered
  cases bit w.toNat 43 with
  | false => simp
  | true =>
    simp only [if_true, issueNum, true_and]
    split
    · next h =>
      rw [← h]
      exact vector_get_set _ _ _ _ hn
    · next h => exact vector_get_set_other _ _ _ _ _ h

theorem roomFor_iff (s : State) (m : MatrixCmd) : roomFor s m = true ↔
    if spillsAt s m then ringUse (s.core (cmdTarget m)) m.x + itemBytes (.cmd m) ≤ 24576 else (s.core (cmdTarget m)).cmds.length < 8 := by
  unfold roomFor
  cases spillsAt s m with
  | true => exact decide_eq_true_iff
  | false => simp [Core.cmdsFull]

/-- `mxsend` holds while its core is busy, or the target's queue is full and not set aside for a pre-empted reaction (R28, log 67). -/
theorem sendHolds_iff (s : State) (c : CoreId) (x : Nat) :
    (matrixBusy s s.cur || ((s.core c).cmdsFull && !(s.core c).spillsFor x)) = true ↔
      matrixBusy s s.cur = true ∨ (8 ≤ (s.core c).cmds.length ∧ (s.core c).spillsFor x = false) := by
  simp [Core.cmdsFull]

/-- Settles O39: `core_afterSend` and `matrixBusy_afterSend` for what `mxsend` sends, `tileStep_applying` and `ctx_applying` for a
command that is applied, `bit_refusing` for one that is refused, and `settleCmd_settles` for both. -/
theorem remoteStepResults : Obligations.RemoteStepResults := by
  unfold Obligations.RemoteStepResults
  refine ⟨fun a b k s ls => ?send, fun c s n m hfirst hm => ?apply⟩
  case send =>
    intro w mode d segs tgt there key at' num m away spills room held hslots hlow hhalf hdesc hsq hpool hcap hspace hloc hgood
    have hm : m = commandOf a b s := by
      simp only [m, commandOf, numbered_snd]
      rfl
    have hpass : MxsendPasses a b k s := ⟨⟨hslots, hlow⟩, hhalf, ⟨hdesc, hsq⟩, hpool, hgood, hspace, hcap, ls, hloc⟩
    have hexec := exec_mxsend hpass
    rw [← hm] at hexec
    have hheld : (matrixBusy s s.cur || ((s.core (cmdTarget m)).cmdsFull && !(s.core (cmdTarget m)).spillsFor (s.me.rx.getD 0))) = true ↔ held :=
      sendHolds_iff s (cmdTarget m) m.x
    have hroom : roomFor s m = true ↔ room := roomFor_iff s m
    have hroom' : roomFor s m = false ↔ ¬ room := Bool.eq_false_iff.trans (not_congr hroom)
    refine ⟨fun h => hexec.trans (if_pos (hheld.mpr h)), fun h => ⟨_, hexec.trans (if_neg (mt hheld.mp h)), ?_⟩⟩
    have hidle : matrixBusy s s.cur = false := Bool.eq_false_iff.mpr fun hb => h (.inl hb)
    refine ⟨?cmds, ?ring, ?out, ?busy, ctx_afterSend s _ m, fun n hn => ?issued, fun e hcur htgt => core_afterSend_other s _ m hcur htgt,
      afterSend_frame s _ m, fun hsame => ?mem, fun r hr hsp hrec => ?spill⟩
    case cmds => exact (cmds_afterSend s _ m).trans (ite_congr (propext (and_congr hroom Iff.rfl)) (fun _ => rfl) fun _ => rfl)
    case ring => exact (ring_afterSend s _ m).trans (ite_congr (propext (and_congr hroom Iff.rfl)) (fun _ => rfl) fun _ => rfl)
    case out =>
      rw [cmdOut_afterSend, State.me, cmdOut_of_idle hidle]
      by_cases hr : room
      · exact (if_neg fun hf => hroom'.mp hf hr).trans (if_pos hr).symm
      · exact (if_pos (hroom'.mpr hr)).trans (if_neg hr).symm
    case busy => exact (matrixBusy_afterSend _ hidle rfl).trans (decide_eq_decide.mpr (or_congr hroom' Iff.rfl))
    case issued =>
      rw [issued_afterSend]
      exact numbered_issued s _ hn
    case mem => exact afterSend_mem _ (hsame.imp_left hroom'.mpr)
    case spill => exact afterSend_spill _ (hroom.mpr hr) hsp hrec
  case apply =>
    intro w mode dest target at' panel latched fl settled
    refine ⟨fun hok => ⟨_, remoteStepApply_applies hfirst hm hok, ?_, ?_, ?_, ?_, ?_⟩, fun hrefused => ⟨_, remoteStepApply_refuses hfirst hm hrefused, ?_, ?_, ?_⟩⟩
    · exact tileStep_applying s c n m
    · exact settleCmd_settles m (applying_ctxOnly _ m)
    · exact (ctx_applying s c n m dest).trans (if_pos rfl)
    · exact fun e he => (ctx_applying s c n m e).trans (if_neg he)
    · exact applying_frame s c n m
    · exact settleCmd_settles m (refusing_ctxOnly _ m)
    · intro b hb
      rw [mem_settleCmd, byteAt_refusing _ _ hb]
      rfl
    · intro hrx hgen
      rw [ctx_settleCmd]
      refine bit_refusing ?_ hgen
      rw [core_dequeued]
      exact hrx

end Sys2Proof
end
